-- ==== Sys2Proof/Word.lean ====
section
/-! DEFINITION. The word types of the AMU-5216: bytes, 64-bit words, and the byte order of R4 (little-endian). -/

namespace Sys2Proof

/-- One byte. -/
abbrev Byte := BitVec 8
/-- One 64-bit word: a register, an instruction, a Canopy word. -/
abbrev Word := BitVec 64
/-- One 32-bit vector lane, or one FP32 encoding. -/
abbrev Lane := BitVec 32
/-- The 256 bytes of a vector register: lane `i` in bits `[32 i + 31 : 32 i]` (R104). -/
abbrev VReg := BitVec 2048
/-- A 64-byte record: a descriptor, a request record, an OCFG record; byte `n` in bits `[8 n + 7 : 8 n]` (R4). -/
abbrev Rec64 := BitVec 512

end Sys2Proof
end

