-- ==== Sys2Proof/Syntax.lean ====
section
/-! DEFINITION. The commands of the block: one constructor of `Instr` for each row of spec/opcode_table.json, with the
data that comes from outside the device at that step as its operands. -/

namespace Sys2Proof

/-- Logical core, R12. -/
abbrev Lcid := Fin 512
/-- Hardware thread slot of a core, R12. -/
abbrev TSlot := Fin 8
/-- Partition; also the number of its home stack, its home tower and its trail instance (R12, R58). -/
abbrev PartId := Fin 16
/-- A descriptor ring: `some ctx` for a context's rings, `none` for the admin rings of PF0 (R371). -/
abbrev RingId := Option (Fin 4096)

/-- A function of the PCIe endpoint, R359. -/
inductive Fn where
  | pf0
  | vf (n : PartId)
deriving DecidableEq, Repr

/-- What one read of a coded sector or word shows its checker (R138, R294, R295): no error; an error the code corrects,
in check symbols only or not; an error the code reports as uncorrectable; or an error taken for other data. -/
inductive Seen where
  | clean
  | fixable (checkOnly : Bool)
  | unfixable
  | mistaken (data : BitVec 256)
deriving DecidableEq, Repr

/-- A member of a trail as a message names it (R57): SDID, BDID, board, role. -/
structure MemberId where
  sdid : Nat
  bdid : Nat
  board : Nat
  role : Nat
deriving DecidableEq, Repr

/-- What a PTP message says of itself: its domain, how it was carried (0 layer 2, 1 UDP over IPv4, 2 UDP over IPv6) and its
sequence number (R35). -/
structure PtpHdr where
  domain : BitVec 8
  transport : BitVec 2
  seq : BitVec 16
deriving DecidableEq, Repr

/-- A message a CTRL frame carries (R387): global operations, announcements, takeover, heartbeat, migration control. -/
inductive CtrlMsg where
  /-- The trail ID, SCOPE, period and members let a device that does not hold the image refuse (R59). -/
  | trailStart (digest : BitVec 384) (e : Nat) (epoch : BitVec 8) (issuer : BitVec 8) (opSeq : Nat) (trailId : Word)
      (scope period : Nat) (members : List MemberId)
  | trailStop (trailId : Word) (e : Nat) (cause : BitVec 8) (issuer : BitVec 8) (opSeq : Nat)
  | slip (trailId : Word) (e : Nat) (slot : BitVec 8) (issuer : BitVec 8) (opSeq : Nat)
  | takeover (trailId : Word) (e : Nat) (member : BitVec 8) (issuer : BitVec 8) (opSeq : Nat)
  | heartbeat (trailId : Word) (member : BitVec 8)
  | armed (trailId : Word) (member : BitVec 8) (ok : Bool)
  | snapshot (trailId : Word) (e : Nat) (snapId : BitVec 32) (issuer : BitVec 8) (opSeq : Nat)
  | snapshotDone (trailId : Word) (snapId : BitVec 32) (member : BitVec 8) (status : BitVec 8)
  /-- `b` is the boundary B of R398; `trail` is the ID of the trail whose member this message goes to, or 0. -/
  | migrate (srcSdid dest : BitVec 8) (srcCtx : Fin 4096) (e b : Nat) (epoch : BitVec 8) (trail : Word) (opSeq : Nat)
  | migrateSeq (srcSdid : BitVec 8) (srcCtx : Fin 4096) (handle : BitVec 18) (kvl : Word) (cap len lastTok : Nat)
      (hasLast frozen : Bool)
  | migrateDone (srcSdid : BitVec 8) (srcCtx : Fin 4096) (moved : Nat) (ok : Bool)
deriving DecidableEq, Repr

/-- The timestamps and sender state of a TIME frame (R390), in quarters of a nanosecond on each counter. -/
structure TimeInfo where
  /-- T1, send time of the leader's frame on the sender's counter. -/
  t1 : Int
  /-- T2, receive time of that frame on this device's counter (hardware timestamp). -/
  t2 : Int
  /-- T3, send time of this device's answer on its counter. -/
  t3 : Int
  /-- T4, receive time of the answer on the sender's counter, returned in the sender's next frame. -/
  t4 : Int
  /-- The sender's TE_EST, ns. -/
  te : BitVec 32
  /-- The sender's discipline state (R41). -/
  state : BitVec 4
deriving DecidableEq, Repr

/-- The capabilities one end sends in CONFIG (R384): version bitmap, BOARD_ID, BDID, SDID, SPAN_ID, good lanes, initial
credits of the three channels. -/
structure LinkCaps where
  versions : BitVec 16
  board : BitVec 8
  bdid : BitVec 3
  sdid : BitVec 8
  spanId : BitVec 16
  goodLanes : BitVec 9
  cr0 : Nat
  cr1 : Nat
  cr2 : Nat
deriving DecidableEq, Repr

/-- A fault record of R407 as another device sends it: source ID, event kind, FLAGS, TICK, LOC, VALUE, and whether the
frame reports the sender retired from the trail (R406, R414). -/
structure PeerFault where
  source : BitVec 12
  evt : BitVec 4
  flags : BitVec 8
  tick : Nat
  loc : Word
  value : Word
  retired : Bool
deriving DecidableEq, Repr

/-- The 16-byte header of R387 after its type, the payload, and whether the CRC-32C held. `link` is the Zapiex link it
arrived on. `tag`, `last` and `land` are what R135 and R389 need of a transfer and the header has no place for: its
tag ([31:23] issuing LCID, [22:0] its number), its last frame, and PF = 1. -/
structure FrameIn where
  link : Fin 8
  vc : BitVec 2
  seq : BitVec 12
  src : BitVec 8
  dst : BitVec 8
  epoch : BitVec 8
  hops : BitVec 8
  arg : Word
  payload : List Byte
  tag : BitVec 32
  last : Bool
  land : Bool
  crcOk : Bool
deriving DecidableEq, Repr

/-- What a frame is, by its TYPE (R387), with the parts of its content the manual names but gives no byte layout. -/
inductive FrameBody where
  | idle | credit | ack | nak
  | time (t : TimeInfo)
  | write | addF | addI | resp | tile
  | ctrl (m : CtrlMsg)
  | fault (r : PeerFault)
  | train (c : LinkCaps)
  | reserved
deriving DecidableEq, Repr

/-- A status word a base die answers after a unit operation (R317). -/
structure ClaspStatus where
  state : BitVec 8
  err : BitVec 8
  corr : BitVec 8
  poisMask : BitVec 32
deriving DecidableEq, Repr

/-- How a tile read of flash came out (R325, R326): decoded at a ladder step, rebuilt from the stripe, or lost. -/
inductive TileOutcome where
  | step (k : Fin 8)
  | rebuilt
  | lost
deriving DecidableEq, Repr

/-- A signed request of the management protocols: whether the Fenfort signature, the owner's counter-signature and the
challenge of R353 hold. -/
structure DebugToken where
  fenfort : Bool
  owner : Bool
  fresh : Bool
deriving DecidableEq, Repr

/-- A firmware image offered by PLDM (R350): its signature's validity, its security version and its version. -/
structure FwImage where
  signed : Bool
  svn : BitVec 32
  major : BitVec 8
  minor : BitVec 8
deriving DecidableEq, Repr

/-- Bytes the host has stored to its own memory, visible before the command that carries them (R361). -/
abbrev HostStores := List (Nat × Byte)

/-- The commands. Each constructor is one row of spec/opcode_table.json. -/
inductive Instr where
  -- instructions a core issues for one of its thread slots (R94): the word comes from the core's instruction store
  | nop (c : Lcid) (t : TSlot) | jmp (c : Lcid) (t : TSlot) | brc (c : Lcid) (t : TSlot)
  | loop (c : Lcid) (t : TSlot) | endl (c : Lcid) (t : TSlot) | wtick (c : Lcid) (t : TSlot)
  | halt (c : Lcid) (t : TSlot) | trap (c : Lcid) (t : TSlot) | fence (c : Lcid) (t : TSlot)
  | sadd (c : Lcid) (t : TSlot) | ssub (c : Lcid) (t : TSlot) | smul (c : Lcid) (t : TSlot)
  | sand (c : Lcid) (t : TSlot) | sor (c : Lcid) (t : TSlot) | sxor (c : Lcid) (t : TSlot)
  | sshl (c : Lcid) (t : TSlot) | sshr (c : Lcid) (t : TSlot) | sli (c : Lcid) (t : TSlot)
  | sld (c : Lcid) (t : TSlot) | sst (c : Lcid) (t : TSlot) | scmp (c : Lcid) (t : TSlot)
  | take (c : Lcid) (t : TSlot) | put (c : Lcid) (t : TSlot) | peek (c : Lcid) (t : TSlot)
  | cset (c : Lcid) (t : TSlot) | cclr (c : Lcid) (t : TSlot)
  | wopen (c : Lcid) (t : TSlot) | wclose (c : Lcid) (t : TSlot)
  | tload (c : Lcid) (t : TSlot) | tstore (c : Lcid) (t : TSlot) | tscat (c : Lcid) (t : TSlot)
  | tgath (c : Lcid) (t : TSlot) | rput (c : Lcid) (t : TSlot) | radd (c : Lcid) (t : TSlot)
  | sread (c : Lcid) (t : TSlot) | swrite (c : Lcid) (t : TSlot)
  | lcfg (c : Lcid) (t : TSlot) | lmac (c : Lcid) (t : TSlot) | ldrain (c : Lcid) (t : TSlot)
  | ocfg (c : Lcid) (t : TSlot)
  | vld (c : Lcid) (t : TSlot) | vst (c : Lcid) (t : TSlot)
  | vadd (c : Lcid) (t : TSlot) | vmul (c : Lcid) (t : TSlot) | vfma (c : Lcid) (t : TSlot)
  | vmax (c : Lcid) (t : TSlot) | vmin (c : Lcid) (t : TSlot) | vexp2 (c : Lcid) (t : TSlot)
  | vrsq (c : Lcid) (t : TSlot) | vrcp (c : Lcid) (t : TSlot) | vcvt (c : Lcid) (t : TSlot)
  | vred (c : Lcid) (t : TSlot) | vstat (c : Lcid) (t : TSlot) | vsel (c : Lcid) (t : TSlot)
  | apage (c : Lcid) (t : TSlot) | afin (c : Lcid) (t : TSlot) | arev (c : Lcid) (t : TSlot)
  | route (c : Lcid) (t : TSlot) | sample (c : Lcid) (t : TSlot) | accept (c : Lcid) (t : TSlot)
  -- events at a core's thread slots and queues
  | tagWaitResume (c : Lcid) (t : TSlot)
  | queueEntryFree (c : Lcid) (t : TSlot)
  | wtickWake (c : Lcid) (t : TSlot)
  | fenceRelease (c : Lcid) (t : TSlot)
  /-- `op = none`: the thread's own TAKE or PUT; `some k`: engine operation `k` of the core. -/
  | starve (c : Lcid) (t : TSlot) (op : Option Nat)
  | lcfgApply (c : Lcid) | ocfgApply (c : Lcid)
  | lmacStart (c : Lcid) | lmacEnd (c : Lcid)
  | ldrainStart (c : Lcid) | ldrainEnd (c : Lcid)
  | engineClaimGrant (c : Lcid) (op : Nat)
  | transferComplete (c : Lcid) (op : Nat)
  | engineFaultReport (c : Lcid)
  /-- Operation `op` of source core `src` reaches the remote port of core `c`. -/
  | remoteAccessArrive (c : Lcid) (src : Lcid) (op : Nat)
  | gatherFlush (c : Lcid) (port : Fin 3)
  | apageEngineStart (p : PartId)
  | apageEnd (p : PartId) (engine : Fin 8)
  | serviceRequestEnd (c : Lcid) (op : Nat)
  -- the ring sequencer
  | slotEndCheck (i : PartId) (slot : Fin 256)
  | slipApply (i : PartId)
  | admittingBoundary (i : PartId)
  | heartbeatTimeout (i : PartId) (member : Fin 256)
  | gateStream (i : PartId) (gate : Fin 4096)
  | gateClaspDed (i : PartId) (gate : Fin 4096)
  | gateTickPut (i : PartId) (gate : Fin 4096)
  | xdevEvent (i : PartId) (event : Fin 4096)
  | slotOpen (i : PartId) (slot : Fin 256)
  | subslotOpen (i : PartId) (slot : Fin 256) (sub : Fin 16)
  | trailRun (i : PartId)
  | stopBoundary (i : PartId)
  | takeover (i : PartId)
  | coreRetire (c : Lcid)
  -- the KV unit
  | kvPrepare (p : PartId)
  | kvCommit (p : PartId)
  | kvImportCopyEnd (seq : Fin 262144)
  | kvExportEnd (seq : Fin 262144)
  -- descriptors
  | step (r : RingId) | adapterStep (r : RingId)
  | seqOpen (r : RingId) | seqClose (r : RingId) | kvImport (r : RingId) | kvExport (r : RingId)
  | objMap (r : RingId) | objMapShare (r : RingId) | objMapAdopt (r : RingId)
  | objPlace (r : RingId) | objPlaceArrange (r : RingId) | objUnmap (r : RingId)
  | migrationTileSwitch (p : PartId)
  | trailLoad (r : RingId) | trailStart (r : RingId) | trailStop (r : RingId)
  | quotaSet (r : RingId)
  | snapshot (r : RingId)
  | snapshotCapture (i : PartId)
  | snapshotCopyEnd (i : PartId)
  | migrate (r : RingId)
  | migrateBoundary (x : Fin 4096)
  | migrateSequenceLanded (x : Fin 4096) (seq : Fin 262144)
  | fenceDescriptor (r : RingId) | nopDescriptor (r : RingId)
  | profileSet (r : RingId)
  | profileChangeEnd
  | watchEnter (r : RingId)
  | watchExit (profile : Option (Fin 4))
  -- doorbells, rings, contexts
  | sqTail (r : RingId) (tail : BitVec 32) (mem : HostStores)
  | cqHead (r : RingId) (head : BitVec 32)
  | eqHead (r : RingId) (head : BitVec 32)
  | ringHeaderDoorbell (r : RingId)
  | descriptorFetch (r : RingId)
  | cqSpaceResume (r : RingId)
  | modTicksExpiry (r : RingId)
  | create (n : PartId) (mem : HostStores)
  | destroy (n : PartId)
  | rebase (n : PartId) (mem : HostStores)
  | rebaseApply (x : Fin 4096)
  | adminContextCreate (mem : HostStores)
  | adminContextDestroy
  | kill (p : PartId)
  | keyErasure (x : Fin 4096)
  | contextRelease (x : Fin 4096)
  | clearEnd (c : Lcid)
  -- register accesses; a value is the whole 64-bit value the access writes (R10)
  | prtIsoBindWrite (c : Lcid) (v : Word)
  | bindEffect (c : Lcid)
  | prtIsoGrpWrite (p : PartId) (v : Word)
  /-- `canopy = false`: PRT_TBB_I; `true`: PRT_TBB_C. -/
  | prtTbbWrite (c : Lcid) (t : TSlot) (canopy : Bool) (v : Word)
  | prtKvBktWrite (p : PartId) (b : Fin 16) (v : Word)
  | prtXlCfgWrite (p : PartId) (v : Word)
  | prtXlPteRead (p : PartId)
  | ntuTimeLoRead
  | marginRst
  | ntuLeadWrite (v : Word) | ntuGuardWrite (v : Word)
  | trkRegWrite (s : PartId) (p : PartId) (v : Word)
  | rtfSlotWrite (t : PartId) (p : PartId) (v : Word)
  | prtClpBudWrite (s : PartId) (p : PartId) (v : Word)
  | fltSevCfgWrite (v : Word)
  | zxlSpanWrite (v : Word)
  /-- A write of `size` bytes at byte `offset` of BAR `bar` of function `fn`. -/
  | regWrite (fn : Fn) (bar : Fin 6) (offset : Nat) (size : Nat) (v : Word)
  -- network time; `frac` is the instant's nanosecond within the current tick, times in half nanoseconds for PTP
  | ntuStep | pllLock | refLost | refReturn
  | ppsInEdge (frac : Fin 1000) | ppsMissing | noValidMeasurement
  | ptpAnnounce (port : Fin 2) (h : PtpHdr) (rank : Nat)
  | ptpSync (port : Fin 2) (h : PtpHdr) (twoStep : Bool) (t1 corr t2 : Int)
  | ptpFollowUp (port : Fin 2) (h : PtpHdr) (t1 corr : Int)
  | ptpDelayResp (port : Fin 2) (h : PtpHdr) (t3 t4 corr : Int)
  | teUpdate
  | timeFrameSend (link : Fin 8)
  -- frames of a Zapiex link
  | time (f : FrameIn) (t : TimeInfo)
  | idle (f : FrameIn) | credit (f : FrameIn) | ack (f : FrameIn) | nak (f : FrameIn)
  | write (f : FrameIn) | addF (f : FrameIn) | addI (f : FrameIn) | resp (f : FrameIn) | tile (f : FrameIn)
  | ctrl (f : FrameIn) (m : CtrlMsg)
  | fault (f : FrameIn) (r : PeerFault)
  | train (f : FrameIn) (caps : LinkCaps)
  | frameReservedType (f : FrameIn)
  -- link and port events
  | linkActive (link : Fin 8)
  | retrainTimeout (link : Fin 8)
  | laneErrorRate (link : Fin 8) (lane : Fin 9)
  | laneRetire (link : Fin 8) (lane : Fin 9)
  | linkEnable (link : Fin 8) (en : Bool)
  | dynamicAddressAssignment (da : BitVec 7)
  | rdmaWrite (qp : Fin 8192) (rkey : BitVec 32) (va : Nat) (data : List Byte)
  | rdmaWriteWithImmediate (qp : Fin 8192) (f : FrameIn) (b : FrameBody)
  -- Trunk
  | serviceWindow (s : PartId)
  /-- Partition `p` reads the sector at `dpa`; `latCrit`: R289; `seen`: what each attempt shows (R411: the first read
  and up to three re-reads). -/
  | trunkRead (p : PartId) (dpa : Nat) (latCrit : Bool) (seen : List Seen)
  | trunkWrite (p : PartId) (dpa : Nat) (data : BitVec 256)
  | rowRemapEnd (s : PartId)
  | repairQueueRewrite (s : PartId)
  | patrolScrubPassEnd (s : PartId)
  | refreshDue (s : PartId) (q : Fin 64) (bank : Fin 64) (rfm : Bool)
  | temperatureReadout (s : PartId) (temp : BitVec 8)
  | trkRetire (s : PartId) (q : Fin 64)
  | pcRetireEnd (s : PartId)
  | maintEnter (s : PartId) | maintExit (s : PartId) | maintExitEnd (s : PartId)
  | bistStart (s : PartId) (q : Fin 64) | bistStop (s : PartId) (q : Fin 64)
  /-- `accesses` run, `fails` mismatches, and the place of the first mismatch. -/
  | bistRunEnd (s : PartId) (q : Fin 64) (accesses fails : Nat) (row : Fin 16384) (bank : Fin 64) (sector : Fin 32)
      (mask : BitVec 36)
  -- clasp units
  | claspRecord (s : PartId) (p : PartId) (rec : Rec64)
  | claspDrvGo (s : PartId)
  | claspUnitOpEnd (s : PartId) (w : ClaspStatus)
  | claspBudgetResume (s : PartId)
  | dedBurstEnd (s : PartId)
  -- weight windows
  | windowDeliveryEnd (p : PartId) (entry : Nat)
  | stagingEnd (p : PartId) (entry : Nat)
  -- Root
  | rootReadWindow (t : PartId)
  | rootTileRead (t : PartId) (p : PartId) (tile : Nat) (out : TileOutcome) (latUs : Nat)
  | relocationEnd (t : PartId) (region : Nat)
  | rootTileWrite (t : PartId) (tile : Nat) (data : List Byte)
  | rootBufferProgram (t : PartId)
  | mount (t : PartId)
  | mountEnd (t : PartId) (kind : Fin 4) (us : Nat) (replayKib : Nat)
  | unmount (t : PartId) | unmountEnd (t : PartId)
  | rootDieRetire (t : PartId) (die : Fin 16)
  | rootChannelRetire (t : PartId) (ch : Fin 8)
  | rebuildEnd (t : PartId)
  | canopyScrubPassEnd (c : Lcid)
  -- faults, debug, attestation
  | goldenCopyRestore (p : PartId)
  | leakyBucketDecay (bucket : Nat)
  | faultNPulseEnd
  | fltInjGo
  | debugRequest (tok : DebugToken)
  | debugOpen
  | spdmGetMeasurements (index : BitVec 8)
  | pldmFirmwareUpdate (img : FwImage)
  -- power, start-up, resets
  | vin48Good (vq : BitVec 8)
  /-- The end of stage `stage`; `ok = false`: it failed after its retry, for the units in `bad` (stages 6, 7). -/
  | startStageEnd (stage : Fin 12) (ok : Bool) (bad : BitVec 16)
  | profSample (v : BitVec 2)
  | perstNDeassert (width rate : Nat)
  /-- Cause as PWR_STATUS.RESET_CAUSE: 1 RESET_N, 2 PCIe fundamental reset. -/
  | warmReset (cause : Fin 3)
  | bufferedStoreTimeout
  | flrVf (p : PartId)
  | flrPf0
  | vin48Low (vq : BitVec 8)
  | supplySag
  | sagSaveEnd (us mj : Nat)
  | vholdOkRise (vq : BitVec 8) | vholdOkFall (vq : BitVec 8)
  | throttleRise (inst : BitVec 8) (temp : BitVec 8)
  | throttleFall (inst : BitVec 8) (temp : BitVec 8)
  | thermalShutdown (inst : BitVec 8) (temp : BitVec 8)
  | peerDetected (link : Fin 8)
  | announceTimeout (port : Fin 2)
  | migrationTick (x : Fin 4096)
  | objMapFillEnd (x : Fin 4096)
  | arrangeEnd (p : PartId)
  | canopyScrubRead (c : Lcid) (word : Fin 262144) (seen : Seen)
  | rootMapReloadEnd (t : PartId)
  | lifecycleChange (level : BitVec 4)
  | roceAcknowledgement (qp : Fin 8192) (psn : BitVec 24)
  | ethPortLinkChange (port : Fin 2) (mode : BitVec 2)
  /-- An edge's flit fails its CRC; `retries` replays were made, `lane` repair was spent or not. -/
  | ucieFlitCrcError (inst : BitVec 8) (retries : Nat) (recovered : Bool)
deriving DecidableEq, Repr

end Sys2Proof
end

