-- ==== Sys2Proof/Decode.lean ====
section
/-! DEFINITION. The commands that a word spells by the bits of spec/opcode_table.json. -/

namespace Sys2Proof

/-- The table gives none of its rows any bits: its rows are commands and events of a block. So no word spells one. A
core's instruction words are data in its instruction store, decoded by the shared rule of issue (R91 to R94). -/
def decodeTableWord (_nbits _w : Nat) : Option Instr := none

end Sys2Proof
end

