-- ==== Sys2Proof/Machine/Maps.lean ====
section
/-! DEFINITION. Sparse maps: lists of (key, value) pairs in one canonical form, keys strictly rising and no entry equal
to what an unlisted key reads as. Memories, register files and tables are held in this form. -/

namespace Sys2Proof.Machine

/-- A sparse map: (key, value) pairs. A memory is an `SMap Byte` (a list of `Host.Cell`). -/
abbrev SMap (α : Type) := List (Nat × α)

/-- The value at key `k`; `d` is what an unlisted key reads as. -/
def SMap.get {α : Type} (d : α) : SMap α → Nat → α
  | [], _ => d
  | (j, v) :: m, k => if j = k then v else SMap.get d m k

/-- The entry at key `k`, if it is listed. -/
def SMap.find {α : Type} : SMap α → Nat → Option α
  | [], _ => none
  | (j, v) :: m, k => if j = k then some v else SMap.find m k

/-- Removes key `k`. -/
def SMap.erase {α : Type} : SMap α → Nat → SMap α
  | [], _ => []
  | (j, v) :: m, k => if j = k then SMap.erase m k else (j, v) :: SMap.erase m k

/-- Lists value `v` at key `k`, in order. -/
def SMap.insert {α : Type} : SMap α → Nat → α → SMap α
  | [], k, v => [(k, v)]
  | (j, w) :: m, k, v =>
    if j = k then (k, v) :: m else if k < j then (k, v) :: (j, w) :: m else (j, w) :: SMap.insert m k v

/-- Writes `v` at key `k`; writing what an unlisted key reads as removes the entry. -/
def SMap.set {α : Type} [DecidableEq α] (d : α) (m : SMap α) (k : Nat) (v : α) : SMap α :=
  if v = d then m.erase k else m.insert k v

/-- The keys of `m` rise strictly. -/
def SMap.sorted {α : Type} : SMap α → Bool
  | [] => true
  | [_] => true
  | (j, _) :: (k, w) :: m => decide (j < k) && SMap.sorted ((k, w) :: m)

/-- The canonical form: keys rise strictly, and no entry is what its key reads as when unlisted. -/
def SMap.wf {α : Type} [DecidableEq α] (d : Nat → α) (m : SMap α) : Bool :=
  m.sorted && m.all fun e => decide (e.2 ≠ d e.1)

/-- The canonical form of a byte memory whose unlisted bytes read zero. -/
def Memory.wf (m : SMap Byte) : Bool := m.wf fun _ => 0

/-- One byte of a byte memory. -/
def getByte (m : SMap Byte) (a : Nat) : Byte := m.get 0 a

/-- Writes one byte of a byte memory. -/
def setByte (m : SMap Byte) (a : Nat) (b : Byte) : SMap Byte := m.set 0 a b

/-- `n` bytes from address `a`. -/
def getBytes (m : SMap Byte) (a : Nat) : Nat → List Byte
  | 0 => []
  | n + 1 => getByte m a :: getBytes m (a + 1) n

/-- Writes the bytes of `bs` from address `a` upward. -/
def setBytes (m : SMap Byte) (a : Nat) : List Byte → SMap Byte
  | [] => m
  | b :: bs => setBytes (setByte m a b) (a + 1) bs

/-- Zeroes the bytes at addresses `a` to `a + n - 1`. -/
def zeroBytes (m : SMap Byte) (a n : Nat) : SMap Byte := m.filter fun e => decide (e.1 < a) || decide (a + n ≤ e.1)

/-- The number little-endian bytes stand for (R4). -/
def leNat : List Byte → Nat
  | [] => 0
  | b :: bs => b.toNat + 256 * leNat bs

/-- The `n` little-endian bytes of a number (R4). -/
def leBytes (v : Nat) : Nat → List Byte
  | 0 => []
  | n + 1 => BitVec.ofNat 8 v :: leBytes (v / 256) n

/-- Bits `[lo + n - 1 : lo]` of a number. -/
def bitsOf (v lo n : Nat) : Nat := v / 2 ^ lo % 2 ^ n

/-- `n` bits read as a two's complement number. -/
def signedOf (v n : Nat) : Int := if v % 2 ^ n < 2 ^ (n - 1) then (v % 2 ^ n : Nat) else (v % 2 ^ n : Nat) - (2 ^ n : Nat)

/-- Replaces entry `i` of a list; a list shorter than that stays as it is. -/
def listSet {α : Type} : List α → Nat → α → List α
  | [], _, _ => []
  | _ :: xs, 0, v => v :: xs
  | x :: xs, i + 1, v => x :: listSet xs i v

/-- Applies `f` to entry `i` of a list. -/
def listMod {α : Type} : List α → Nat → (α → α) → List α
  | [], _, _ => []
  | x :: xs, 0, f => f x :: xs
  | x :: xs, i + 1, f => x :: listMod xs i f

/-- `f` applied `n` times, `f (n-1)` last, from `0` upward. -/
def iter {σ : Type} (n : Nat) (f : Nat → σ → σ) (s : σ) : σ := (List.range n).foldl (fun s i => f i s) s

end Sys2Proof.Machine
end

