-- ==== Sys2Proof/Machine/Num.lean ====
section
/-! DEFINITION. Exact arithmetic behind the vector unit, the Lattice, the out-path and the attention unit: dyadic
numbers, one rounding to a format (half to even), FP32 operations (R105), the correctly rounded functions exp2ref, rsqref
and rcpref. -/

namespace Sys2Proof.Machine

/-- A decoded floating-point value: NaN, an infinity, or (−1)^neg × m × 2^e. -/
inductive FV where
  | nan
  | inf (neg : Bool)
  | fin (neg : Bool) (m : Nat) (e : Int)
deriving DecidableEq, Repr

/-- An exact dyadic number m × 2^e. -/
structure Dy where
  m : Int
  e : Int
deriving DecidableEq, Repr

/-- 2 to a natural power, as an integer, of a possibly negative exponent taken as 0. -/
def pow2 (e : Int) : Nat := 2 ^ e.toNat

def Dy.zero : Dy := ⟨0, 0⟩
def Dy.ofInt (i : Int) : Dy := ⟨i, 0⟩
def Dy.neg (x : Dy) : Dy := ⟨-x.m, x.e⟩
def Dy.add (x y : Dy) : Dy :=
  if x.e ≤ y.e then ⟨x.m + y.m * pow2 (y.e - x.e), x.e⟩ else ⟨x.m * pow2 (x.e - y.e) + y.m, y.e⟩
def Dy.sub (x y : Dy) : Dy := x.add y.neg
def Dy.mul (x y : Dy) : Dy := ⟨x.m * y.m, x.e + y.e⟩
def Dy.abs (x : Dy) : Dy := ⟨x.m.natAbs, x.e⟩
def Dy.isZero (x : Dy) : Bool := x.m = 0
def Dy.isNeg (x : Dy) : Bool := x.m < 0
def Dy.lt (x y : Dy) : Bool := (x.sub y).m < 0
def Dy.le (x y : Dy) : Bool := (x.sub y).m ≤ 0
def Dy.sum (xs : List Dy) : Dy := xs.foldl Dy.add Dy.zero
/-- Multiplication by a power of two. -/
def Dy.shift (x : Dy) (k : Int) : Dy := ⟨x.m, x.e + k⟩
/-- floor(log2 |x|) of a non-zero number. -/
def Dy.log2 (x : Dy) : Int := Nat.log2 x.m.natAbs + x.e

/-- num ÷ den rounded to an integer, half to even; `den` is positive. -/
def rneDiv (num den : Nat) : Nat :=
  let q := num / den
  let r := num % den
  if 2 * r > den ∨ (2 * r = den ∧ q % 2 = 1) then q + 1 else q

/-- A binary floating-point format: fraction bits, bias, largest finite magnitude code, and the magnitude codes of
infinity and of the NaN that is written, where they exist. -/
structure FFmt where
  fbits : Nat
  bias : Int
  ebits : Nat
  maxCode : Nat
  inf : Option Nat
  nan : Option Nat
deriving DecidableEq, Repr

def fp32 : FFmt := ⟨23, 127, 8, 0x7F7FFFFF, some 0x7F800000, some 0x7FC00000⟩
def bf16 : FFmt := ⟨7, 127, 8, 0x7F7F, some 0x7F80, some 0x7FC0⟩
def fp16 : FFmt := ⟨10, 15, 5, 0x7BFF, some 0x7C00, some 0x7E00⟩
def e4m3 : FFmt := ⟨3, 7, 4, 0x7E, none, some 0x7F⟩
def e5m2 : FFmt := ⟨2, 15, 5, 0x7B, some 0x7C, some 0x7E⟩
def e3m2 : FFmt := ⟨2, 3, 3, 0x1F, none, none⟩
def e2m3 : FFmt := ⟨3, 1, 2, 0x1F, none, none⟩
def e2m1 : FFmt := ⟨1, 1, 2, 0x7, none, none⟩

/-- floor(log2(num ÷ den)) of a positive quotient. -/
def quotLog2 (num den : Nat) : Int :=
  let l : Int := (Nat.log2 num : Int) - Nat.log2 den
  if num * pow2 (-l) < den * pow2 l then l - 1 else l

/-- The magnitude code of num ÷ den rounded once, half to even, with an unbounded exponent range above: a code past
`maxCode` says that the rounded magnitude exceeds the largest finite one. Subnormals are kept. -/
def magCode (f : FFmt) (num den : Nat) : Nat :=
  if num = 0 then 0 else
    let emin : Int := 1 - f.bias
    let ex : Int := max (quotLog2 num den) emin
    let u : Int := ex - f.fbits
    (ex - emin).toNat * 2 ^ f.fbits + rneDiv (num * pow2 (-u)) (den * pow2 u)

/-- The value a code stands for (R176): `code` holds sign, exponent and fraction. -/
def FFmt.dec (f : FFmt) (code : Nat) : FV :=
  let mag := code % 2 ^ (f.ebits + f.fbits)
  let neg := decide (code / 2 ^ (f.ebits + f.fbits) % 2 = 1)
  if mag > f.maxCode then
    match f.inf with
    | some i => if mag = i then .inf neg else .nan
    | none => .nan
  else
    let ex := mag / 2 ^ f.fbits
    let fr := mag % 2 ^ f.fbits
    if ex = 0 then .fin neg fr (1 - f.bias - f.fbits)
    else .fin neg (2 ^ f.fbits + fr) (ex - f.bias - f.fbits)

/-- The decoded FP32 value of a lane. -/
def f32 (x : BitVec 32) : FV := fp32.dec x.toNat

/-- The canonical quiet NaN (R105). -/
def f32nan : BitVec 32 := 0x7FC00000
def f32inf (neg : Bool) : BitVec 32 := if neg then 0xFF800000 else 0x7F800000
def f32zero (neg : Bool) : BitVec 32 := if neg then 0x80000000 else 0

/-- (−1)^neg × num ÷ den rounded once to FP32, half to even; a magnitude past the finite range becomes an infinity. -/
def f32OfQ (neg : Bool) (num den : Nat) : BitVec 32 :=
  let c := magCode fp32 num den
  if c ≥ 0x7F800000 then f32inf neg else BitVec.ofNat 32 ((if neg then 0x80000000 else 0) + c)

/-- A dyadic number rounded once to FP32; `nz` is the sign given to a zero result. -/
def f32OfDy (x : Dy) (nz : Bool := false) : BitVec 32 :=
  if x.m = 0 then f32zero nz else f32OfQ (x.m < 0) (x.m.natAbs * pow2 x.e) (pow2 (-x.e))

/-- x ÷ y rounded once to FP32, for y non-zero. -/
def f32OfDiv (x y : Dy) : BitVec 32 :=
  if x.m = 0 then f32zero false else
    f32OfQ (x.isNeg != y.isNeg) (x.m.natAbs * pow2 (x.e - y.e)) (y.m.natAbs * pow2 (y.e - x.e))

/-- The dyadic number of a finite value; 0 for the others. -/
def FV.dy : FV → Dy
  | .fin neg m e => ⟨if neg then -(m : Int) else m, e⟩
  | _ => Dy.zero

def FV.isFin : FV → Bool
  | .fin _ _ _ => true
  | _ => false

def FV.isZero : FV → Bool
  | .fin _ m _ => m = 0
  | _ => false

/-- The sign of a value; a NaN has none. -/
def FV.sign : FV → Bool
  | .nan => false
  | .inf n => n
  | .fin n _ _ => n

def FV.isNan : FV → Bool
  | .nan => true
  | _ => false

/-- FP32 encoding of a value that FP32 holds, or of its one rounding. -/
def FV.to32 : FV → BitVec 32
  | .nan => f32nan
  | .inf n => f32inf n
  | .fin n m e => f32OfDy ⟨if n then -(m : Int) else m, e⟩ n

/-- Sum of two values with one rounding, of a chosen rounding of the exact sum. -/
def addFV (round : Dy → Bool → BitVec 32) (x y : FV) : BitVec 32 :=
  match x, y with
  | .nan, _ => f32nan
  | _, .nan => f32nan
  | .inf a, .inf b => if a = b then f32inf a else f32nan
  | .inf a, _ => f32inf a
  | _, .inf b => f32inf b
  | .fin a m e, .fin b n d => round ((FV.fin a m e).dy.add (FV.fin b n d).dy) (a && b && m = 0 && n = 0)

/-- Product of two values, exact: a non-finite or the signed product. -/
def mulFV (x y : FV) : FV :=
  match x, y with
  | .nan, _ => .nan
  | _, .nan => .nan
  | .inf a, .inf b => .inf (a != b)
  | .inf a, .fin b m _ => if m = 0 then .nan else .inf (a != b)
  | .fin a m _, .inf b => if m = 0 then .nan else .inf (a != b)
  | .fin a m e, .fin b n d => .fin (a != b) (m * n) (e + d)

def f32add (a b : BitVec 32) : BitVec 32 := addFV (fun x z => f32OfDy x z) (f32 a) (f32 b)
def f32neg (a : BitVec 32) : BitVec 32 := a ^^^ 0x80000000
def f32sub (a b : BitVec 32) : BitVec 32 := f32add a (f32neg b)
def f32mul (a b : BitVec 32) : BitVec 32 := (mulFV (f32 a) (f32 b)).to32
/-- a × b + c with one rounding. -/
def f32fma (a b c : BitVec 32) : BitVec 32 := addFV (fun x z => f32OfDy x z) (mulFV (f32 a) (f32 b)) (f32 c)

/-- A sum of values rounded once: exact where all are finite. -/
def sum32 (xs : List FV) : BitVec 32 :=
  if xs.any FV.isNan then f32nan
  else if xs.all FV.isFin then f32OfDy (Dy.sum (xs.map FV.dy))
  else (xs.filter (!·.isFin)).foldl (fun a x => f32add a x.to32) 0

/-- a < b on values, NaN apart; −0 lies below +0 (IEEE maximum and minimum). -/
def f32lt (a b : BitVec 32) : Bool :=
  match f32 a, f32 b with
  | .nan, _ => false
  | _, .nan => false
  | .inf x, .inf y => x && !y
  | .inf x, .fin _ _ _ => x
  | .fin _ _ _, .inf y => !y
  | .fin x m e, .fin y n d =>
    if m = 0 ∧ n = 0 then x && !y else (FV.fin x m e).dy.lt (FV.fin y n d).dy

def f32max (a b : BitVec 32) : BitVec 32 :=
  if (f32 a).isNan || (f32 b).isNan then f32nan else if f32lt a b then b else a
def f32min (a b : BitVec 32) : BitVec 32 :=
  if (f32 a).isNan || (f32 b).isNan then f32nan else if f32lt b a then b else a

/-- Numeric comparison a > b of FP32 values, both zeros equal, false with a NaN. -/
def f32gt (a b : BitVec 32) : Bool :=
  match f32 a, f32 b with
  | .nan, _ => false
  | _, .nan => false
  | .inf x, .inf y => y && !x
  | .inf x, .fin _ _ _ => !x
  | .fin _ _ _, .inf y => y
  | x, y => y.dy.lt x.dy

/-- x ÷ y with one rounding, for finite values and y non-zero; other cases by IEEE rules. -/
def f32div (a b : BitVec 32) : BitVec 32 :=
  match f32 a, f32 b with
  | .nan, _ => f32nan
  | _, .nan => f32nan
  | .inf _, .inf _ => f32nan
  | .inf x, .fin y _ _ => f32inf (x != y)
  | .fin x _ _, .inf y => f32zero (x != y)
  | .fin x m e, .fin y n d =>
    if n = 0 then (if m = 0 then f32nan else f32inf (x != y))
    else if m = 0 then f32zero (x != y)
    else f32OfDiv (FV.fin x m e).dy (FV.fin y n d).dy

/-- floor of the square root of `n`, found bit by bit from bit `b - 1` down. -/
def isqrt (n : Nat) : Nat → Nat → Nat
  | 0, r => r
  | b + 1, r => isqrt n b (if (r + 2 ^ b) * (r + 2 ^ b) ≤ n then r + 2 ^ b else r)

/-- rcpref: 1 ÷ a rounded once (R105). -/
def rcpref (a : BitVec 32) : BitVec 32 :=
  match f32 a with
  | .nan => f32nan
  | .inf n => f32zero n
  | .fin n m e => if m = 0 then f32inf n else f32OfQ n (pow2 (-e)) (m * pow2 e)

/-- rsqref: 1 ÷ √a rounded once (R105): the root of 2^400 ÷ a is taken to an integer with a sticky half. -/
def rsqref (a : BitVec 32) : BitVec 32 :=
  match f32 a with
  | .nan => f32nan
  | .inf n => if n then f32nan else f32zero false
  | .fin n m e =>
    if m = 0 then f32inf n
    else if n then f32nan
    else
      let x := 2 ^ (400 - e).toNat
      let s := isqrt (x / m) 400 0
      f32OfQ false (2 * s + (if s * s * m = x then 0 else 1)) (2 ^ 201)

/-- floor(2^320 × ln 2). -/
def ln2Fix : Nat := 0xB17217F7D1CF79ABC9E3B39803F2F6AF40F343267298B62D8A0D175B8BAAFA2BE7B876206DEBAC98

/-- e^(t ÷ 2^320) × 2^320 by its power series, `k` terms still to add. -/
def expFix (t : Nat) : Nat → Nat → Nat → Nat → Nat
  | 0, _, _, acc => acc
  | k + 1, i, term, acc =>
    let term := term * t / 2 ^ 320 / i
    expFix t k (i + 1) term (acc + term)

/-- exp2ref: 2^a rounded once (R105), from a fixed-point value of 320 fraction bits; an integer `a` is exact. -/
def exp2ref (a : BitVec 32) : BitVec 32 :=
  match f32 a with
  | .nan => f32nan
  | .inf n => if n then f32zero false else f32inf false
  | .fin n m e =>
    let x : Dy := (FV.fin n m e).dy
    if Dy.le ⟨129, 0⟩ x then f32inf false
    else if Dy.le x ⟨-152, 0⟩ then f32zero false
    else
      let fix : Int := if e ≥ 0 then x.m * pow2 e * 2 ^ 320 else x.m * (2 ^ (320 + e).toNat : Nat)
      let k : Int := fix / (2 ^ 320 : Nat)
      let fr := (fix - k * (2 ^ 320 : Nat)).toNat
      let r := expFix (fr * ln2Fix / 2 ^ 320) 80 1 (2 ^ 320) (2 ^ 320)
      f32OfQ false (r * pow2 k) (2 ^ 320 * pow2 (-k))

/-- FP32 rounded to INT32, half to even, saturating; NaN gives 0 (R106). -/
def f32ToI32 (a : BitVec 32) : BitVec 32 :=
  match f32 a with
  | .nan => 0
  | .inf n => if n then 0x80000000 else 0x7FFFFFFF
  | .fin n m e =>
    let q := rneDiv (m * pow2 e) (pow2 (-e))
    if n then (if q ≥ 2 ^ 31 then 0x80000000 else BitVec.ofInt 32 (-(q : Int)))
    else if q ≥ 2 ^ 31 then 0x7FFFFFFF else BitVec.ofNat 32 q

/-- INT32 to FP32, rounded half to even (R106). -/
def i32ToF32 (a : BitVec 32) : BitVec 32 := f32OfDy (Dy.ofInt a.toInt)

/-- FP32 rounded to BF16 precision, held in FP32 (R106). -/
def f32ToBf16 (a : BitVec 32) : BitVec 32 :=
  match f32 a with
  | .nan => f32nan
  | .inf n => f32inf n
  | .fin n m e =>
    BitVec.ofNat 32 ((if n then 0x80000000 else 0) + magCode bf16 (m * pow2 e) (pow2 (-e)) * 65536)

/-- An FP32 truncated toward zero from an exact value (R160). -/
def f32Trunc (x : Dy) : BitVec 32 :=
  let r := f32OfDy x x.isNeg
  match f32 r with
  | .inf n => BitVec.ofNat 32 ((if n then 0x80000000 else 0) + fp32.maxCode)
  | v => if x.abs.lt v.dy.abs then r - 1 else r

end Sys2Proof.Machine
end

