-- ==== Sys2Proof/Machine/Formats.lean ====
section
/-! DEFINITION. Element and scale formats, packing (R176 to R181), the counter-based generator of R160, and the
arithmetic of one Lattice lane: the lane sum, promotion and stochastic rounding (R151 to R160). -/

namespace Sys2Proof.Machine

/-- Bits of an element format code (R176); TERN is handled by bytes. -/
def elemBits (code : Nat) : Nat :=
  match code with
  | 0x0 => 32 | 0x1 => 16 | 0x2 => 16 | 0x3 => 8 | 0x4 => 8 | 0x5 => 6 | 0x6 => 6 | 0x7 => 4
  | 0x8 => 8 | 0x9 => 4 | 0xA => 2 | 0xB => 8 | 0xC => 4 | 0xD => 16 | 0xE => 32 | _ => 8

/-- Significand width b of R151. -/
def elemSig (code : Nat) : Nat :=
  match code with
  | 0x1 => 8 | 0x3 => 4 | 0x4 => 3 | 0x5 => 3 | 0x6 => 4 | 0x7 => 2
  | 0x8 => 8 | 0x9 => 4 | 0xA => 2 | 0xB => 1 | 0xC => 11 | _ => 24

/-- The floating-point format of an element code, where it is one. -/
def elemFmt (code : Nat) : Option FFmt :=
  match code with
  | 0x0 => some fp32 | 0x1 => some bf16 | 0x2 => some fp16 | 0x3 => some e4m3 | 0x4 => some e5m2
  | 0x5 => some e3m2 | 0x6 => some e2m3 | 0x7 => some e2m1 | _ => none

/-- A two's complement integer element. -/
def intElem (raw bits : Nat) : FV :=
  let v := signedOf raw bits
  .fin (v < 0) v.natAbs 0

/-- The value of an element from its raw bits (R176); LUT4 indexes its codebook of FP16 entries (R180). -/
def decElem (code raw : Nat) (codebook : List Nat) : FV :=
  match elemFmt code with
  | some f => f.dec raw
  | none => if code = 0xC then fp16.dec (codebook.getD raw 0) else intElem raw (elemBits code)

/-- Trit `j` of a TERN byte (R179): reserved bytes are NaN. -/
def decTrit (b j : Nat) : FV :=
  if b ≥ 243 then .nan else
    match b / 3 ^ j % 3 with
    | 0 => .fin false 0 0
    | 1 => .fin false 1 0
    | _ => .fin true 1 0

/-- Bytes of a packed run of `n` elements (R178, R179). -/
def runBytes (code n : Nat) : Nat := if code = 0xB then (n + 4) / 5 else (n * elemBits code + 7) / 8

/-- Element `k` of a packed run that starts at byte 0 of `m` (a byte source), R178 and R179. -/
def runElem (code : Nat) (m : Nat → Byte) (codebook : List Nat) (k : Nat) : FV :=
  if code = 0xB then decTrit (m (k / 5)).toNat (k % 5)
  else
    let bits := elemBits code
    let b0 := k * bits / 8
    let v := (m b0).toNat + 256 * (m (b0 + 1)).toNat + 65536 * (m (b0 + 2)).toNat + 16777216 * (m (b0 + 3)).toNat
    decElem code (v / 2 ^ (k * bits % 8) % 2 ^ bits) codebook

/-- The bytes of a packed run of element codes (R178): `xs` are the raw bits of each element. -/
def packRun (bits : Nat) (xs : List Nat) : List Byte :=
  leBytes (xs.foldr (fun x acc => x % 2 ^ bits + 2 ^ bits * acc) 0) ((xs.length * bits + 7) / 8)

/-- The bytes of a packed run of trits, digit codes 0, 1, 2 (R179). -/
def packTrits : Nat → List Nat → List Byte
  | 0, _ => []
  | n + 1, ds =>
    BitVec.ofNat 8 ((ds.take 5).foldr (fun d acc => d + 3 * acc) 0) :: packTrits n (ds.drop 5)

/-- Bytes of a scale (R181). -/
def scaleBytes (sfmt : Nat) : Nat := match sfmt with | 0 => 1 | 1 => 1 | 2 => 2 | _ => 4

/-- The value of a scale (R181). -/
def decScale (sfmt raw : Nat) : FV :=
  match sfmt with
  | 0 => if raw = 0xFF then .nan else .fin false 1 ((raw : Int) - 127)
  | 1 => e4m3.dec raw
  | 2 => fp16.dec raw
  | _ => fp32.dec raw

/-- Group size of a GSZ code (R107). -/
def gSize (gsz : Nat) : Nat := 32 * 2 ^ gsz

/-- The operand pairs LCFG accepts (R146). -/
def latPairOk (w a : Nat) : Bool :=
  if w = 0x1 then a = 0x1
  else decide (w ∈ [0x3, 0x4, 0x5, 0x6, 0x7, 0x8, 0x9, 0xA, 0xB, 0xC]) && decide (a ∈ [0x1, 0x3, 0x4, 0x8])

/-- Chunk length C of R148. -/
def chunkLen (wfmt gsz sfmt kg1 : Nat) : Nat :=
  kg1 * 32 * (runBytes wfmt (gSize gsz) + scaleBytes sfmt) + (if wfmt = 0xC then 32 else 0)

/-! ### The generator -/

/-- One round of Philox-4×32. -/
def philoxRound (c : Nat × Nat × Nat × Nat) (k : Nat × Nat) : Nat × Nat × Nat × Nat :=
  let (c0, c1, c2, c3) := c
  let p0 := 0xD2511F53 * c0
  let p1 := 0xCD9E8D57 * c2
  ((p1 / 2 ^ 32) ^^^ c1 ^^^ k.1, p1 % 2 ^ 32, (p0 / 2 ^ 32) ^^^ c3 ^^^ k.2, p0 % 2 ^ 32)

/-- `n` rounds, the key raised after each. -/
def philoxRounds : Nat → Nat × Nat × Nat × Nat → Nat × Nat → Nat × Nat × Nat × Nat
  | 0, c, _ => c
  | n + 1, c, k => philoxRounds n (philoxRound c k) ((k.1 + 0x9E3779B9) % 2 ^ 32, (k.2 + 0xBB67AE85) % 2 ^ 32)

/-- The four output words of Philox-4×32-10 (R160). -/
def philox (key : Nat × Nat) (ctr : Nat × Nat × Nat × Nat) : Nat × Nat × Nat × Nat := philoxRounds 10 ctr key

/-! ### One lane -/

/-- The exact alignment of R153: p × 2^k rounded to an integer, half to even. -/
def rneShift (p : Int) (k : Int) : Int :=
  let q : Int := rneDiv (p.natAbs * pow2 k) (pow2 (-k))
  if p < 0 then -q else q

/-- One attempt of R153 over the products (significand, exponent): the sum, or `none` where it overflows and may be
replayed; the flag says that it clamped. -/
def laneAttempt (lsb : Int) (last : Bool) : List (Int × Int) → Int → Bool → Option (Int × Bool)
  | [], s, sat => some (s, sat)
  | (p, e) :: rest, s, sat =>
    let t := s + rneShift p (e - lsb)
    if t > 2 ^ 19 - 1 ∨ t < -(2 ^ 19) then
      if last then laneAttempt lsb last rest (min (max t (-(2 ^ 19))) (2 ^ 19 - 1)) true else none
    else laneAttempt lsb last rest t sat

/-- The lane sum of R153 and R154: sum, final attempt, least significant exponent, saturation. `fuel` is
REPLAY_MAX + 1 − n. -/
def laneSum (ps : List (Int × Int)) (x b : Int) (nmax : Nat) : Nat → Nat → Int × Nat × Int × Bool
  | 0, n => (0, n, 0, false)
  | fuel + 1, n =>
    let lsb := x + b - 15 + 2 * n
    match laneAttempt lsb (n ≥ nmax) ps 0 false with
    | some (s, sat) => (s, n, lsb, sat)
    | none => laneSum ps x b nmax fuel (n + 1)

/-- The largest exponent among the non-zero finite values (R152). -/
def maxExp : List FV → Option Int
  | [] => none
  | .fin _ m e :: xs => if m = 0 then maxExp xs else
      match maxExp xs with
      | some d => some (max e d)
      | none => some e
  | _ :: xs => maxExp xs

/-- What one lane's group of products gives: its contribution c exactly or as a non-finite value, the final attempt,
saturation, and whether R158 applied. -/
structure LaneOut where
  c : FV
  n : Nat
  sat : Bool
  nonfin : Bool
deriving DecidableEq, Repr

/-- The contribution of one lane and group (R151 to R158): `ws`, `xs` the group's weight and activation elements in
reduction order, `sg` its first-level scale. -/
def laneGroup (ws xs : List FV) (sg : FV) (b : Int) (nmax : Nat) : LaneOut :=
  let prods := (ws.zip xs).map fun (w, a) => mulFV w a
  let anyNan := prods.any FV.isNan
  let infs := prods.filterMap fun p => match p with | FV.inf n => some n | _ => none
  -- a group that meets a NaN or an infinity, its scale's NaN among them, bypasses the lane sum
  if anyNan || (infs.any id && infs.any (!·)) || sg.isNan then ⟨.nan, 0, false, true⟩
  else
    match infs with
    | n :: _ => ⟨.inf (n != sg.sign), 0, false, true⟩
    | [] =>
      let (s, n, lsb, sat) :=
        match maxExp ws, maxExp xs with
        | some ew, some ea =>
          laneSum (prods.map fun p => match p with | FV.fin ng m e => (if ng then -(m : Int) else m, e) | _ => (0, 0))
            (ew + ea) b nmax (nmax + 1) 0
        | _, _ => (0, 0, 0, false)
      match sg with
      | .nan => ⟨.nan, n, sat, true⟩
      | .inf ng => if s = 0 then ⟨.nan, n, sat, true⟩ else ⟨.inf (ng != decide (s < 0)), n, sat, true⟩
      | .fin ng m e =>
        if s = 0 ∨ m = 0 then ⟨.fin false 0 0, n, sat, false⟩
        else ⟨.fin (ng != decide (s < 0)) (s.natAbs * m) (lsb + e), n, sat, false⟩

/-- Stochastic rounding of R159 of an exact value by the draw `r`. Above the largest finite value the next one is 2^128,
which a result shows as an infinity (R158), as it does whatever lies at or beyond it. -/
def f32Stoch (r : Nat) (v : Dy) : BitVec 32 :=
  if v.m = 0 then 0 else
    let near := f32OfDy v
    if (f32 near).isFin && decide ((v.sub (f32 near).dy).m = 0) then near
    else if Dy.le ⟨1, 128⟩ v.abs then f32inf v.isNeg
    else
      let lo := f32Trunc v
      let hiMag := lo + 1
      let d := (v.sub (f32 lo).dy).abs
      let ulpE : Int := max (v.log2) (-126) - 23
      let frac := d.m.toNat * pow2 (d.e - ulpE) * 65536 / pow2 (ulpE - d.e)
      if v.isNeg then
        let t := 65536 - (if d.m.toNat * pow2 (d.e - ulpE) * 65536 % pow2 (ulpE - d.e) = 0 then frac else frac + 1)
        if r < t then lo else hiMag
      else if r < frac then hiMag else lo

/-- The promotion of R156, R158 and R159: the new running sum and whether it left the finite range. -/
def promote (sr : Option Nat) (a : BitVec 32) (c : FV) : BitVec 32 × Bool :=
  match f32 a, c with
  | .fin _ _ _, .fin _ _ _ =>
    let v := (f32 a).dy.add c.dy
    let r := match sr with
      | some d => f32Stoch d v
      | none => f32OfDy v ((f32 a).sign && c.sign && v.isZero && (f32 a).isZero)
    (r, !(f32 r).isFin)
  | x, y => (addFV (fun x z => f32OfDy x z) x y, false)

/-! ### Output scales -/

/-- The smallest value of a scale format that is at least x, clamped (R190), as its code; x is positive and finite. -/
def roundupCode (osfmt : Nat) (x : Dy) : Nat :=
  match osfmt with
  | 0 =>
    let l := x.log2
    let up : Int := if (x.sub ⟨1, l⟩).m = 0 then l else l + 1
    (min (max up (-127)) 127 + 127).toNat
  | 3 => (f32OfDy x).toNat
  | f =>
    let fmt := if f = 1 then e4m3 else fp16
    let c := magCode fmt (x.m.toNat * pow2 x.e) (pow2 (-x.e))
    let c := if (fmt.dec (min c fmt.maxCode)).dy.lt x then c + 1 else c
    min (max c 1) fmt.maxCode

/-- The most positive value QMAX of an element format (R176). -/
def qMax (code : Nat) : Dy :=
  match elemFmt code with
  | some f => (f.dec f.maxCode).dy
  | none =>
    match code with
    | 0x8 => ⟨127, 0⟩ | 0x9 => ⟨7, 0⟩ | 0xA => ⟨1, 0⟩ | 0xB => ⟨1, 0⟩ | 0xD => ⟨32767, 0⟩ | _ => ⟨2147483647, 0⟩

/-- Q of R192 as raw bits: y ÷ s (both dyadic, s positive) rounded once to the format, half to even; the flag says that
it overflowed to infinity. Values are clipped before. -/
def quantise (code : Nat) (neg : Bool) (y s : Dy) : Nat × Bool :=
  let num := y.m.natAbs * pow2 (y.e - s.e)
  let den := s.m.natAbs * pow2 (s.e - y.e)
  match elemFmt code with
  | some f =>
    let c := magCode f num den
    let sg := if neg then 2 ^ (f.ebits + f.fbits) else 0
    if c > f.maxCode then
      match f.inf with
      | some i => (sg + i, true)
      | none => (sg + f.maxCode, false)
    else (sg + c, false)
  | none =>
    let q := min (rneDiv num den) (qMax code).m.toNat
    let bits := elemBits code
    if code = 0xB then ((if q = 0 then 0 else if neg then 2 else 1), false)
    else ((if neg ∧ q ≠ 0 then 2 ^ bits - q else q), false)

/-- The value Q stands for, exactly. -/
def dequant (code raw : Nat) : FV :=
  if code = 0xB then (match raw with | 0 => .fin false 0 0 | 1 => .fin false 1 0 | _ => .fin true 1 0)
  else decElem code raw []

/-- The NaN a format writes (R192): 0 for a format without one. -/
def nanCode (code : Nat) : Nat :=
  match elemFmt code with
  | some f => f.nan.getD 0
  | none => 0

end Sys2Proof.Machine
end

