-- ==== Sys2Proof/Machine/Regs.lean ====
section
/-! DEFINITION. The registers: one name for each register table of the spec, and for each its fields with their bits,
access types (R6) and reset values (R11), as the tables of the chapters give them. -/

namespace Sys2Proof.Machine

/-- The registers, each the name of its table; a register that stands once per instance carries an instance number. -/
inductive RegId where
  | HUB_ID
  | HUB_CAP_RES
  | NTU_CTL
  | NTU_STATUS
  | NTU_TIME_LO
  | NTU_TIME_HI
  | NTU_TICK
  | NTU_TE
  | NTU_GUARD
  | NTU_LEAD
  | NTU_SERVO
  | NTU_PTP_CFG
  | NTU_TOD_SET
  | NTU_ZX_ASYM
  | NTU_MARGIN
  | NTU_EVT
  | NTU_STEP_DELTA
  | RSQ_CAP
  | RSQ_TRL_STATUS
  | RSQ_TRL_RING
  | RSQ_TRL_SLIP
  | RSQ_TRL_CNT
  | RSQ_TRL_TICKS
  | PRT_TX_STATUS
  | PRT_TX_PC
  | PRT_TX_ADDR
  | PRT_TBB_I
  | PRT_TBB_C
  | PRT_CANOPY_CFG
  | PRT_CNP_STATUS
  | PRT_CNP_ECC
  | PRT_CNP_WIN
  | PRT_CNP_SCRUB
  | PRT_LAT_CFG
  | PRT_RADD_STATUS
  | PRT_LAT_TILE
  | PRT_LAT_CNT
  | PRT_LAT_ECC
  | PRT_OUT_STATUS
  | PRT_OUT_CNT
  | PRT_OUT_TRK
  | PRT_KV_CFG
  | PRT_KV_COW
  | PRT_KV_CNT
  | PRT_KV_ATT
  | PRT_KV_XFER
  | PRT_KV_BKT
  | PRT_DS_ACC
  | PRT_DS_SEQ
  | PRT_DS_SMP
  | PRT_DS_RTE
  | PRT_DS_ERR
  | PRT_XL_CFG
  | PRT_XL_LOOKUP
  | PRT_XL_PTE
  | PRT_XL_FRAMES
  | PRT_XL_MIG
  | PRT_XL_STREAM
  | TRK_CTL
  | TRK_STATUS
  | TRK_ARB_CFG
  | TRK_REG
  | TRK_ECC
  | TRK_SCRUB
  | TRK_REPAIR
  | TRK_REF
  | TRK_BIST_CFG
  | TRK_BIST_STAT
  | TRK_BIST_FAIL
  | PRT_CLP_STATUS
  | PRT_CLP_OPS
  | PRT_CLP_ERR
  | PRT_CLP_WAIT
  | PRT_CLP_REC
  | PRT_CLP_DRV
  | PRT_CLP_BUD
  | RTF_CTL
  | RTF_STATUS
  | RTF_CFG
  | RTF_READ
  | RTF_RETRY
  | RTF_RELOC
  | RTF_WEAR
  | RTF_MOUNT
  | RTF_SLOT
  | PRT_ISO_GRP
  | PRT_ISO_CTX
  | PRT_ISO_BIND
  | PRT_ISO_CNT
  | SEC_LC
  | SEC_BOOT
  | SEC_DBG
  | SEC_KEYS
  | HIF_AQP_CAP
  | HIF_STATUS
  | HIF_ADM_SQ
  | HIF_ADM_CQ
  | HIF_ADM_EQ
  | HIF_ADM_CFG
  | HIF_ADM_CTL
  | VF_INFO
  | VF_CTX_SEL
  | VF_CTX_CFG
  | VF_CTX_SQ
  | VF_CTX_CQ
  | VF_CTX_EQ
  | VF_CTX_SEED
  | VF_CTX_CMD
  | VF_CTX_STATUS
  | VF_CTX_CNT
  | ZXL_CAP
  | ZXL_BOARD
  | ZXL_SPAN
  | ZXL_MIG_IN
  | ZXL_MIG_MAP
  | ZXL_CNT
  | ZXL_LNK_CTL
  | ZXL_LNK_STATUS
  | ZXL_LNK_CNT
  | ETH_PORT_STATUS
  | ETH_QP_SEL
  | ETH_QP_CFG
  | ETH_QP_GID_LO
  | ETH_QP_GID_HI
  | FLT_CTL
  | FLT_STATUS
  | FLT_SEV_SEL
  | FLT_SEV_CFG
  | FLT_PIN_CTL
  | FLT_LEAK
  | FLT_INJ_TGT
  | FLT_INJ_ADDR
  | FLT_INJ_MASK
  | FLT_INJ_CTL
  | FLT_CNT
  | FLT_ROUTE
  | PWR_STATUS
  | PWR_SENS_SEL
  | PWR_SENS
  | PWR_CNT
  | PWR_SAG
deriving DecidableEq, Repr

/-- The access types of R6. -/
inductive Acc where
  | ro | rw | rw1c | rw1s | wo | rwo | rwl
deriving DecidableEq, Repr

/-- A field of a register: its highest and lowest bit. -/
structure Fld where
  reg : RegId
  hi : Nat
  lo : Nat
deriving DecidableEq, Repr

/-- One row of a register table: the field's bits and its access type; reserved ranges are not rows here. -/
structure FldRow where
  hi : Nat
  lo : Nat
  acc : Acc
deriving DecidableEq, Repr


def HUB_CAP_RES.PART_PRESENT : Fld := ⟨.HUB_CAP_RES, 63, 48⟩
def HUB_CAP_RES.CORES_ACTIVE : Fld := ⟨.HUB_CAP_RES, 47, 38⟩
def HUB_CAP_RES.TRUNK_GIB : Fld := ⟨.HUB_CAP_RES, 37, 27⟩
def HUB_CAP_RES.ROOT_TIB : Fld := ⟨.HUB_CAP_RES, 26, 20⟩
def HUB_CAP_RES.ZX_LINKS : Fld := ⟨.HUB_CAP_RES, 19, 16⟩
def HUB_CAP_RES.RES_GEN : Fld := ⟨.HUB_CAP_RES, 7, 0⟩
def HUB_ID.PART : Fld := ⟨.HUB_ID, 63, 48⟩
def HUB_ID.STEP_MAJOR : Fld := ⟨.HUB_ID, 47, 44⟩
def HUB_ID.STEP_MINOR : Fld := ⟨.HUB_ID, 43, 40⟩
def HUB_ID.FW_MAJOR : Fld := ⟨.HUB_ID, 31, 24⟩
def HUB_ID.FW_MINOR : Fld := ⟨.HUB_ID, 23, 16⟩
def HUB_ID.MAGIC : Fld := ⟨.HUB_ID, 15, 0⟩
def NTU_CTL.MARGIN_RST : Fld := ⟨.NTU_CTL, 16, 16⟩
def NTU_CTL.TSRC : Fld := ⟨.NTU_CTL, 15, 12⟩
def NTU_CTL.FSRC : Fld := ⟨.NTU_CTL, 11, 10⟩
def NTU_CTL.PPS_OUT_EN : Fld := ⟨.NTU_CTL, 9, 9⟩
def NTU_CTL.REF_OUT_EN : Fld := ⟨.NTU_CTL, 8, 8⟩
def NTU_CTL.TIME_LEADER : Fld := ⟨.NTU_CTL, 7, 7⟩
def NTU_STATUS.TSRC_ACTIVE : Fld := ⟨.NTU_STATUS, 15, 12⟩
def NTU_STATUS.FSRC_ACTIVE : Fld := ⟨.NTU_STATUS, 11, 10⟩
def NTU_STATUS.PTP_MASTER_SEEN : Fld := ⟨.NTU_STATUS, 9, 9⟩
def NTU_STATUS.PPS_PRESENT : Fld := ⟨.NTU_STATUS, 8, 8⟩
def NTU_STATUS.REF_PRESENT : Fld := ⟨.NTU_STATUS, 7, 7⟩
def NTU_STATUS.STEP_PENDING : Fld := ⟨.NTU_STATUS, 6, 6⟩
def NTU_STATUS.SPAN_OK : Fld := ⟨.NTU_STATUS, 5, 5⟩
def NTU_STATUS.BOARD_OK : Fld := ⟨.NTU_STATUS, 4, 4⟩
def NTU_STATUS.STATE : Fld := ⟨.NTU_STATUS, 3, 0⟩
def NTU_TIME_LO.SEC_LO : Fld := ⟨.NTU_TIME_LO, 63, 32⟩
def NTU_TIME_LO.NSEC : Fld := ⟨.NTU_TIME_LO, 31, 0⟩
def NTU_TIME_HI.SEC_HI : Fld := ⟨.NTU_TIME_HI, 15, 0⟩
def NTU_TICK.TICK : Fld := ⟨.NTU_TICK, 63, 0⟩
def NTU_TE.TE_EST : Fld := ⟨.NTU_TE, 63, 32⟩
def NTU_TE.TE_PEER : Fld := ⟨.NTU_TE, 31, 0⟩
def NTU_GUARD.UPSTREAM_BUDGET : Fld := ⟨.NTU_GUARD, 47, 32⟩
def NTU_GUARD.SPAN_GUARD : Fld := ⟨.NTU_GUARD, 31, 16⟩
def NTU_GUARD.BOARD_GUARD : Fld := ⟨.NTU_GUARD, 15, 0⟩
def NTU_LEAD.SPAN_LEAD : Fld := ⟨.NTU_LEAD, 31, 16⟩
def NTU_LEAD.BOARD_LEAD : Fld := ⟨.NTU_LEAD, 15, 0⟩
def NTU_SERVO.STEP_THRESH : Fld := ⟨.NTU_SERVO, 63, 32⟩
def NTU_SERVO.HO_LIN : Fld := ⟨.NTU_SERVO, 31, 0⟩
def NTU_PTP_CFG.DELAY_ASYM : Fld := ⟨.NTU_PTP_CFG, 63, 32⟩
def NTU_PTP_CFG.DOMAIN : Fld := ⟨.NTU_PTP_CFG, 23, 16⟩
def NTU_PTP_CFG.TRANSPORT : Fld := ⟨.NTU_PTP_CFG, 7, 6⟩
def NTU_PTP_CFG.PROFILE : Fld := ⟨.NTU_PTP_CFG, 3, 0⟩
def NTU_TOD_SET.SEC : Fld := ⟨.NTU_TOD_SET, 47, 0⟩
def NTU_ZX_ASYM.ASYM7 : Fld := ⟨.NTU_ZX_ASYM, 63, 56⟩
def NTU_ZX_ASYM.ASYM6 : Fld := ⟨.NTU_ZX_ASYM, 55, 48⟩
def NTU_ZX_ASYM.ASYM5 : Fld := ⟨.NTU_ZX_ASYM, 47, 40⟩
def NTU_ZX_ASYM.ASYM4 : Fld := ⟨.NTU_ZX_ASYM, 39, 32⟩
def NTU_ZX_ASYM.ASYM3 : Fld := ⟨.NTU_ZX_ASYM, 31, 24⟩
def NTU_ZX_ASYM.ASYM2 : Fld := ⟨.NTU_ZX_ASYM, 23, 16⟩
def NTU_ZX_ASYM.ASYM1 : Fld := ⟨.NTU_ZX_ASYM, 15, 8⟩
def NTU_ZX_ASYM.ASYM0 : Fld := ⟨.NTU_ZX_ASYM, 7, 0⟩
def NTU_MARGIN.SPAN_MIN : Fld := ⟨.NTU_MARGIN, 63, 32⟩
def NTU_MARGIN.BOARD_MIN : Fld := ⟨.NTU_MARGIN, 31, 0⟩
def NTU_EVT.SRC_REJECT : Fld := ⟨.NTU_EVT, 7, 7⟩
def NTU_EVT.SRC_SWITCH : Fld := ⟨.NTU_EVT, 6, 6⟩
def NTU_EVT.REF_LOST : Fld := ⟨.NTU_EVT, 5, 5⟩
def NTU_EVT.PPS_MISSING : Fld := ⟨.NTU_EVT, 4, 4⟩
def NTU_EVT.GUARD_LOST : Fld := ⟨.NTU_EVT, 3, 3⟩
def NTU_EVT.STEPPED : Fld := ⟨.NTU_EVT, 2, 2⟩
def NTU_EVT.LOCK_LOST : Fld := ⟨.NTU_EVT, 1, 1⟩
def NTU_EVT.LOCK_GAINED : Fld := ⟨.NTU_EVT, 0, 0⟩
def NTU_STEP_DELTA.DELTA : Fld := ⟨.NTU_STEP_DELTA, 63, 0⟩
def RSQ_CAP.MINOR_MAX : Fld := ⟨.RSQ_CAP, 47, 32⟩
def RSQ_CAP.CUR_MAJOR : Fld := ⟨.RSQ_CAP, 23, 16⟩
def RSQ_CAP.MAJOR_MAP : Fld := ⟨.RSQ_CAP, 15, 0⟩
def RSQ_TRL_STATUS.TRAIL_ID_LO : Fld := ⟨.RSQ_TRL_STATUS, 63, 32⟩
def RSQ_TRL_STATUS.GROUP_MASK : Fld := ⟨.RSQ_TRL_STATUS, 31, 16⟩
def RSQ_TRL_STATUS.MEMBER_INDEX : Fld := ⟨.RSQ_TRL_STATUS, 15, 8⟩
def RSQ_TRL_STATUS.STATE : Fld := ⟨.RSQ_TRL_STATUS, 3, 0⟩
def RSQ_TRL_RING.SLIPS : Fld := ⟨.RSQ_TRL_RING, 63, 32⟩
def RSQ_TRL_RING.SCHED_RING : Fld := ⟨.RSQ_TRL_RING, 31, 0⟩
def RSQ_TRL_SLIP.SLIP_ROOT : Fld := ⟨.RSQ_TRL_SLIP, 63, 48⟩
def RSQ_TRL_SLIP.SLIP_TRUNK : Fld := ⟨.RSQ_TRL_SLIP, 47, 32⟩
def RSQ_TRL_SLIP.SLIP_LINK : Fld := ⟨.RSQ_TRL_SLIP, 31, 16⟩
def RSQ_TRL_SLIP.SLIP_COMPUTE : Fld := ⟨.RSQ_TRL_SLIP, 15, 0⟩
def RSQ_TRL_CNT.REPLAYS : Fld := ⟨.RSQ_TRL_CNT, 63, 48⟩
def RSQ_TRL_CNT.REPLAY_FAIL : Fld := ⟨.RSQ_TRL_CNT, 47, 32⟩
def RSQ_TRL_CNT.LAST_SLIP_SLOT : Fld := ⟨.RSQ_TRL_CNT, 23, 16⟩
def RSQ_TRL_CNT.STOP_CAUSE : Fld := ⟨.RSQ_TRL_CNT, 7, 0⟩
def RSQ_TRL_TICKS.EVENT_TICK : Fld := ⟨.RSQ_TRL_TICKS, 63, 0⟩
def PRT_TX_STATUS.LATE_CNT : Fld := ⟨.PRT_TX_STATUS, 63, 48⟩
def PRT_TX_STATUS.CAUSE : Fld := ⟨.PRT_TX_STATUS, 47, 40⟩
def PRT_TX_STATUS.TRAP_CNT : Fld := ⟨.PRT_TX_STATUS, 31, 16⟩
def PRT_TX_STATUS.LOOP_DEPTH : Fld := ⟨.PRT_TX_STATUS, 6, 4⟩
def PRT_TX_STATUS.STATE : Fld := ⟨.PRT_TX_STATUS, 3, 0⟩
def PRT_TX_PC.FPC : Fld := ⟨.PRT_TX_PC, 45, 32⟩
def PRT_TX_PC.PC : Fld := ⟨.PRT_TX_PC, 13, 0⟩
def PRT_TX_ADDR.ADDR : Fld := ⟨.PRT_TX_ADDR, 63, 0⟩
def PRT_TBB_I.IBOUND : Fld := ⟨.PRT_TBB_I, 46, 32⟩
def PRT_TBB_I.IBASE : Fld := ⟨.PRT_TBB_I, 13, 0⟩
def PRT_TBB_C.CBOUND : Fld := ⟨.PRT_TBB_C, 53, 32⟩
def PRT_TBB_C.CBASE : Fld := ⟨.PRT_TBB_C, 20, 0⟩
def PRT_CANOPY_CFG.SCRUB_EN : Fld := ⟨.PRT_CANOPY_CFG, 32, 32⟩
def PRT_CANOPY_CFG.CANOPY_TAG_TIMEOUT : Fld := ⟨.PRT_CANOPY_CFG, 23, 0⟩
def PRT_CNP_STATUS.CLEAR_CNT : Fld := ⟨.PRT_CNP_STATUS, 63, 32⟩
def PRT_CNP_STATUS.WIN_OPEN : Fld := ⟨.PRT_CNP_STATUS, 15, 8⟩
def PRT_CNP_STATUS.CLEAR_BUSY : Fld := ⟨.PRT_CNP_STATUS, 0, 0⟩
def PRT_CNP_ECC.CE_CNT : Fld := ⟨.PRT_CNP_ECC, 63, 48⟩
def PRT_CNP_ECC.CB_CNT : Fld := ⟨.PRT_CNP_ECC, 47, 32⟩
def PRT_CNP_ECC.UE_CNT : Fld := ⟨.PRT_CNP_ECC, 31, 16⟩
def PRT_CNP_WIN.MULTI_HIT : Fld := ⟨.PRT_CNP_WIN, 63, 48⟩
def PRT_CNP_WIN.REFUSED : Fld := ⟨.PRT_CNP_WIN, 47, 32⟩
def PRT_CNP_WIN.STARVE_CNT : Fld := ⟨.PRT_CNP_WIN, 31, 16⟩
def PRT_CNP_SCRUB.LAST_PASS : Fld := ⟨.PRT_CNP_SCRUB, 63, 0⟩
def PRT_LAT_CFG.REPLAY_MAX : Fld := ⟨.PRT_LAT_CFG, 1, 0⟩
def PRT_RADD_STATUS.UNORD_CNT : Fld := ⟨.PRT_RADD_STATUS, 63, 32⟩
def PRT_RADD_STATUS.RADD_UNORDERED : Fld := ⟨.PRT_RADD_STATUS, 0, 0⟩
def PRT_LAT_TILE.TSW1 : Fld := ⟨.PRT_LAT_TILE, 63, 32⟩
def PRT_LAT_TILE.TSW0 : Fld := ⟨.PRT_LAT_TILE, 31, 0⟩
def PRT_LAT_CNT.GROUP_REPLAYS : Fld := ⟨.PRT_LAT_CNT, 63, 32⟩
def PRT_LAT_CNT.SAT_CNT : Fld := ⟨.PRT_LAT_CNT, 31, 16⟩
def PRT_LAT_CNT.NONFIN_CNT : Fld := ⟨.PRT_LAT_CNT, 15, 0⟩
def PRT_LAT_ECC.CE_CNT : Fld := ⟨.PRT_LAT_ECC, 63, 48⟩
def PRT_LAT_ECC.CB_CNT : Fld := ⟨.PRT_LAT_ECC, 47, 32⟩
def PRT_LAT_ECC.UE_CNT : Fld := ⟨.PRT_LAT_ECC, 31, 16⟩
def PRT_OUT_STATUS.INVALID_DRAINS : Fld := ⟨.PRT_OUT_STATUS, 63, 32⟩
def PRT_OUT_STATUS.SLOT_VALID : Fld := ⟨.PRT_OUT_STATUS, 15, 8⟩
def PRT_OUT_STATUS.OCFG_REJ : Fld := ⟨.PRT_OUT_STATUS, 0, 0⟩
def PRT_OUT_CNT.CLIP_TOTAL : Fld := ⟨.PRT_OUT_CNT, 63, 32⟩
def PRT_OUT_CNT.NONFIN_TOTAL : Fld := ⟨.PRT_OUT_CNT, 31, 0⟩
def PRT_OUT_TRK.TRK_UPDATES : Fld := ⟨.PRT_OUT_TRK, 63, 32⟩
def PRT_OUT_TRK.TRK_INITS : Fld := ⟨.PRT_OUT_TRK, 31, 0⟩
def PRT_KV_CFG.BKT_COUNT : Fld := ⟨.PRT_KV_CFG, 4, 0⟩
def PRT_KV_COW.COW_CLASP : Fld := ⟨.PRT_KV_COW, 63, 32⟩
def PRT_KV_COW.COW_MOVER : Fld := ⟨.PRT_KV_COW, 31, 0⟩
def PRT_KV_CNT.LIMIT_CNT : Fld := ⟨.PRT_KV_CNT, 63, 48⟩
def PRT_KV_CNT.NOSPACE_CNT : Fld := ⟨.PRT_KV_CNT, 47, 32⟩
def PRT_KV_CNT.SPILL_CNT : Fld := ⟨.PRT_KV_CNT, 31, 16⟩
def PRT_KV_CNT.EMPTY_ROWS : Fld := ⟨.PRT_KV_CNT, 15, 0⟩
def PRT_KV_ATT.APAGE_CNT : Fld := ⟨.PRT_KV_ATT, 63, 32⟩
def PRT_KV_ATT.ROOT_PAGES : Fld := ⟨.PRT_KV_ATT, 31, 16⟩
def PRT_KV_ATT.KV_WAITS : Fld := ⟨.PRT_KV_ATT, 15, 0⟩
def PRT_KV_XFER.IMPORTS : Fld := ⟨.PRT_KV_XFER, 63, 48⟩
def PRT_KV_XFER.EXPORTS : Fld := ⟨.PRT_KV_XFER, 47, 32⟩
def PRT_KV_XFER.XFER_REJ : Fld := ⟨.PRT_KV_XFER, 31, 16⟩
def PRT_KV_XFER.FROZEN : Fld := ⟨.PRT_KV_XFER, 15, 0⟩
def PRT_KV_BKT.CAP : Fld := ⟨.PRT_KV_BKT, 47, 32⟩
def PRT_KV_BKT.BOUND : Fld := ⟨.PRT_KV_BKT, 22, 0⟩
def PRT_DS_ACC.NODES_ACCEPTED : Fld := ⟨.PRT_DS_ACC, 63, 32⟩
def PRT_DS_ACC.NODES_PROPOSED : Fld := ⟨.PRT_DS_ACC, 31, 0⟩
def PRT_DS_SEQ.ACCEPTS : Fld := ⟨.PRT_DS_SEQ, 63, 32⟩
def PRT_DS_SEQ.STOPS : Fld := ⟨.PRT_DS_SEQ, 31, 16⟩
def PRT_DS_SEQ.RESID_ZERO : Fld := ⟨.PRT_DS_SEQ, 15, 0⟩
def PRT_DS_SMP.SAMPLES : Fld := ⟨.PRT_DS_SMP, 63, 32⟩
def PRT_DS_SMP.LOGIT_NONFIN : Fld := ⟨.PRT_DS_SMP, 31, 16⟩
def PRT_DS_SMP.NOCAND : Fld := ⟨.PRT_DS_SMP, 15, 0⟩
def PRT_DS_RTE.ROUTED_ROWS : Fld := ⟨.PRT_DS_RTE, 63, 32⟩
def PRT_DS_RTE.SCORE_NONFIN : Fld := ⟨.PRT_DS_RTE, 31, 16⟩
def PRT_DS_RTE.TIE_CNT : Fld := ⟨.PRT_DS_RTE, 15, 0⟩
def PRT_DS_ERR.BOUGH_REJ : Fld := ⟨.PRT_DS_ERR, 63, 48⟩
def PRT_DS_ERR.REQ_REJ : Fld := ⟨.PRT_DS_ERR, 47, 32⟩
def PRT_XL_CFG.STAGE_MIB : Fld := ⟨.PRT_XL_CFG, 15, 0⟩
def PRT_XL_LOOKUP.CTX_LOCAL : Fld := ⟨.PRT_XL_LOOKUP, 55, 48⟩
def PRT_XL_LOOKUP.OVA_PAGE : Fld := ⟨.PRT_XL_LOOKUP, 47, 16⟩
def PRT_XL_PTE.PTE : Fld := ⟨.PRT_XL_PTE, 63, 0⟩
def PRT_XL_FRAMES.FREE_FRAMES : Fld := ⟨.PRT_XL_FRAMES, 63, 32⟩
def PRT_XL_FRAMES.CLEAR_PEND : Fld := ⟨.PRT_XL_FRAMES, 31, 0⟩
def PRT_XL_MIG.TILES_MOVED : Fld := ⟨.PRT_XL_MIG, 63, 32⟩
def PRT_XL_MIG.MIG_WAITS : Fld := ⟨.PRT_XL_MIG, 31, 16⟩
def PRT_XL_MIG.QUOTA_REFUSED : Fld := ⟨.PRT_XL_MIG, 15, 0⟩
def PRT_XL_STREAM.STAGE_WAITS : Fld := ⟨.PRT_XL_STREAM, 63, 48⟩
def PRT_XL_STREAM.TIER_MISMATCH : Fld := ⟨.PRT_XL_STREAM, 47, 32⟩
def PRT_XL_STREAM.STREAM_ERR : Fld := ⟨.PRT_XL_STREAM, 31, 16⟩
def PRT_XL_STREAM.EPOCH_DROP : Fld := ⟨.PRT_XL_STREAM, 15, 0⟩
def TRK_CTL.RETIRE_GO : Fld := ⟨.TRK_CTL, 15, 15⟩
def TRK_CTL.RETIRE_PC : Fld := ⟨.TRK_CTL, 14, 9⟩
def TRK_CTL.MAINT : Fld := ⟨.TRK_CTL, 8, 8⟩
def TRK_CTL.SCRUB_EN : Fld := ⟨.TRK_CTL, 0, 0⟩
def TRK_STATUS.TEMP_C : Fld := ⟨.TRK_STATUS, 47, 40⟩
def TRK_STATUS.REF_2X : Fld := ⟨.TRK_STATUS, 32, 32⟩
def TRK_STATUS.RETIRED_PC : Fld := ⟨.TRK_STATUS, 31, 26⟩
def TRK_STATUS.PC_RETIRED : Fld := ⟨.TRK_STATUS, 25, 25⟩
def TRK_STATUS.DEGRADED : Fld := ⟨.TRK_STATUS, 24, 24⟩
def TRK_STATUS.STATE : Fld := ⟨.TRK_STATUS, 3, 0⟩
def TRK_ARB_CFG.MODE : Fld := ⟨.TRK_ARB_CFG, 1, 0⟩
def TRK_REG.SERVED : Fld := ⟨.TRK_REG, 63, 32⟩
def TRK_REG.DEPTH : Fld := ⟨.TRK_REG, 27, 16⟩
def TRK_REG.SHARE : Fld := ⟨.TRK_REG, 11, 0⟩
def TRK_ECC.CE_CNT : Fld := ⟨.TRK_ECC, 63, 48⟩
def TRK_ECC.CB_CNT : Fld := ⟨.TRK_ECC, 47, 32⟩
def TRK_ECC.UE_CNT : Fld := ⟨.TRK_ECC, 31, 16⟩
def TRK_ECC.POISON_RD : Fld := ⟨.TRK_ECC, 15, 0⟩
def TRK_SCRUB.LAST_PASS : Fld := ⟨.TRK_SCRUB, 63, 0⟩
def TRK_REPAIR.REMAP_CNT : Fld := ⟨.TRK_REPAIR, 63, 48⟩
def TRK_REPAIR.SPARE_FREE : Fld := ⟨.TRK_REPAIR, 47, 32⟩
def TRK_REPAIR.PPR_CNT : Fld := ⟨.TRK_REPAIR, 31, 16⟩
def TRK_REPAIR.FRAMES_WD : Fld := ⟨.TRK_REPAIR, 15, 0⟩
def TRK_REF.SEG_SPLIT : Fld := ⟨.TRK_REF, 31, 16⟩
def TRK_REF.RFM_CNT : Fld := ⟨.TRK_REF, 15, 0⟩
def TRK_BIST_CFG.COUNT : Fld := ⟨.TRK_BIST_CFG, 63, 32⟩
def TRK_BIST_CFG.RDPCT : Fld := ⟨.TRK_BIST_CFG, 31, 24⟩
def TRK_BIST_CFG.PATTERN : Fld := ⟨.TRK_BIST_CFG, 23, 20⟩
def TRK_BIST_CFG.HAMMER_ROW : Fld := ⟨.TRK_BIST_CFG, 19, 6⟩
def TRK_BIST_CFG.STOP : Fld := ⟨.TRK_BIST_CFG, 1, 1⟩
def TRK_BIST_CFG.START : Fld := ⟨.TRK_BIST_CFG, 0, 0⟩
def TRK_BIST_STAT.ACCESSES : Fld := ⟨.TRK_BIST_STAT, 63, 32⟩
def TRK_BIST_STAT.FAILS : Fld := ⟨.TRK_BIST_STAT, 31, 16⟩
def TRK_BIST_STAT.FAIL : Fld := ⟨.TRK_BIST_STAT, 1, 1⟩
def TRK_BIST_STAT.BUSY : Fld := ⟨.TRK_BIST_STAT, 0, 0⟩
def TRK_BIST_FAIL.ROW : Fld := ⟨.TRK_BIST_FAIL, 63, 50⟩
def TRK_BIST_FAIL.BANK : Fld := ⟨.TRK_BIST_FAIL, 49, 44⟩
def TRK_BIST_FAIL.SECTOR : Fld := ⟨.TRK_BIST_FAIL, 43, 39⟩
def TRK_BIST_FAIL.BYTE_MASK : Fld := ⟨.TRK_BIST_FAIL, 35, 0⟩
def PRT_CLP_STATUS.DED_BURSTS : Fld := ⟨.PRT_CLP_STATUS, 63, 32⟩
def PRT_CLP_STATUS.CLASP_MODE : Fld := ⟨.PRT_CLP_STATUS, 0, 0⟩
def PRT_CLP_OPS.UNIT_OPS : Fld := ⟨.PRT_CLP_OPS, 63, 32⟩
def PRT_CLP_OPS.RECORDS : Fld := ⟨.PRT_CLP_OPS, 31, 0⟩
def PRT_CLP_ERR.REC_REJ : Fld := ⟨.PRT_CLP_ERR, 63, 48⟩
def PRT_CLP_ERR.POISON_WR : Fld := ⟨.PRT_CLP_ERR, 47, 32⟩
def PRT_CLP_ERR.SUBST_OPS : Fld := ⟨.PRT_CLP_ERR, 31, 16⟩
def PRT_CLP_ERR.CORR_OPS : Fld := ⟨.PRT_CLP_ERR, 15, 0⟩
def PRT_CLP_WAIT.BUDGET_WAITS : Fld := ⟨.PRT_CLP_WAIT, 63, 32⟩
def PRT_CLP_WAIT.DED_REFUSED : Fld := ⟨.PRT_CLP_WAIT, 31, 16⟩
def PRT_CLP_REC.REC : Fld := ⟨.PRT_CLP_REC, 63, 0⟩
def PRT_CLP_DRV.TAG_DONE : Fld := ⟨.PRT_CLP_DRV, 63, 32⟩
def PRT_CLP_DRV.REJ_CODE : Fld := ⟨.PRT_CLP_DRV, 15, 8⟩
def PRT_CLP_DRV.BUSY : Fld := ⟨.PRT_CLP_DRV, 1, 1⟩
def PRT_CLP_DRV.GO : Fld := ⟨.PRT_CLP_DRV, 0, 0⟩
def PRT_CLP_BUD.ACTS_USED : Fld := ⟨.PRT_CLP_BUD, 63, 32⟩
def PRT_CLP_BUD.BUDGET : Fld := ⟨.PRT_CLP_BUD, 13, 0⟩
def RTF_CTL.RETIRE_GO : Fld := ⟨.RTF_CTL, 15, 15⟩
def RTF_CTL.RETIRE_CH : Fld := ⟨.RTF_CTL, 14, 14⟩
def RTF_CTL.RETIRE_IDX : Fld := ⟨.RTF_CTL, 13, 10⟩
def RTF_CTL.UNMOUNT : Fld := ⟨.RTF_CTL, 1, 1⟩
def RTF_CTL.MOUNT : Fld := ⟨.RTF_CTL, 0, 0⟩
def RTF_STATUS.DIE_PRESENT : Fld := ⟨.RTF_STATUS, 63, 48⟩
def RTF_STATUS.BUF_TILES : Fld := ⟨.RTF_STATUS, 39, 32⟩
def RTF_STATUS.DIES_RETIRED : Fld := ⟨.RTF_STATUS, 28, 24⟩
def RTF_STATUS.MOUNT_KIND : Fld := ⟨.RTF_STATUS, 9, 8⟩
def RTF_STATUS.STATE : Fld := ⟨.RTF_STATUS, 3, 0⟩
def RTF_CFG.MODE : Fld := ⟨.RTF_CFG, 32, 32⟩
def RTF_CFG.RD_THRESH : Fld := ⟨.RTF_CFG, 19, 0⟩
def RTF_READ.TILE_READS : Fld := ⟨.RTF_READ, 63, 32⟩
def RTF_READ.LAT_MAX_US : Fld := ⟨.RTF_READ, 31, 16⟩
def RTF_RETRY.RETRY_HARD : Fld := ⟨.RTF_RETRY, 63, 48⟩
def RTF_RETRY.RETRY_SOFT : Fld := ⟨.RTF_RETRY, 47, 32⟩
def RTF_RETRY.RECON : Fld := ⟨.RTF_RETRY, 31, 16⟩
def RTF_RETRY.UE_TILES : Fld := ⟨.RTF_RETRY, 15, 0⟩
def RTF_RELOC.RELOCS : Fld := ⟨.RTF_RELOC, 63, 32⟩
def RTF_RELOC.BAD_BLOCKS : Fld := ⟨.RTF_RELOC, 31, 16⟩
def RTF_RELOC.BUF_WAITS : Fld := ⟨.RTF_RELOC, 15, 0⟩
def RTF_WEAR.WEAR_PCT : Fld := ⟨.RTF_WEAR, 63, 48⟩
def RTF_WEAR.HOST_WR_GIB : Fld := ⟨.RTF_WEAR, 47, 24⟩
def RTF_WEAR.RELOC_WR_GIB : Fld := ⟨.RTF_WEAR, 23, 0⟩
def RTF_MOUNT.MOUNT_US : Fld := ⟨.RTF_MOUNT, 63, 32⟩
def RTF_MOUNT.REPLAY_KIB : Fld := ⟨.RTF_MOUNT, 31, 0⟩
def RTF_SLOT.SERVED : Fld := ⟨.RTF_SLOT, 63, 32⟩
def RTF_SLOT.SLOTS : Fld := ⟨.RTF_SLOT, 6, 0⟩
def PRT_ISO_GRP.GROUP_MASK : Fld := ⟨.PRT_ISO_GRP, 15, 0⟩
def PRT_ISO_CTX.CTX_LOCAL : Fld := ⟨.PRT_ISO_CTX, 15, 8⟩
def PRT_ISO_CTX.KILL : Fld := ⟨.PRT_ISO_CTX, 4, 4⟩
def PRT_ISO_CTX.STATE : Fld := ⟨.PRT_ISO_CTX, 3, 0⟩
def PRT_ISO_BIND.VALID : Fld := ⟨.PRT_ISO_BIND, 12, 12⟩
def PRT_ISO_BIND.CTX : Fld := ⟨.PRT_ISO_BIND, 11, 0⟩
def PRT_ISO_CNT.KILL_CNT : Fld := ⟨.PRT_ISO_CNT, 63, 32⟩
def PRT_ISO_CNT.ISO_DROP : Fld := ⟨.PRT_ISO_CNT, 31, 16⟩
def PRT_ISO_CNT.BIND_QUOTA : Fld := ⟨.PRT_ISO_CNT, 15, 0⟩
def SEC_LC.STATE : Fld := ⟨.SEC_LC, 3, 0⟩
def SEC_BOOT.FW_SVN : Fld := ⟨.SEC_BOOT, 63, 32⟩
def SEC_BOOT.ROLLBACK : Fld := ⟨.SEC_BOOT, 31, 16⟩
def SEC_BOOT.BOOT_STATE : Fld := ⟨.SEC_BOOT, 1, 0⟩
def SEC_DBG.DBG_REFUSED : Fld := ⟨.SEC_DBG, 31, 16⟩
def SEC_DBG.DEBUG_STATE : Fld := ⟨.SEC_DBG, 1, 0⟩
def SEC_KEYS.KEYS_PERSIST : Fld := ⟨.SEC_KEYS, 43, 32⟩
def SEC_KEYS.KEYS_LIVE : Fld := ⟨.SEC_KEYS, 11, 0⟩
def HIF_AQP_CAP.VERSIONS : Fld := ⟨.HIF_AQP_CAP, 15, 0⟩
def HIF_STATUS.BAD_ACCESS : Fld := ⟨.HIF_STATUS, 63, 32⟩
def HIF_STATUS.LINK_WIDTH : Fld := ⟨.HIF_STATUS, 7, 4⟩
def HIF_STATUS.LINK_RATE : Fld := ⟨.HIF_STATUS, 3, 1⟩
def HIF_STATUS.READY : Fld := ⟨.HIF_STATUS, 0, 0⟩
def HIF_ADM_SQ.BASE : Fld := ⟨.HIF_ADM_SQ, 63, 12⟩
def HIF_ADM_SQ.DEV : Fld := ⟨.HIF_ADM_SQ, 11, 11⟩
def HIF_ADM_SQ.LOG2_ENTRIES : Fld := ⟨.HIF_ADM_SQ, 4, 0⟩
def HIF_ADM_CQ.BASE : Fld := ⟨.HIF_ADM_CQ, 63, 12⟩
def HIF_ADM_CQ.DEV : Fld := ⟨.HIF_ADM_CQ, 11, 11⟩
def HIF_ADM_CQ.LOG2_ENTRIES : Fld := ⟨.HIF_ADM_CQ, 4, 0⟩
def HIF_ADM_EQ.BASE : Fld := ⟨.HIF_ADM_EQ, 63, 12⟩
def HIF_ADM_EQ.DEV : Fld := ⟨.HIF_ADM_EQ, 11, 11⟩
def HIF_ADM_EQ.LOG2_ENTRIES : Fld := ⟨.HIF_ADM_EQ, 4, 0⟩
def HIF_ADM_CFG.MOD_TICKS : Fld := ⟨.HIF_ADM_CFG, 63, 48⟩
def HIF_ADM_CFG.MOD_CNT : Fld := ⟨.HIF_ADM_CFG, 47, 40⟩
def HIF_ADM_CFG.IRQ_EN : Fld := ⟨.HIF_ADM_CFG, 35, 35⟩
def HIF_ADM_CFG.VECTOR : Fld := ⟨.HIF_ADM_CFG, 27, 22⟩
def HIF_ADM_CFG.VERSION : Fld := ⟨.HIF_ADM_CFG, 7, 0⟩
def HIF_ADM_CTL.SQ_HEAD : Fld := ⟨.HIF_ADM_CTL, 63, 32⟩
def HIF_ADM_CTL.ERR : Fld := ⟨.HIF_ADM_CTL, 23, 16⟩
def HIF_ADM_CTL.CMD : Fld := ⟨.HIF_ADM_CTL, 1, 0⟩
def VF_INFO.VECTORS : Fld := ⟨.VF_INFO, 23, 16⟩
def VF_INFO.PRESENT : Fld := ⟨.VF_INFO, 4, 4⟩
def VF_INFO.PARTITION : Fld := ⟨.VF_INFO, 3, 0⟩
def VF_CTX_SEL.LOCAL : Fld := ⟨.VF_CTX_SEL, 7, 0⟩
def VF_CTX_CFG.MOD_TICKS : Fld := ⟨.VF_CTX_CFG, 63, 48⟩
def VF_CTX_CFG.MOD_CNT : Fld := ⟨.VF_CTX_CFG, 47, 40⟩
def VF_CTX_CFG.IRQ_EN : Fld := ⟨.VF_CTX_CFG, 35, 35⟩
def VF_CTX_CFG.VECTOR : Fld := ⟨.VF_CTX_CFG, 34, 28⟩
def VF_CTX_CFG.PASID : Fld := ⟨.VF_CTX_CFG, 27, 8⟩
def VF_CTX_CFG.VERSION : Fld := ⟨.VF_CTX_CFG, 7, 0⟩
def VF_CTX_SQ.BASE : Fld := ⟨.VF_CTX_SQ, 63, 12⟩
def VF_CTX_SQ.DEV : Fld := ⟨.VF_CTX_SQ, 11, 11⟩
def VF_CTX_SQ.LOG2_ENTRIES : Fld := ⟨.VF_CTX_SQ, 4, 0⟩
def VF_CTX_CQ.BASE : Fld := ⟨.VF_CTX_CQ, 63, 12⟩
def VF_CTX_CQ.DEV : Fld := ⟨.VF_CTX_CQ, 11, 11⟩
def VF_CTX_CQ.LOG2_ENTRIES : Fld := ⟨.VF_CTX_CQ, 4, 0⟩
def VF_CTX_EQ.BASE : Fld := ⟨.VF_CTX_EQ, 63, 12⟩
def VF_CTX_EQ.DEV : Fld := ⟨.VF_CTX_EQ, 11, 11⟩
def VF_CTX_EQ.LOG2_ENTRIES : Fld := ⟨.VF_CTX_EQ, 4, 0⟩
def VF_CTX_SEED.SEED : Fld := ⟨.VF_CTX_SEED, 63, 0⟩
def VF_CTX_CMD.CMD : Fld := ⟨.VF_CTX_CMD, 1, 0⟩
def VF_CTX_STATUS.SQ_HEAD : Fld := ⟨.VF_CTX_STATUS, 63, 32⟩
def VF_CTX_STATUS.ERR : Fld := ⟨.VF_CTX_STATUS, 23, 16⟩
def VF_CTX_STATUS.EPOCH : Fld := ⟨.VF_CTX_STATUS, 15, 8⟩
def VF_CTX_STATUS.STATE : Fld := ⟨.VF_CTX_STATUS, 3, 0⟩
def VF_CTX_CNT.COMPLETIONS : Fld := ⟨.VF_CTX_CNT, 63, 32⟩
def VF_CTX_CNT.DB_DROPS : Fld := ⟨.VF_CTX_CNT, 31, 16⟩
def VF_CTX_CNT.CQ_WAITS : Fld := ⟨.VF_CTX_CNT, 15, 8⟩
def VF_CTX_CNT.EQ_DROPS : Fld := ⟨.VF_CTX_CNT, 7, 0⟩
def ZXL_CAP.ZXP_VERSIONS : Fld := ⟨.ZXL_CAP, 15, 0⟩
def ZXL_BOARD.BOARD_ID : Fld := ⟨.ZXL_BOARD, 15, 8⟩
def ZXL_BOARD.ENUM_DONE : Fld := ⟨.ZXL_BOARD, 3, 3⟩
def ZXL_BOARD.BDID : Fld := ⟨.ZXL_BOARD, 2, 0⟩
def ZXL_SPAN.VALID : Fld := ⟨.ZXL_SPAN, 32, 32⟩
def ZXL_SPAN.SPAN_ID : Fld := ⟨.ZXL_SPAN, 31, 16⟩
def ZXL_SPAN.SDID : Fld := ⟨.ZXL_SPAN, 7, 0⟩
def ZXL_MIG_IN.POOL : Fld := ⟨.ZXL_MIG_IN, 63, 32⟩
def ZXL_MIG_IN.SRC_SDID : Fld := ⟨.ZXL_MIG_IN, 31, 24⟩
def ZXL_MIG_IN.SRC_CTX : Fld := ⟨.ZXL_MIG_IN, 23, 12⟩
def ZXL_MIG_IN.DST_CTX : Fld := ⟨.ZXL_MIG_IN, 11, 0⟩
def ZXL_MIG_MAP.MAP_OVA : Fld := ⟨.ZXL_MIG_MAP, 47, 6⟩
def ZXL_MIG_MAP.DONE : Fld := ⟨.ZXL_MIG_MAP, 1, 1⟩
def ZXL_MIG_MAP.ARM : Fld := ⟨.ZXL_MIG_MAP, 0, 0⟩
def ZXL_CNT.FWD_FRAMES : Fld := ⟨.ZXL_CNT, 63, 32⟩
def ZXL_CNT.EPOCH_NAK : Fld := ⟨.ZXL_CNT, 31, 16⟩
def ZXL_CNT.SDID_CONFLICT : Fld := ⟨.ZXL_CNT, 15, 0⟩
def ZXL_LNK_CTL.RETIRE_GO : Fld := ⟨.ZXL_LNK_CTL, 8, 8⟩
def ZXL_LNK_CTL.RETIRE_LANE : Fld := ⟨.ZXL_LNK_CTL, 7, 4⟩
def ZXL_LNK_CTL.EN : Fld := ⟨.ZXL_LNK_CTL, 0, 0⟩
def ZXL_LNK_STATUS.ZXP_VER : Fld := ⟨.ZXL_LNK_STATUS, 63, 56⟩
def ZXL_LNK_STATUS.PEER_BOARD : Fld := ⟨.ZXL_LNK_STATUS, 55, 48⟩
def ZXL_LNK_STATUS.PEER_BDID : Fld := ⟨.ZXL_LNK_STATUS, 42, 40⟩
def ZXL_LNK_STATUS.RETIRED : Fld := ⟨.ZXL_LNK_STATUS, 24, 16⟩
def ZXL_LNK_STATUS.WIDTH : Fld := ⟨.ZXL_LNK_STATUS, 7, 4⟩
def ZXL_LNK_STATUS.STATE : Fld := ⟨.ZXL_LNK_STATUS, 3, 0⟩
def ZXL_LNK_CNT.FEC_CORR : Fld := ⟨.ZXL_LNK_CNT, 63, 32⟩
def ZXL_LNK_CNT.FEC_UNCORR : Fld := ⟨.ZXL_LNK_CNT, 31, 16⟩
def ZXL_LNK_CNT.REPLAYS : Fld := ⟨.ZXL_LNK_CNT, 15, 0⟩
def ETH_PORT_STATUS.FEC_UNCORR : Fld := ⟨.ETH_PORT_STATUS, 63, 32⟩
def ETH_PORT_STATUS.QP_NAKS : Fld := ⟨.ETH_PORT_STATUS, 31, 16⟩
def ETH_PORT_STATUS.MODE : Fld := ⟨.ETH_PORT_STATUS, 2, 1⟩
def ETH_PORT_STATUS.LINK_UP : Fld := ⟨.ETH_PORT_STATUS, 0, 0⟩
def ETH_QP_SEL.QP : Fld := ⟨.ETH_QP_SEL, 12, 0⟩
def ETH_QP_CFG.VALID : Fld := ⟨.ETH_QP_CFG, 63, 63⟩
def ETH_QP_CFG.KIND : Fld := ⟨.ETH_QP_CFG, 62, 60⟩
def ETH_QP_CFG.PORT : Fld := ⟨.ETH_QP_CFG, 59, 59⟩
def ETH_QP_CFG.PMTU : Fld := ⟨.ETH_QP_CFG, 58, 57⟩
def ETH_QP_CFG.PEER_SDID : Fld := ⟨.ETH_QP_CFG, 55, 48⟩
def ETH_QP_CFG.VC : Fld := ⟨.ETH_QP_CFG, 47, 44⟩
def ETH_QP_CFG.CTX : Fld := ⟨.ETH_QP_CFG, 43, 32⟩
def ETH_QP_CFG.REMOTE_QPN : Fld := ⟨.ETH_QP_CFG, 23, 0⟩
def ETH_QP_GID_LO.GID : Fld := ⟨.ETH_QP_GID_LO, 63, 0⟩
def ETH_QP_GID_HI.GID : Fld := ⟨.ETH_QP_GID_HI, 63, 0⟩
def FLT_CTL.LOG_RD : Fld := ⟨.FLT_CTL, 63, 32⟩
def FLT_CTL.IRQ_EN : Fld := ⟨.FLT_CTL, 14, 14⟩
def FLT_CTL.VECTOR : Fld := ⟨.FLT_CTL, 13, 8⟩
def FLT_STATUS.LOG_WR : Fld := ⟨.FLT_STATUS, 63, 32⟩
def FLT_STATUS.LOST : Fld := ⟨.FLT_STATUS, 31, 16⟩
def FLT_STATUS.FATAL : Fld := ⟨.FLT_STATUS, 0, 0⟩
def FLT_SEV_SEL.SCLASS : Fld := ⟨.FLT_SEV_SEL, 7, 4⟩
def FLT_SEV_SEL.EVT : Fld := ⟨.FLT_SEV_SEL, 3, 0⟩
def FLT_SEV_CFG.DEMOTABLE : Fld := ⟨.FLT_SEV_CFG, 8, 8⟩
def FLT_SEV_CFG.DEFAULT : Fld := ⟨.FLT_SEV_CFG, 5, 4⟩
def FLT_SEV_CFG.SEV : Fld := ⟨.FLT_SEV_CFG, 1, 0⟩
def FLT_PIN_CTL.THRESH : Fld := ⟨.FLT_PIN_CTL, 5, 4⟩
def FLT_PIN_CTL.PULSE : Fld := ⟨.FLT_PIN_CTL, 2, 2⟩
def FLT_PIN_CTL.ARM : Fld := ⟨.FLT_PIN_CTL, 1, 1⟩
def FLT_PIN_CTL.LEVEL : Fld := ⟨.FLT_PIN_CTL, 0, 0⟩
def FLT_LEAK.PERIOD : Fld := ⟨.FLT_LEAK, 39, 8⟩
def FLT_LEAK.THRESH : Fld := ⟨.FLT_LEAK, 7, 0⟩
def FLT_INJ_TGT.COUNT : Fld := ⟨.FLT_INJ_TGT, 63, 48⟩
def FLT_INJ_TGT.LEAK : Fld := ⟨.FLT_INJ_TGT, 17, 17⟩
def FLT_INJ_TGT.MODE : Fld := ⟨.FLT_INJ_TGT, 16, 16⟩
def FLT_INJ_TGT.SOURCE : Fld := ⟨.FLT_INJ_TGT, 11, 0⟩
def FLT_INJ_ADDR.ADDR : Fld := ⟨.FLT_INJ_ADDR, 63, 0⟩
def FLT_INJ_MASK.MASK : Fld := ⟨.FLT_INJ_MASK, 63, 0⟩
def FLT_INJ_CTL.REMAIN : Fld := ⟨.FLT_INJ_CTL, 63, 32⟩
def FLT_INJ_CTL.ACTIVE : Fld := ⟨.FLT_INJ_CTL, 1, 1⟩
def FLT_INJ_CTL.GO : Fld := ⟨.FLT_INJ_CTL, 0, 0⟩
def FLT_CNT.CORR_CNT : Fld := ⟨.FLT_CNT, 63, 32⟩
def FLT_CNT.CONT_CNT : Fld := ⟨.FLT_CNT, 31, 16⟩
def FLT_CNT.FATL_CNT : Fld := ⟨.FLT_CNT, 15, 12⟩
def FLT_CNT.GOLDEN_FETCH : Fld := ⟨.FLT_CNT, 11, 6⟩
def FLT_CNT.MULTI_HIT : Fld := ⟨.FLT_CNT, 5, 0⟩
def FLT_ROUTE.VAL : Fld := ⟨.FLT_ROUTE, 63, 52⟩
def FLT_ROUTE.MASK : Fld := ⟨.FLT_ROUTE, 51, 40⟩
def FLT_ROUTE.EVT : Fld := ⟨.FLT_ROUTE, 39, 36⟩
def FLT_ROUTE.MIN_CLASS : Fld := ⟨.FLT_ROUTE, 35, 34⟩
def FLT_ROUTE.VALID : Fld := ⟨.FLT_ROUTE, 4, 4⟩
def FLT_ROUTE.DEST_FRAME : Fld := ⟨.FLT_ROUTE, 2, 2⟩
def FLT_ROUTE.DEST_PLDM : Fld := ⟨.FLT_ROUTE, 1, 1⟩
def FLT_ROUTE.DEST_PF0 : Fld := ⟨.FLT_ROUTE, 0, 0⟩
def PWR_STATUS.VIN48_Q : Fld := ⟨.PWR_STATUS, 47, 40⟩
def PWR_STATUS.VHOLD_Q : Fld := ⟨.PWR_STATUS, 39, 32⟩
def PWR_STATUS.RESET_CAUSE : Fld := ⟨.PWR_STATUS, 23, 20⟩
def PWR_STATUS.THROT_LEVEL : Fld := ⟨.PWR_STATUS, 19, 18⟩
def PWR_STATUS.THERM : Fld := ⟨.PWR_STATUS, 17, 17⟩
def PWR_STATUS.VHOLD_OK : Fld := ⟨.PWR_STATUS, 16, 16⟩
def PWR_STATUS.SAG_LOG_VALID : Fld := ⟨.PWR_STATUS, 7, 7⟩
def PWR_STATUS.PROF_PINS : Fld := ⟨.PWR_STATUS, 5, 4⟩
def PWR_STATUS.PROFILE : Fld := ⟨.PWR_STATUS, 3, 0⟩
def PWR_SENS_SEL.INSTANCE : Fld := ⟨.PWR_SENS_SEL, 7, 0⟩
def PWR_SENS.TEMP_C : Fld := ⟨.PWR_SENS, 55, 48⟩
def PWR_SENS.THROTTLE_C : Fld := ⟨.PWR_SENS, 47, 40⟩
def PWR_SENS.SHUTDOWN_C : Fld := ⟨.PWR_SENS, 39, 32⟩
def PWR_SENS.POWER_DW : Fld := ⟨.PWR_SENS, 31, 16⟩
def PWR_SENS.LEVEL : Fld := ⟨.PWR_SENS, 1, 0⟩
def PWR_CNT.SAGS : Fld := ⟨.PWR_CNT, 63, 48⟩
def PWR_CNT.THROT_ENTRIES : Fld := ⟨.PWR_CNT, 47, 32⟩
def PWR_CNT.THERM_SHUTDOWNS : Fld := ⟨.PWR_CNT, 31, 16⟩
def PWR_CNT.VHOLD_LOSS : Fld := ⟨.PWR_CNT, 15, 0⟩
def PWR_SAG.SAVE_US : Fld := ⟨.PWR_SAG, 63, 32⟩
def PWR_SAG.SAVE_MJ : Fld := ⟨.PWR_SAG, 31, 16⟩

/-- The fields of each register, from the most to the least significant bit. -/
def RegId.rows : RegId → List FldRow
  | .HUB_CAP_RES => [⟨63, 48, .ro⟩, ⟨47, 38, .ro⟩, ⟨37, 27, .ro⟩, ⟨26, 20, .ro⟩, ⟨19, 16, .ro⟩, ⟨7, 0, .ro⟩]
  | .HUB_ID => [⟨63, 48, .ro⟩, ⟨47, 44, .ro⟩, ⟨43, 40, .ro⟩, ⟨31, 24, .ro⟩, ⟨23, 16, .ro⟩, ⟨15, 0, .ro⟩]
  | .NTU_CTL => [⟨16, 16, .wo⟩, ⟨15, 12, .rw⟩, ⟨11, 10, .rw⟩, ⟨9, 9, .rw⟩, ⟨8, 8, .rw⟩, ⟨7, 7, .rw⟩]
  | .NTU_STATUS => [⟨15, 12, .ro⟩, ⟨11, 10, .ro⟩, ⟨9, 9, .ro⟩, ⟨8, 8, .ro⟩, ⟨7, 7, .ro⟩, ⟨6, 6, .ro⟩, ⟨5, 5, .ro⟩, ⟨4, 4, .ro⟩, ⟨3, 0, .ro⟩]
  | .NTU_TIME_LO => [⟨63, 32, .ro⟩, ⟨31, 0, .ro⟩]
  | .NTU_TIME_HI => [⟨15, 0, .ro⟩]
  | .NTU_TICK => [⟨63, 0, .ro⟩]
  | .NTU_TE => [⟨63, 32, .ro⟩, ⟨31, 0, .ro⟩]
  | .NTU_GUARD => [⟨47, 32, .rw⟩, ⟨31, 16, .rw⟩, ⟨15, 0, .rw⟩]
  | .NTU_LEAD => [⟨31, 16, .rw⟩, ⟨15, 0, .rw⟩]
  | .NTU_SERVO => [⟨63, 32, .rw⟩, ⟨31, 0, .rw⟩]
  | .NTU_PTP_CFG => [⟨63, 32, .rw⟩, ⟨23, 16, .rw⟩, ⟨7, 6, .rw⟩, ⟨3, 0, .rw⟩]
  | .NTU_TOD_SET => [⟨47, 0, .rw⟩]
  | .NTU_ZX_ASYM => [⟨63, 56, .rw⟩, ⟨55, 48, .rw⟩, ⟨47, 40, .rw⟩, ⟨39, 32, .rw⟩, ⟨31, 24, .rw⟩, ⟨23, 16, .rw⟩, ⟨15, 8, .rw⟩, ⟨7, 0, .rw⟩]
  | .NTU_MARGIN => [⟨63, 32, .ro⟩, ⟨31, 0, .ro⟩]
  | .NTU_EVT => [⟨7, 7, .rw1c⟩, ⟨6, 6, .rw1c⟩, ⟨5, 5, .rw1c⟩, ⟨4, 4, .rw1c⟩, ⟨3, 3, .rw1c⟩, ⟨2, 2, .rw1c⟩, ⟨1, 1, .rw1c⟩, ⟨0, 0, .rw1c⟩]
  | .NTU_STEP_DELTA => [⟨63, 0, .ro⟩]
  | .RSQ_CAP => [⟨47, 32, .ro⟩, ⟨23, 16, .ro⟩, ⟨15, 0, .ro⟩]
  | .RSQ_TRL_STATUS => [⟨63, 32, .ro⟩, ⟨31, 16, .ro⟩, ⟨15, 8, .ro⟩, ⟨3, 0, .ro⟩]
  | .RSQ_TRL_RING => [⟨63, 32, .ro⟩, ⟨31, 0, .ro⟩]
  | .RSQ_TRL_SLIP => [⟨63, 48, .ro⟩, ⟨47, 32, .ro⟩, ⟨31, 16, .ro⟩, ⟨15, 0, .ro⟩]
  | .RSQ_TRL_CNT => [⟨63, 48, .ro⟩, ⟨47, 32, .ro⟩, ⟨23, 16, .ro⟩, ⟨7, 0, .ro⟩]
  | .RSQ_TRL_TICKS => [⟨63, 0, .ro⟩]
  | .PRT_TX_STATUS => [⟨63, 48, .ro⟩, ⟨47, 40, .ro⟩, ⟨31, 16, .ro⟩, ⟨6, 4, .ro⟩, ⟨3, 0, .ro⟩]
  | .PRT_TX_PC => [⟨45, 32, .ro⟩, ⟨13, 0, .ro⟩]
  | .PRT_TX_ADDR => [⟨63, 0, .ro⟩]
  | .PRT_TBB_I => [⟨46, 32, .rwl⟩, ⟨13, 0, .rwl⟩]
  | .PRT_TBB_C => [⟨53, 32, .rwl⟩, ⟨20, 0, .rwl⟩]
  | .PRT_CANOPY_CFG => [⟨32, 32, .rw⟩, ⟨23, 0, .rwl⟩]
  | .PRT_CNP_STATUS => [⟨63, 32, .ro⟩, ⟨15, 8, .ro⟩, ⟨0, 0, .ro⟩]
  | .PRT_CNP_ECC => [⟨63, 48, .ro⟩, ⟨47, 32, .ro⟩, ⟨31, 16, .ro⟩]
  | .PRT_CNP_WIN => [⟨63, 48, .ro⟩, ⟨47, 32, .ro⟩, ⟨31, 16, .ro⟩]
  | .PRT_CNP_SCRUB => [⟨63, 0, .ro⟩]
  | .PRT_LAT_CFG => [⟨1, 0, .rwl⟩]
  | .PRT_RADD_STATUS => [⟨63, 32, .ro⟩, ⟨0, 0, .rw1c⟩]
  | .PRT_LAT_TILE => [⟨63, 32, .ro⟩, ⟨31, 0, .ro⟩]
  | .PRT_LAT_CNT => [⟨63, 32, .ro⟩, ⟨31, 16, .ro⟩, ⟨15, 0, .ro⟩]
  | .PRT_LAT_ECC => [⟨63, 48, .ro⟩, ⟨47, 32, .ro⟩, ⟨31, 16, .ro⟩]
  | .PRT_OUT_STATUS => [⟨63, 32, .ro⟩, ⟨15, 8, .ro⟩, ⟨0, 0, .rw1c⟩]
  | .PRT_OUT_CNT => [⟨63, 32, .ro⟩, ⟨31, 0, .ro⟩]
  | .PRT_OUT_TRK => [⟨63, 32, .ro⟩, ⟨31, 0, .ro⟩]
  | .PRT_KV_CFG => [⟨4, 0, .rwl⟩]
  | .PRT_KV_COW => [⟨63, 32, .ro⟩, ⟨31, 0, .ro⟩]
  | .PRT_KV_CNT => [⟨63, 48, .ro⟩, ⟨47, 32, .ro⟩, ⟨31, 16, .ro⟩, ⟨15, 0, .ro⟩]
  | .PRT_KV_ATT => [⟨63, 32, .ro⟩, ⟨31, 16, .ro⟩, ⟨15, 0, .ro⟩]
  | .PRT_KV_XFER => [⟨63, 48, .ro⟩, ⟨47, 32, .ro⟩, ⟨31, 16, .ro⟩, ⟨15, 0, .ro⟩]
  | .PRT_KV_BKT => [⟨47, 32, .rwl⟩, ⟨22, 0, .rwl⟩]
  | .PRT_DS_ACC => [⟨63, 32, .ro⟩, ⟨31, 0, .ro⟩]
  | .PRT_DS_SEQ => [⟨63, 32, .ro⟩, ⟨31, 16, .ro⟩, ⟨15, 0, .ro⟩]
  | .PRT_DS_SMP => [⟨63, 32, .ro⟩, ⟨31, 16, .ro⟩, ⟨15, 0, .ro⟩]
  | .PRT_DS_RTE => [⟨63, 32, .ro⟩, ⟨31, 16, .ro⟩, ⟨15, 0, .ro⟩]
  | .PRT_DS_ERR => [⟨63, 48, .ro⟩, ⟨47, 32, .ro⟩]
  | .PRT_XL_CFG => [⟨15, 0, .rwl⟩]
  | .PRT_XL_LOOKUP => [⟨55, 48, .rw⟩, ⟨47, 16, .rw⟩]
  | .PRT_XL_PTE => [⟨63, 0, .ro⟩]
  | .PRT_XL_FRAMES => [⟨63, 32, .ro⟩, ⟨31, 0, .ro⟩]
  | .PRT_XL_MIG => [⟨63, 32, .ro⟩, ⟨31, 16, .ro⟩, ⟨15, 0, .ro⟩]
  | .PRT_XL_STREAM => [⟨63, 48, .ro⟩, ⟨47, 32, .ro⟩, ⟨31, 16, .ro⟩, ⟨15, 0, .ro⟩]
  | .TRK_CTL => [⟨15, 15, .wo⟩, ⟨14, 9, .wo⟩, ⟨8, 8, .rw⟩, ⟨0, 0, .rw⟩]
  | .TRK_STATUS => [⟨47, 40, .ro⟩, ⟨32, 32, .ro⟩, ⟨31, 26, .ro⟩, ⟨25, 25, .ro⟩, ⟨24, 24, .ro⟩, ⟨3, 0, .ro⟩]
  | .TRK_ARB_CFG => [⟨1, 0, .rw⟩]
  | .TRK_REG => [⟨63, 32, .ro⟩, ⟨27, 16, .rw⟩, ⟨11, 0, .rw⟩]
  | .TRK_ECC => [⟨63, 48, .ro⟩, ⟨47, 32, .ro⟩, ⟨31, 16, .ro⟩, ⟨15, 0, .ro⟩]
  | .TRK_SCRUB => [⟨63, 0, .ro⟩]
  | .TRK_REPAIR => [⟨63, 48, .ro⟩, ⟨47, 32, .ro⟩, ⟨31, 16, .ro⟩, ⟨15, 0, .ro⟩]
  | .TRK_REF => [⟨31, 16, .ro⟩, ⟨15, 0, .ro⟩]
  | .TRK_BIST_CFG => [⟨63, 32, .rw⟩, ⟨31, 24, .rw⟩, ⟨23, 20, .rw⟩, ⟨19, 6, .rw⟩, ⟨1, 1, .wo⟩, ⟨0, 0, .wo⟩]
  | .TRK_BIST_STAT => [⟨63, 32, .ro⟩, ⟨31, 16, .ro⟩, ⟨1, 1, .rw1c⟩, ⟨0, 0, .ro⟩]
  | .TRK_BIST_FAIL => [⟨63, 50, .ro⟩, ⟨49, 44, .ro⟩, ⟨43, 39, .ro⟩, ⟨35, 0, .ro⟩]
  | .PRT_CLP_STATUS => [⟨63, 32, .ro⟩, ⟨0, 0, .ro⟩]
  | .PRT_CLP_OPS => [⟨63, 32, .ro⟩, ⟨31, 0, .ro⟩]
  | .PRT_CLP_ERR => [⟨63, 48, .ro⟩, ⟨47, 32, .ro⟩, ⟨31, 16, .ro⟩, ⟨15, 0, .ro⟩]
  | .PRT_CLP_WAIT => [⟨63, 32, .ro⟩, ⟨31, 16, .ro⟩]
  | .PRT_CLP_REC => [⟨63, 0, .wo⟩]
  | .PRT_CLP_DRV => [⟨63, 32, .ro⟩, ⟨15, 8, .ro⟩, ⟨1, 1, .ro⟩, ⟨0, 0, .wo⟩]
  | .PRT_CLP_BUD => [⟨63, 32, .ro⟩, ⟨13, 0, .rw⟩]
  | .RTF_CTL => [⟨15, 15, .wo⟩, ⟨14, 14, .wo⟩, ⟨13, 10, .wo⟩, ⟨1, 1, .wo⟩, ⟨0, 0, .wo⟩]
  | .RTF_STATUS => [⟨63, 48, .ro⟩, ⟨39, 32, .ro⟩, ⟨28, 24, .ro⟩, ⟨9, 8, .ro⟩, ⟨3, 0, .ro⟩]
  | .RTF_CFG => [⟨32, 32, .rw⟩, ⟨19, 0, .rw⟩]
  | .RTF_READ => [⟨63, 32, .ro⟩, ⟨31, 16, .ro⟩]
  | .RTF_RETRY => [⟨63, 48, .ro⟩, ⟨47, 32, .ro⟩, ⟨31, 16, .ro⟩, ⟨15, 0, .ro⟩]
  | .RTF_RELOC => [⟨63, 32, .ro⟩, ⟨31, 16, .ro⟩, ⟨15, 0, .ro⟩]
  | .RTF_WEAR => [⟨63, 48, .ro⟩, ⟨47, 24, .ro⟩, ⟨23, 0, .ro⟩]
  | .RTF_MOUNT => [⟨63, 32, .ro⟩, ⟨31, 0, .ro⟩]
  | .RTF_SLOT => [⟨63, 32, .ro⟩, ⟨6, 0, .rw⟩]
  | .PRT_ISO_GRP => [⟨15, 0, .rwl⟩]
  | .PRT_ISO_CTX => [⟨15, 8, .rw⟩, ⟨4, 4, .wo⟩, ⟨3, 0, .ro⟩]
  | .PRT_ISO_BIND => [⟨12, 12, .rwl⟩, ⟨11, 0, .rwl⟩]
  | .PRT_ISO_CNT => [⟨63, 32, .ro⟩, ⟨31, 16, .ro⟩, ⟨15, 0, .ro⟩]
  | .SEC_LC => [⟨3, 0, .ro⟩]
  | .SEC_BOOT => [⟨63, 32, .ro⟩, ⟨31, 16, .ro⟩, ⟨1, 0, .ro⟩]
  | .SEC_DBG => [⟨31, 16, .ro⟩, ⟨1, 0, .ro⟩]
  | .SEC_KEYS => [⟨43, 32, .ro⟩, ⟨11, 0, .ro⟩]
  | .HIF_AQP_CAP => [⟨15, 0, .ro⟩]
  | .HIF_STATUS => [⟨63, 32, .ro⟩, ⟨7, 4, .ro⟩, ⟨3, 1, .ro⟩, ⟨0, 0, .ro⟩]
  | .HIF_ADM_SQ => [⟨63, 12, .rw⟩, ⟨11, 11, .rw⟩, ⟨4, 0, .rw⟩]
  | .HIF_ADM_CQ => [⟨63, 12, .rw⟩, ⟨11, 11, .rw⟩, ⟨4, 0, .rw⟩]
  | .HIF_ADM_EQ => [⟨63, 12, .rw⟩, ⟨11, 11, .rw⟩, ⟨4, 0, .rw⟩]
  | .HIF_ADM_CFG => [⟨63, 48, .rw⟩, ⟨47, 40, .rw⟩, ⟨35, 35, .rw⟩, ⟨27, 22, .rw⟩, ⟨7, 0, .rw⟩]
  | .HIF_ADM_CTL => [⟨63, 32, .ro⟩, ⟨23, 16, .ro⟩, ⟨1, 0, .wo⟩]
  | .VF_INFO => [⟨23, 16, .ro⟩, ⟨4, 4, .ro⟩, ⟨3, 0, .ro⟩]
  | .VF_CTX_SEL => [⟨7, 0, .rw⟩]
  | .VF_CTX_CFG => [⟨63, 48, .rw⟩, ⟨47, 40, .rw⟩, ⟨35, 35, .rw⟩, ⟨34, 28, .rw⟩, ⟨27, 8, .rw⟩, ⟨7, 0, .rw⟩]
  | .VF_CTX_SQ => [⟨63, 12, .rw⟩, ⟨11, 11, .rw⟩, ⟨4, 0, .rw⟩]
  | .VF_CTX_CQ => [⟨63, 12, .rw⟩, ⟨11, 11, .rw⟩, ⟨4, 0, .rw⟩]
  | .VF_CTX_EQ => [⟨63, 12, .rw⟩, ⟨11, 11, .rw⟩, ⟨4, 0, .rw⟩]
  | .VF_CTX_SEED => [⟨63, 0, .rw⟩]
  | .VF_CTX_CMD => [⟨1, 0, .wo⟩]
  | .VF_CTX_STATUS => [⟨63, 32, .ro⟩, ⟨23, 16, .ro⟩, ⟨15, 8, .ro⟩, ⟨3, 0, .ro⟩]
  | .VF_CTX_CNT => [⟨63, 32, .ro⟩, ⟨31, 16, .ro⟩, ⟨15, 8, .ro⟩, ⟨7, 0, .ro⟩]
  | .ZXL_CAP => [⟨15, 0, .ro⟩]
  | .ZXL_BOARD => [⟨15, 8, .rw⟩, ⟨3, 3, .ro⟩, ⟨2, 0, .ro⟩]
  | .ZXL_SPAN => [⟨32, 32, .rw⟩, ⟨31, 16, .rw⟩, ⟨7, 0, .rw⟩]
  | .ZXL_MIG_IN => [⟨63, 32, .rw⟩, ⟨31, 24, .rw⟩, ⟨23, 12, .rw⟩, ⟨11, 0, .rw⟩]
  | .ZXL_MIG_MAP => [⟨47, 6, .rw⟩, ⟨1, 1, .ro⟩, ⟨0, 0, .rw⟩]
  | .ZXL_CNT => [⟨63, 32, .ro⟩, ⟨31, 16, .ro⟩, ⟨15, 0, .ro⟩]
  | .ZXL_LNK_CTL => [⟨8, 8, .wo⟩, ⟨7, 4, .wo⟩, ⟨0, 0, .rw⟩]
  | .ZXL_LNK_STATUS => [⟨63, 56, .ro⟩, ⟨55, 48, .ro⟩, ⟨42, 40, .ro⟩, ⟨24, 16, .ro⟩, ⟨7, 4, .ro⟩, ⟨3, 0, .ro⟩]
  | .ZXL_LNK_CNT => [⟨63, 32, .ro⟩, ⟨31, 16, .ro⟩, ⟨15, 0, .ro⟩]
  | .ETH_PORT_STATUS => [⟨63, 32, .ro⟩, ⟨31, 16, .ro⟩, ⟨2, 1, .ro⟩, ⟨0, 0, .ro⟩]
  | .ETH_QP_SEL => [⟨12, 0, .rw⟩]
  | .ETH_QP_CFG => [⟨63, 63, .rw⟩, ⟨62, 60, .rw⟩, ⟨59, 59, .rw⟩, ⟨58, 57, .rw⟩, ⟨55, 48, .rw⟩, ⟨47, 44, .rw⟩, ⟨43, 32, .rw⟩, ⟨23, 0, .rw⟩]
  | .ETH_QP_GID_LO => [⟨63, 0, .rw⟩]
  | .ETH_QP_GID_HI => [⟨63, 0, .rw⟩]
  | .FLT_CTL => [⟨63, 32, .rw⟩, ⟨14, 14, .rw⟩, ⟨13, 8, .rw⟩]
  | .FLT_STATUS => [⟨63, 32, .ro⟩, ⟨31, 16, .ro⟩, ⟨0, 0, .ro⟩]
  | .FLT_SEV_SEL => [⟨7, 4, .rw⟩, ⟨3, 0, .rw⟩]
  | .FLT_SEV_CFG => [⟨8, 8, .ro⟩, ⟨5, 4, .ro⟩, ⟨1, 0, .rw⟩]
  | .FLT_PIN_CTL => [⟨5, 4, .rw⟩, ⟨2, 2, .ro⟩, ⟨1, 1, .rw1s⟩, ⟨0, 0, .rw⟩]
  | .FLT_LEAK => [⟨39, 8, .rw⟩, ⟨7, 0, .rw⟩]
  | .FLT_INJ_TGT => [⟨63, 48, .rw⟩, ⟨17, 17, .rw⟩, ⟨16, 16, .rw⟩, ⟨11, 0, .rw⟩]
  | .FLT_INJ_ADDR => [⟨63, 0, .rw⟩]
  | .FLT_INJ_MASK => [⟨63, 0, .rw⟩]
  | .FLT_INJ_CTL => [⟨63, 32, .ro⟩, ⟨1, 1, .ro⟩, ⟨0, 0, .wo⟩]
  | .FLT_CNT => [⟨63, 32, .ro⟩, ⟨31, 16, .ro⟩, ⟨15, 12, .ro⟩, ⟨11, 6, .ro⟩, ⟨5, 0, .ro⟩]
  | .FLT_ROUTE => [⟨63, 52, .rw⟩, ⟨51, 40, .rw⟩, ⟨39, 36, .rw⟩, ⟨35, 34, .rw⟩, ⟨4, 4, .rw⟩, ⟨2, 2, .rw⟩, ⟨1, 1, .rw⟩, ⟨0, 0, .rw⟩]
  | .PWR_STATUS => [⟨47, 40, .ro⟩, ⟨39, 32, .ro⟩, ⟨23, 20, .ro⟩, ⟨19, 18, .ro⟩, ⟨17, 17, .ro⟩, ⟨16, 16, .ro⟩, ⟨7, 7, .ro⟩, ⟨5, 4, .ro⟩, ⟨3, 0, .ro⟩]
  | .PWR_SENS_SEL => [⟨7, 0, .rw⟩]
  | .PWR_SENS => [⟨55, 48, .ro⟩, ⟨47, 40, .ro⟩, ⟨39, 32, .ro⟩, ⟨31, 16, .ro⟩, ⟨1, 0, .ro⟩]
  | .PWR_CNT => [⟨63, 48, .ro⟩, ⟨47, 32, .ro⟩, ⟨31, 16, .ro⟩, ⟨15, 0, .ro⟩]
  | .PWR_SAG => [⟨63, 32, .ro⟩, ⟨31, 16, .ro⟩]

/-- The cold-reset value of the register's table (R11). Fields whose reset the tables give as "Fused", "Pins", "n" or
"as R403" or "as R443" are set by `regReset`. -/
def RegId.tableReset : RegId → Nat
  | .HUB_ID => 0x521610000000414D
  | .NTU_CTL => 0x3700
  | .NTU_TE => 0xFFFFFFFFFFFFFFFF
  | .NTU_GUARD => 0x3E8044C0032
  | .NTU_LEAD => 0x400004
  | .NTU_SERVO => 0x3E800000000
  | .NTU_PTP_CFG => 0x180001
  | .NTU_MARGIN => 0xFFFFFFFFFFFFFFFF
  | .RSQ_CAP => 0x10002
  | .PRT_CANOPY_CFG => 0x100007530
  | .PRT_LAT_CFG => 0x3
  | .PRT_OUT_STATUS => 0xFF00
  | .PRT_KV_CFG => 0x1
  | .PRT_KV_BKT => 0xFFFF00400000
  | .PRT_XL_CFG => 0x400
  | .TRK_CTL => 0x1
  | .TRK_ARB_CFG => 0x1
  | .TRK_REG => 0x400008C
  | .TRK_REPAIR => 0x100000000000
  | .TRK_BIST_CFG => 0x80000000
  | .PRT_CLP_BUD => 0x200
  | .RTF_CFG => 0x249F0
  | .RTF_SLOT => 0x6
  | .SEC_LC => 0x2
  | .HIF_AQP_CAP => 0x6
  | .HIF_ADM_SQ => 0x4
  | .HIF_ADM_CQ => 0x4
  | .HIF_ADM_EQ => 0x4
  | .HIF_ADM_CFG => 0x1
  | .VF_INFO => 0x7C0000
  | .VF_CTX_CFG => 0x1
  | .VF_CTX_SQ => 0x4
  | .VF_CTX_CQ => 0x4
  | .VF_CTX_EQ => 0x4
  | .ZXL_CAP => 0x2
  | .ZXL_LNK_CTL => 0x1
  | .ETH_QP_CFG => 0x400000000000000
  | .FLT_PIN_CTL => 0x22
  | .FLT_LEAK => 0x1518010
  | .FLT_ROUTE => 0x400000000
  | .PWR_SENS_SEL => 0x10
  | .HUB_CAP_RES | .NTU_STATUS | .NTU_TIME_LO | .NTU_TIME_HI | .NTU_TICK | .NTU_TOD_SET
  | .NTU_ZX_ASYM | .NTU_EVT | .NTU_STEP_DELTA | .RSQ_TRL_STATUS | .RSQ_TRL_RING | .RSQ_TRL_SLIP
  | .RSQ_TRL_CNT | .RSQ_TRL_TICKS | .PRT_TX_STATUS | .PRT_TX_PC | .PRT_TX_ADDR | .PRT_TBB_I
  | .PRT_TBB_C | .PRT_CNP_STATUS | .PRT_CNP_ECC | .PRT_CNP_WIN | .PRT_CNP_SCRUB | .PRT_RADD_STATUS
  | .PRT_LAT_TILE | .PRT_LAT_CNT | .PRT_LAT_ECC | .PRT_OUT_CNT | .PRT_OUT_TRK | .PRT_KV_COW
  | .PRT_KV_CNT | .PRT_KV_ATT | .PRT_KV_XFER | .PRT_DS_ACC | .PRT_DS_SEQ | .PRT_DS_SMP
  | .PRT_DS_RTE | .PRT_DS_ERR | .PRT_XL_LOOKUP | .PRT_XL_PTE | .PRT_XL_FRAMES | .PRT_XL_MIG
  | .PRT_XL_STREAM | .TRK_STATUS | .TRK_ECC | .TRK_SCRUB | .TRK_REF | .TRK_BIST_STAT
  | .TRK_BIST_FAIL | .PRT_CLP_STATUS | .PRT_CLP_OPS | .PRT_CLP_ERR | .PRT_CLP_WAIT | .PRT_CLP_REC
  | .PRT_CLP_DRV | .RTF_CTL | .RTF_STATUS | .RTF_READ | .RTF_RETRY | .RTF_RELOC
  | .RTF_WEAR | .RTF_MOUNT | .PRT_ISO_GRP | .PRT_ISO_CTX | .PRT_ISO_BIND | .PRT_ISO_CNT
  | .SEC_BOOT | .SEC_DBG | .SEC_KEYS | .HIF_STATUS | .HIF_ADM_CTL | .VF_CTX_SEL
  | .VF_CTX_SEED | .VF_CTX_CMD | .VF_CTX_STATUS | .VF_CTX_CNT | .ZXL_BOARD | .ZXL_SPAN
  | .ZXL_MIG_IN | .ZXL_MIG_MAP | .ZXL_CNT | .ZXL_LNK_STATUS | .ZXL_LNK_CNT | .ETH_PORT_STATUS
  | .ETH_QP_SEL | .ETH_QP_GID_LO | .ETH_QP_GID_HI | .FLT_CTL | .FLT_STATUS | .FLT_SEV_SEL
  | .FLT_SEV_CFG | .FLT_INJ_TGT | .FLT_INJ_ADDR | .FLT_INJ_MASK | .FLT_INJ_CTL | .FLT_CNT
  | .PWR_STATUS | .PWR_SENS | .PWR_CNT | .PWR_SAG => 0

end Sys2Proof.Machine
end

