-- ==== Sys2Proof/Machine/StMem.lean ====
section
/-! DEFINITION. State of the memory tiers: page-table entries, objects, frames, tiles, the migration and window
engines (10), the contexts' keys and quotas (14). -/

namespace Sys2Proof.Machine

/-- A set of numbers as disjoint ranges (first, length), rising. -/
abbrev Ranges := List (Nat × Nat)

/-- The error mark of a stored coded unit (R138, R139, R294, R296): clean, a correctable error in the data, one in the
check symbols only, an uncorrectable error, poison. -/
inductive Mark where
  | clean | ce | cb | ue | poison
deriving DecidableEq, Repr

/-- Tiers of R262. -/
inductive Tier where
  | trunk | root | canopy
deriving DecidableEq, Repr

/-- A page-table entry (R262). `frame` is DPA[51:16]. `present = false` is no entry. -/
structure Pte where
  epoch : Nat := 0
  key : Nat := 0
  frame : Nat := 0
  tier : Tier := .trunk
  big : Bool := false
  mig : Bool := false
  pin : Bool := false
  shared : Bool := false
  w : Bool := false
  present : Bool := false
deriving DecidableEq, Repr

/-- A live object of a context (R266). -/
structure Obj where
  handle : Nat
  ova : Nat
  bytes : Nat
  kind : Nat
  big : Bool
  writable : Bool
  groupKey : Bool
  backed : Bool
  pin : Bool
  rname : Nat
  /-- Objects with one `sid` map the same frames (R268); the context charged for them (R271). -/
  sid : Nat
  owner : Nat
  /-- DPAs of the Root tiles of the golden copy (R270), in tile order. -/
  golden : List Nat
  key : Nat
  /-- KV pool only: the KVL (R200). -/
  kvl : Nat
deriving DecidableEq, Repr

/-- A retained object (R459). -/
structure Retained where
  rname : Nat
  part : Nat
  kind : Nat
  bytes : Nat
  big : Bool
  key : Nat
  groupKey : Bool
  backed : Bool
  tower : Nat
  tiles : List Nat
deriving DecidableEq, Repr

/-- A descriptor of ring `ring` that completes later: its position in the ring, tag, opcode and NOTIFY. -/
structure Later where
  ring : Nat
  pos : Nat
  tag : Nat
  opcode : Nat
  notify : Bool
deriving DecidableEq, Repr

/-- What OBJ_PLACE with ARRANGE reads and writes: the destination object, columns, reduction length, chunk depth and format
(R276). -/
structure Arrange where
  dst : Nat
  n : Nat
  k : Nat
  kg : Nat
  wfmt : Nat
deriving DecidableEq, Repr

/-- A request of the migration engine of a partition: an OBJ_PLACE waiting or under way (R274, R276). -/
structure MigReq where
  /-- The OBJ_PLACE to complete. -/
  done : Later
  ctx : Nat
  obj : Nat
  /-- First tile, next tile and last tile + 1, of the object's 64 KiB tiles. -/
  first : Nat
  next : Nat
  stop : Nat
  tier : Tier
  unit : Nat
  pin : Bool
  arrange : Option Arrange
  /-- Its service has begun: pins are checked and pages split. -/
  begun : Bool := false
  /-- The tiles in copy with the frames they go to; how many of them have been read; the frame + 1 read last. -/
  copying : List (Nat × Nat) := []
  got : Nat := 0
  last : Nat := 0
  cancelled : Bool := false
deriving DecidableEq, Repr

/-- An OBJ_MAP whose fill or adoption is under way (R267, R459): the object is mapped, its fill not done. -/
structure FillReq where
  done : Later
  obj : Nat
  src : Nat
  dev : Bool
  adopt : Bool
  /-- RESULT and INFO of the completion. -/
  result : Nat
  info : Nat
deriving DecidableEq, Repr

/-- A STREAM_TBL entry under way in a window engine (R280 to R282). -/
structure StreamRun where
  inst : Nat
  entry : Nat
  /-- Elapsed tick of the gate that started it. -/
  gate : Nat
  /-- First byte in the object; `none` while a KIND 1 entry waits for its bucket cell. -/
  base : Option Nat
  /-- Context and OVA of that byte, and the 64 KiB frame of each tile of the range, as translated when it started (R280). -/
  ctx : Nat := 0
  ova : Nat := 0
  frames : List Nat := []
  /-- The gate of the entry itself has passed (a staging-only start has not). -/
  gated : Bool
  /-- Bytes already delivered, and the number of deliveries. -/
  done : Nat
  turn : Nat
  /-- What became of the range's tiles so far, in order: staged in a frame of the home stack, or in need of no staging. -/
  staged : List (Option Nat)
  /-- A wait for staging space is counted; elapsed tick at which the present tag wait began. -/
  waiting : Bool
  since : Nat
deriving DecidableEq, Repr

/-- Memory-tier state of one partition. -/
structure MemPart where
  mig : List MigReq := []
  streams : List StreamRun := []
  /-- Frames given up that an entry under way may still read: they are freed when it ends (R274, R280). -/
  held : List Nat := []
  /-- Free frames of the staging area (R282). -/
  stageFree : Ranges := []
deriving DecidableEq, Repr

/-- A key table entry (R347): its owner, a context or a group by mask. -/
structure KeyEnt where
  live : Bool := false
  group : Bool := false
  /-- Context number, or group mask. -/
  owner : Nat := 0
deriving DecidableEq, Repr

end Sys2Proof.Machine
end

