-- ==== Sys2Proof/Machine/StCore.lean ====
section
/-! DEFINITION. State of a core: thread slots, instruction store, Canopy, cells, windows, engine queues, the Lattice,
accumulator memory and the out-path (04, 05, 06, 07). -/

namespace Sys2Proof.Machine

/-- Thread slot states, PRT_TX_STATUS.STATE (R82). -/
inductive TState where
  | inactive | running | blocked | waitTick | halted | trapped
deriving DecidableEq, Repr

/-- An entry of a loop stack (R96). -/
structure LoopEnt where
  count : Nat
  stop : Nat
  start : Nat
deriving DecidableEq, Repr

/-- What a BLOCKED or WAIT_TICK thread slot waits for (R82, R86, R97, R99, R101). -/
inductive Wait where
  | none
  /-- TAKE of a cell into s[dst]. -/
  | take (cell dst : Nat)
  | put (cell : Nat)
  /-- A queue entry for the instruction at the program counter. -/
  | queue
  /-- WTICK with M = 0: a network tick. -/
  | tick (t : Nat)
  /-- WTICK with M = 1: offset `ofs` of schedule ring `k`. -/
  | sched (k ofs : Nat)
  /-- FENCE with its mask; operations with a number below `upto` are awaited. -/
  | fence (mask upto : Nat)
deriving DecidableEq, Repr

/-- A hardware thread slot (R82, R89, R109). -/
structure Thread where
  state : TState := .inactive
  pc : Nat := 0
  fpc : Nat := 0
  addr : Word := 0
  cause : Nat := 0
  trapCnt : Nat := 0
  lateCnt : Nat := 0
  /-- s0 to s31. -/
  s : SMap Word := []
  /-- v0 to v15. -/
  v : SMap VReg := []
  /-- p1 to p7; p0 is all ones (R92). -/
  p : SMap Word := []
  /-- Errors the code finds in the register files (R114), by register number: s0 to s31, v0 to v15 from 32, p1 to p7 from
  49. -/
  marks : SMap Mark := []
  loops : List LoopEnt := []
  ibase : Nat := 0
  ibound : Nat := 0
  cbase : Nat := 0
  cbound : Nat := 0
  wait : Wait := .none
  /-- Elapsed ticks when the wait began (R130). -/
  since : Nat := 0
  /-- The slot (and its schedule ring) in which the thread slot trapped and counts as halted (R112). -/
  trapSlot : Option Nat := none
  /-- Entry instruction index of the loaded image (R81). -/
  entry : Nat := 0
deriving DecidableEq, Repr

/-- A Q-class operation in a queue of its core or in flight (R86, R102, R128). -/
structure Op where
  id : Nat := 0
  /-- Its place in the device's order of arrival at the engines (R215). -/
  arrival : Nat := 0
  /-- Issuing thread slot; `none` for an operation a gate or descriptor started. -/
  t : Nat := 0
  /-- The instruction word, with s[A] and s[B] as they stood at issue. -/
  word : Word := 0
  a : Word := 0
  b : Word := 0
  fpc : Nat := 0
  cbase : Nat := 0
  cbound : Nat := 0
  ctx : Nat := 0
  /-- Open slot and sub-slot of the trail at issue, if any: slot × 16 + sub. -/
  sub : Option Nat := none
  /-- Engine work has started; its claims are held. -/
  started : Bool := false
  /-- Base and size of the cell, fixed at the start (R126). -/
  base : Nat := 0
  size : Nat := 0
  /-- Its turn has come: the operations it must follow have begun (R108); elapsed ticks when the engine's tag wait began
  (R130). -/
  turn : Bool := false
  since : Nat := 0
  /-- Blocks or rows performed so far, and the first address written (R110). -/
  done : Nat := 0
  first : Nat := 0
  /-- Its Canopy accesses by address have been admitted (R133). -/
  admitted : Bool := false
  /-- Data sent and not yet acknowledged (RPUT, RADD); result ready. -/
  sent : Bool := false
  /-- A write held by a migration (R275), or a wait on a tentative slot (R206), is already counted. -/
  held : Bool := false
  /-- It waits for a tentative slot or for preparation (R206, R207): elapsed ticks when the wait began, and the sequence. -/
  kvWait : Option (Nat × Nat) := none
  /-- A remote transfer admitted at its target (R133): target core, first Canopy byte, landing cell. -/
  adm : Option (Nat × Nat × Option Nat) := none
  /-- WIN_TBL entry that schedules it (R64, R173). -/
  win : Option Nat := none
  /-- The page engine of an APAGE once assigned (R215). -/
  engine : Option Nat := none
  /-- A transfer to another device whose frames are sent and whose RESP has not come (R389). -/
  remote : Bool := false
  /-- The bytes it read at its source, for a remote transfer. -/
  data : List Byte := []
  /-- A transfer of another device that waits for its landing cell here: the member and the tag its RESP goes to (R389). -/
  reply : Option (Nat × Nat) := none
deriving DecidableEq, Repr

/-- An imprecise exception an engine has to report (R110). -/
structure PendFault where
  t : Nat
  cause : Nat
  addr : Word
  fpc : Nat
  /-- First OVA written and bytes written by the faulting operation. -/
  wrAddr : Nat := 0
  wrBytes : Nat := 0
  /-- Poisoned data that has no golden copy (R112, R417). -/
  noGolden : Bool := false
deriving DecidableEq, Repr

/-- Who holds a claim on a cell: nobody, an operation of this core's queues, an inbound transfer, or a window-engine
delivery (R128). -/
structure Cell where
  base : Nat := 0
  size : Nat := 0
  full : Bool := false
  claimed : Bool := false
deriving DecidableEq, Repr

/-- A remote-access window (R132). `land = none`: no landing cell. -/
structure Window where
  opened : Bool := false
  base : Nat := 0
  bound : Nat := 0
  src : Word := 0
  land : Option Nat := none
deriving DecidableEq, Repr

/-- A gather buffer: the block it holds for writing, and its read copy (R124). -/
structure GBuf where
  held : Bool := false
  block : Nat := 0
  bytes : List (Nat × Byte) := []
  /-- The block it holds a read copy of. -/
  copy : Option Nat := none
deriving DecidableEq, Repr

/-- A Lattice configuration slot (R147). -/
structure LCfg where
  wfmt : Nat := 3
  afmt : Nat := 3
  gsz : Nat := 0
  sfmt : Nat := 0
  sr : Bool := false
deriving DecidableEq, Repr

/-- The operation on the array or in the drain unit (R169). -/
structure LatRun where
  op : Op
  cfg : LCfg
  /-- Copy of the out-path slot taken by a drain when it starts (R184). -/
  cfgRec : Rec64 := 0
  cfgValid : Bool := true
  /-- FP32 values of the lanes a drain has read, row-major, its tile's status word, and whether its work has begun. -/
  lanes : List (BitVec 32) := []
  tsw : Nat := 0
  running : Bool := false
  /-- Results of the array to be written at its end: accumulator key, value, poison, and whether all of that poison came with
  data that has a golden copy. -/
  writes : List (Nat × BitVec 32 × Bool × Bool) := []
  /-- What a drain writes at its end: Canopy offset and bytes, in order; and what it counts: clipped and non-finite
  elements, tracker updates and initialisations (R194 to R196). -/
  outs : List (Nat × List Byte) := []
  clips : Nat := 0
  nonfins : Nat := 0
  upds : Nat := 0
  inits : Nat := 0
deriving DecidableEq, Repr

/-- An out-path configuration slot (R184). -/
structure OSlot where
  cfgRec : Rec64 := 0x1F <<< 304
  valid : Bool := true
deriving DecidableEq, Repr

/-- A core. -/
structure Core where
  threads : SMap Thread := []
  istore : SMap Word := []
  /-- Errors the code finds in words of the instruction store (R114). -/
  imarks : SMap Mark := []
  canopy : SMap Byte := []
  cmarks : SMap Mark := []
  /-- Words whose poison came with data that has a golden copy (R416). -/
  golden : SMap Bool := []
  gbufs : SMap GBuf := []
  cells : SMap Cell := []
  wins : SMap Window := []
  /-- Movement and service operations, oldest first; the Lattice queue, oldest first. -/
  ops : List Op := []
  lq : List Op := []
  lcfg : SMap LCfg := []
  arr : Option LatRun := none
  drn : Option LatRun := none
  /-- Accumulator memory: key tile × 8,192 + row × 32 + lane. -/
  acc : SMap (BitVec 32) := []
  accMarks : SMap Mark := []
  /-- Lanes whose poison came with data that has a golden copy (R165, R416). -/
  accGold : SMap Bool := []
  /-- Promotion index of each lane (R160), by the same key. -/
  prom : SMap Nat := []
  oslots : SMap OSlot := []
  faults : List PendFault := []
  /-- Bucket set: selections accumulated by ROUTE (R254): expert, token row, rank, weight. -/
  bset : List (Nat × Nat × Nat × BitVec 32) := []
  /-- NONFIN flags of the rows of its last ROUTE (R251); no result of ROUTE carries them. -/
  routeNonfin : List Bool := []
  /-- Last bound context, and the binding that waits for the clear (R141, R342). -/
  lastCtx : Option Nat := none
  pendBind : Option Nat := none
  /-- A clear waits for operations to complete (R143). -/
  wantClear : Bool := false
  /-- The clear under way is that of a kill or reset: the thread slots' registers go with it (R113). -/
  killed : Bool := false
  /-- Retired and to be replaced at the next boundary (R413). -/
  retiring : Bool := false
  nextOp : Nat := 0
deriving DecidableEq, Repr

end Sys2Proof.Machine
end

