-- ==== Sys2Proof/Machine/StDev.lean ====
section
/-! DEFINITION. State of the Trunk stacks with their clasp units (11, 12), of the Root towers (13), and of power and
start-up (18). -/

namespace Sys2Proof.Machine

/-- A remapped row of a pseudo-channel: it lies in the spare row of bank `spare` (R299). -/
structure Remap where
  q : Nat
  bank : Nat
  row : Nat
  spare : Nat
  /-- The copy to the spare row has not ended. -/
  copying : Bool
deriving DecidableEq, Repr

/-- A clasp record accepted and not completed (R313 to R315): the partition charged, whether the driver wrote it, and the
unit operations that have ended. -/
structure ClaspRec where
  part : Nat
  drv : Bool
  word : Rec64
  /-- Its place in the order of arrivals at the controller (R288, R315). -/
  arr : Nat := 0
  done : Nat := 0
  /-- Its next operation has started; or is held by R319 and counted. -/
  started : Bool := false
  held : Bool := false
deriving DecidableEq, Repr

/-- A dedicated burst: its instance, pseudo-channel mask and the elapsed tick of its end (R320). -/
structure Burst where
  inst : Nat
  mask : Nat
  stop : Nat
deriving DecidableEq, Repr

/-- A Trunk read, or a write of `data`, that waits to be granted (R289 to R293). -/
structure TrkReq where
  part : Nat
  dpa : Nat
  crit : Bool
  data : Option (BitVec 256)
  seen : List Seen
  /-- Its place in the order of arrivals at the controller (R288, R315). -/
  arr : Nat := 0
deriving DecidableEq, Repr

/-- A read of a Root tile that waits for its tower or a grant (R332). -/
structure TileReq where
  part : Nat
  tile : Nat
  out : TileOutcome
  latUs : Nat
  /-- The tile has been sensed for another request outstanding beside this one (R327). -/
  sensed : Bool := false
deriving DecidableEq, Repr

/-- A Trunk stack beside its TRK and PRT_CLP registers. -/
structure Stack where
  /-- Units a partition's bucket holds (R292), listed where it is not full: DEPTH less the level. -/
  spent : SMap Int := []
  /-- Units served in this service window, by partition; banks a partition's run has met (R293): partition × 4,096 + q × 64
  + bank. -/
  used : SMap Nat := []
  met : List Nat := []
  /-- Units served in this window by context (BW_SHARE, R375). -/
  ctxUsed : SMap Nat := []
  /-- Requests that wait for a grant, in order of arrival; latency-critical grants in a row while a normal request waited
  (R290). -/
  pend : List TrkReq := []
  crits : Nat := 0
  /-- A step of the counter has ended this window: nothing is served until the next begins (R33). -/
  shut : Bool := false
  /-- Open row + 1 of each bank: key q × 64 + bank. -/
  openRow : SMap Nat := []
  /-- Values of TRK_ARB_CFG and TRK_REG in force where a write waits for the service window (R306). -/
  arbNow : Option Word := none
  regNow : SMap Word := []
  remaps : List Remap := []
  /-- Frames withdrawn for good, and frames to be withdrawn when they are freed (R299, R300). -/
  withdrawn : Ranges := []
  withdraw : Ranges := []
  /-- The scrubber's queue of sectors to rewrite: DPA ÷ 32 (R295). -/
  rewriteQ : List Nat := []
  /-- Rows that reported most recently, newest first (R412). -/
  recentRows : List Nat := []
  /-- Refreshes postponed of each bank, by q × 64 + bank (R298). -/
  postponed : SMap Nat := []
  clasp : List ClaspRec := []
  /-- Clasp row activations of this tick by partition (R319), and the elapsed tick they belong to. -/
  acts : SMap Nat := []
  actTick : Nat := 0
  burst : Option Burst := none
  /-- The mirror of partition s XOR 1's page tables is suspended (R304, R418). -/
  mirrorOff : Bool := false
  /-- Leaving MAINT has begun (R304). -/
  leaving : Bool := false
  /-- Re-issues of the clasp operation in hand (R411). -/
  reissues : Nat := 0
deriving DecidableEq, Repr

/-- A Root tower beside its RTF registers. -/
structure Tower where
  /-- Read counts of the regions (R328), by region, and what an unlisted region has counted: RD_THRESH ÷ 2 after a scan
  mount (R336). -/
  counts : SMap Nat := []
  countBase : Nat := 0
  /-- Last successful ladder step of each block (R325), by region. -/
  ladder : SMap Nat := []
  /-- Tiles acknowledged and not yet programmed, oldest first (R331). -/
  buffer : List Nat := []
  /-- Writes that wait for buffer room or for VHOLD (R331, R426). -/
  waitWr : List (Nat × List Byte) := []
  /-- Grants used in this read window by partition (R332), and values in force where a write waits for the window. -/
  used : SMap Nat := []
  /-- Tile reads that wait, in order of arrival; the frame + 1 that each partition's engines read last (R264). -/
  pend : List TileReq := []
  last : SMap Nat := []
  cfgNow : Option Word := none
  slotNow : SMap Word := []
  /-- A step of the counter has ended this window: no grant is left until the next begins (R33). -/
  shut : Bool := false
  /-- Stack that hosts the translation map where the home stack does not hold it (R428). -/
  mapHost : Option Nat := none
  /-- A poisoned sector of the map is being reloaded (R418); an unmount is under way (R335). -/
  mapWait : Bool := false
  leaving : Bool := false
  /-- Dies retired. -/
  deadDies : List Nat := []
  /-- Tiles written over the tower's life; those written by requests and by the layer itself since the last cold reset
  (R330). -/
  lifeTiles : Nat := 0
  wrTiles : Nat := 0
  relocTiles : Nat := 0
deriving DecidableEq, Repr

/-- A PROFILE_SET under way (R432): its completion, unless an FLR of PF0 has ended it, and the new profile. -/
structure ProfJob where
  done : Option Later
  profile : Nat
  /-- What the new profile darkens is off (R432, step 2). -/
  dark : Bool := false
deriving DecidableEq, Repr

/-- Power, start-up and pins beside the PWR registers (18, 19). -/
structure Power where
  /-- Stages of the start sequence that have ended (R434). -/
  stages : List Nat := []
  /-- VIN48 is good, the sequence runs or has run. -/
  on : Bool := false
  prof : Option ProfJob := none
  /-- Profile in force before Watch (R433). -/
  before : Nat := 0
  /-- A save under way: 3 after a sag, 4 thermal (R440, R445); VIN48 has become good again during it (R442). -/
  save : Option Nat := none
  vinBack : Bool := false
  /-- Throttle level, last temperature, and elapsed tick of the last change, by power-class instance (R444). -/
  level : SMap Nat := []
  temp : SMap Nat := []
  changed : SMap Nat := []
  /-- The PROF pins as driven. -/
  pins : Nat := 0
  /-- WAKE_N is driven low; PERST_N is deasserted; ENUM_OUT is driven. -/
  wakeLow : Bool := false
  perstHigh : Bool := false
  enumOut : Bool := false
  /-- A warm reset waits for buffered stores (R437): its cause. -/
  warm : Option Nat := none
  /-- The saved servo state is valid (R441). -/
  servoSaved : Bool := false
deriving DecidableEq, Repr

end Sys2Proof.Machine
end

