-- ==== Sys2Proof/Machine/StLink.lean ====
section
/-! DEFINITION. State of the Zapiex links and the RoCEv2 queue pairs (16). -/

namespace Sys2Proof.Machine

/-- A frame to be sent or sent (R387). `tag`, `last` and `land` stand for what R135 and R389 need and the header has no
place for: the transfer's tag, its last frame, and PF = 1. `msg`, `fault` hold CTRL and FAULT contents. -/
structure TxFrame where
  typ : Nat
  vc : Nat
  dst : Nat
  src : Nat := 0
  epoch : Nat := 0
  hops : Nat := 0
  arg : Nat := 0
  tag : Nat := 0
  last : Bool := true
  land : Bool := false
  payload : List Byte := []
  msg : Option CtrlMsg := none
  retired : Bool := false
  seq : Nat := 0
deriving DecidableEq, Repr

/-- A Zapiex link beside its registers (R384 to R388). -/
structure Link where
  txSeq : Nat := 0
  rxSeq : Nat := 0
  /-- Frames sent and not acknowledged, oldest first; frames that wait for credits or for the link. -/
  unacked : List TxFrame := []
  waiting : List TxFrame := []
  /-- Credits held of VC0, VC1 and VC2, in 64-byte units. -/
  credits : List Nat := [0, 0, 0]
  /-- Replays of the oldest unacknowledged frame. -/
  replays : Nat := 0
  /-- What the peer sent in CONFIG. -/
  caps : Option LinkCaps := none
  peer : Bool := false
  /-- Elapsed tick at which a RETRAIN began. -/
  since : Nat := 0
  /-- The lane in whose place the spare lane 8 works (R385). -/
  spareFor : Option Nat := none
deriving DecidableEq, Repr

/-- A queue pair (R394): both packet sequence numbers, and messages sent and not acknowledged, with their numbers. -/
structure Qp where
  txPsn : Nat := 0
  rxPsn : Nat := 0
  unacked : List Nat := []
deriving DecidableEq, Repr

/-- A transfer of another device that is arriving in frames (R389): its frame type, origin, tag, epoch, first target
descriptor, PF, and the bytes so far. -/
structure RxXfer where
  typ : Nat
  src : Nat
  tag : Nat
  epoch : Nat
  arg : Nat
  land : Bool
  /-- The instance it belongs to. -/
  inst : Nat
  /-- The window that admitted its first frame: first byte, end of the window, landing cell (R133, R135). -/
  adm : Option (Nat × Nat × Option Nat) := none
  /-- The epoch differs from the target's (R265). -/
  stale : Bool := false
  data : List Byte := []
  /-- Every frame is here; it waits for a migration's tile copy (R275). -/
  whole : Bool := false
deriving DecidableEq, Repr

end Sys2Proof.Machine
end

