-- ==== Sys2Proof/Machine/StHost.lean ====
section
/-! DEFINITION. State of the host interface, of a context, of network time and of the fault collector (02, 14, 15, 17). -/

namespace Sys2Proof.Machine

/-- A ring in force (R362, R367): base, device residence, log2 of the entry count. -/
structure RingDesc where
  base : Nat := 0
  dev : Bool := false
  log2 : Nat := 4
deriving DecidableEq, Repr

/-- A submission entry read and not yet started, or a FENCE that waits (R369). -/
structure Desc where
  /-- Its position in the ring (R363). -/
  pos : Nat
  bytes : List Byte
  /-- Tick at which its doorbell arrived (R24). -/
  arrived : Nat
deriving DecidableEq, Repr

/-- A completion entry before it is written (R377): tag, opcode, status, flags but for PHASE, info, result; the tick is
that of writing unless given. -/
structure Compl where
  tag : Nat
  opcode : Nat
  status : Nat
  flags : Nat := 0
  info : Nat := 0
  tick : Option Nat := none
  result : Nat := 0
  notify : Bool := false
deriving DecidableEq, Repr

/-- A context, or the admin context (R341, R344, R362 to R367); its registers are in the register file. -/
structure Ctx where
  sq : RingDesc := {}
  cq : RingDesc := {}
  eq : RingDesc := {}
  /-- Free-running counts of R363: tail announced, entries written, heads reported. -/
  sqTail : Nat := 0
  cqWritten : Nat := 0
  cqHead : Nat := 0
  eqWritten : Nat := 0
  eqHead : Nat := 0
  /-- Tails announced past the head, oldest first, with the tick of their doorbell (R24). -/
  tails : List (Nat × Nat) := []
  /-- Completions that wait for ring space (R364). -/
  held : List Compl := []
  /-- An event was dropped: the next carries OVERFLOW (R364). -/
  overflow : Bool := false
  /-- Completions since the vector last fired, and the elapsed tick of the oldest (R380). -/
  modCnt : Nat := 0
  modSince : Nat := 0
  /-- Descriptors read, not started. -/
  started : List Desc := []
  /-- Descriptors read and not completed, by their position in the ring (R369). -/
  open_ : List Nat := []
  /-- OBJ_MAPs and OBJ_UNMAPs that wait for a boundary or for a tile in copy, in ring order (R269, R278); the flag says
  that the boundary has passed or none is needed. -/
  deferred : List (Desc × Bool) := []
  /-- Mapped objects whose fill is under way (R267, R375, R459). -/
  fills : List FillReq := []
  rebase : Bool := false
  /-- A standby adopted a role of this context and it is not yet bound here: its completions are held (R76). -/
  adopting : Bool := false
  /-- The CTX was used since cold reset; its epoch outlives FREE (R344). -/
  used : Bool := false
  seed : BitVec 64 := 0
  /-- Quotas in bytes and the Trunk bandwidth share in percent (R271). -/
  qCanopy : Nat := 0
  qTrunk : Nat := 0
  qRoot : Nat := 0
  bwShare : Nat := 0
  /-- Frames of the row and admission areas (R261), 160 of them. -/
  areaFrames : List Nat := []
  /-- Page table: OVA[47:16] to PTE. -/
  pages : SMap Pte := []
  objs : List Obj := []
  /-- Key ID of the context's own key, 0 for none (R347). -/
  key : Nat := 0
  /-- Kill steps still to do (R344): frames released and not yet cleared; key to erase. -/
  killFrames : Ranges := []
  killKey : Bool := false
  killUnmap : Bool := false
  exists_ : Bool := false
deriving DecidableEq, Repr

/-- What leaves the device, in the order sent (newest first). -/
inductive Out where
  /-- MSI-X vector of a function: 0 PF0, 1 + n VF n (R380, R409). -/
  | msix (fn vector : Nat)
  /-- A PLDM event carrying a fault record (R409), or another platform event. -/
  | pldm (bytes : List Byte)
  /-- A frame on a Zapiex link (R387). -/
  | frame (link : Nat) (f : TxFrame)
  /-- A frame as the payload of RDMA WRITE with immediate on a span QP (R394). -/
  | spanFrame (qp : Nat) (f : TxFrame)
  /-- A RoCEv2 message on a queue pair: NAK, or a write of the device's own. -/
  | roce (qp : Nat) (nak : Bool) (addr : Nat) (payload : List Byte)
  /-- An SPDM response: block index and measured bytes (R352). -/
  | spdm (index : Nat) (bytes : List Byte)
  /-- A value returned by a register read of this sender. -/
  | readValue (v : Word)
  /-- A rising edge of PPS_OUT, and the rising edge of REF_OUT that coincides with it (R40), at the start of a tick. -/
  | ppsOut (tick : Nat)
  | refOut (tick : Nat)
  /-- A PTP Delay_Req sent on an Ethernet port, with its sequence number (R35). -/
  | delayReq (port seq : Nat)
deriving DecidableEq, Repr

/-- A PTP exchange under way on a port (R35), times in half nanoseconds. -/
structure PtpEx where
  seq : Nat := 0
  waitFollow : Bool := false
  haveSync : Bool := false
  t1 : Int := 0
  corr : Int := 0
  t2 : Int := 0
  /-- A Delay_Req is sent and not answered; its sequence number. -/
  asked : Bool := false
  reqSeq : Nat := 0
deriving DecidableEq, Repr

/-- Network time state beside the NTU registers (02). -/
structure Ntu where
  /-- The tick number (R29). -/
  tick : Nat := 0
  /-- Nanoseconds of the tick in progress that have passed at the last instant observed (R28). -/
  ns : Nat := 0
  /-- Ticks that have passed since power-on, steps apart (R33). -/
  elapsed : Nat := 0
  /-- The last 16 measured offsets, newest first, in quarters of a nanosecond (R42). -/
  offs : List Int := []
  /-- Consecutive measurements within 100 ns, at most 16 (R41). -/
  good : Nat := 0
  /-- A time source has been acquired since cold reset (R32). -/
  acquired : Bool := false
  /-- The offset a step is still needed for, and whether that step is the first acquisition's (R32). -/
  stepWant : Option Int := none
  stepFirst : Bool := false
  pllLocked : Bool := false
  /-- Whether REF_IN and the clocks recovered from the Ethernet ports are present and in range (R34), where that is known. -/
  refs : List (Option Bool) := [none, none, none]
  /-- Rank of the master each port offers, and the elapsed tick of its last Announce (R36). -/
  ranks : List (Option Nat) := [none, none]
  lastAnn : List Nat := [0, 0]
  ex : List PtpEx := [{}, {}]
  /-- Elapsed tick of the last PPS_IN edge and of the last valid measurement. -/
  lastPps : Nat := 0
  lastMeas : Nat := 0
  /-- Holdover growth (R43): the estimates it starts from and the elapsed tick it started at. -/
  e0Est : Nat := 0
  e0Peer : Nat := 0
  hoStart : Nat := 0
  /-- Hop count and TE_EST of the last valid TIME frame of the source (R42). -/
  hop : Nat := 0
  srcTe : Nat := 0
deriving DecidableEq, Repr

/-- A leaky bucket (R412): the resource's number, its level. -/
structure Bucket where
  level : Nat := 0
deriving DecidableEq, Repr

/-- Fault collector state beside the FLT registers (17). -/
structure Flt where
  /-- The 1,024 records of the log by index (R407). -/
  log : SMap (List Byte) := []
  /-- The log saved at a supply sag (R441). -/
  saved : SMap (List Byte) := []
  buckets : SMap Nat := []
  /-- FAULT_N is driven low (R410). -/
  pinLow : Bool := false
  /-- Injection in force (R420). -/
  injSource : Nat := 0
  injMode : Bool := false
  injLeak : Bool := false
  injAddr : Nat := 0
  injMask : Nat := 0
  /-- STORE_ECC traps by core with the second of network time of the last (R413). -/
  storeEcc : SMap Nat := []
deriving DecidableEq, Repr

/-- Security engine state beside the SEC registers (14). -/
structure Sec where
  keys : SMap KeyEnt := []
  groupKey : SMap Nat := []
  retained : List Retained := []
  eraseNonce : Nat := 0
  /-- Measurement of firmware and microcode: versions (R352). -/
  fwMajor : Nat := 0
  fwMinor : Nat := 0
  bootSvn : Nat := 0
  /-- Lifecycle erasure or debug erasure in progress is SEC_DBG.DEBUG_STATE. -/
  eraseLc : Option Nat := none
deriving DecidableEq, Repr

end Sys2Proof.Machine
end

