-- ==== Sys2Proof/Machine/StKv.lean ====
section
/-! DEFINITION. State of the KV unit: sequences and what waits for them (08). -/

namespace Sys2Proof.Machine

/-- States of a sequence (R204). -/
inductive SeqState where
  | closed | opened | importing | frozen
deriving DecidableEq, Repr

/-- A KV transfer accepted and not ended (R229, R230): its completion and buffer. -/
structure Xfer where
  done : Later
  dev : Bool
  addr : Nat
  bytes : Nat
  /-- Export: the bytes captured at the boundary; import: the bytes checked. -/
  data : List Byte
  /-- Export: the boundary has passed and the bytes are captured. -/
  ready : Bool
deriving DecidableEq, Repr

/-- A sequence (R203, R204). -/
structure SeqEnt where
  state : SeqState := .closed
  ctx : Nat := 0
  /-- Handle of the pool object. -/
  pool : Nat := 0
  kvl : Nat := 0
  cap : Nat := 0
  len : Nat := 0
  /-- Page slots that hold the page table, in order (R460). -/
  tslots : List Nat := []
  maskOva : Nat := 0
  maskRows : Nat := 0
  /-- Last released token (R234). -/
  lastTok : Option Nat := none
  /-- Parts of tentative slots written in this attempt: ((layer × 64 + node) × 2 + part) × 16 + chunk (R205). -/
  wrote : List Nat := []
  /-- Ring pages before the step's preparation: page slot, FIRST_POS, COMMITTED, WRITTEN (R210). -/
  saved : List (Nat × Nat × Nat × Nat) := []
  /-- A SEQ_CLOSE that has not taken effect (R211). -/
  closing : Option Later := none
  exporting : List Xfer := []
  importing : Option Xfer := none
  /-- Destination handle of a migration that has landed it (R398). -/
  moved : Bool := false
deriving DecidableEq, Repr

end Sys2Proof.Machine
end

