-- ==== Sys2Proof/Machine/StTrail.lean ====
section
/-! DEFINITION. State of the ring sequencer: trail images, trail instances, steps in the dispatcher (03). -/

namespace Sys2Proof.Machine

/-- A CORE_DIR entry of a trail image (R57), with the bytes of the core's instruction image. -/
structure CoreEnt where
  lcid : Nat
  mask : Nat
  entries : List Nat
  code : List Byte
deriving DecidableEq, Repr

/-- A PART_LIST entry (R57). -/
structure PartEnt where
  lcid : Nat
  mask : Nat
deriving DecidableEq, Repr

/-- A SLOT_TBL entry (R57): offset F, length Λ, participants, sub-slots. -/
structure SlotEnt where
  f : Nat
  len : Nat
  first : Nat
  cnt : Nat
  subFirst : Nat
  subCnt : Nat
deriving DecidableEq, Repr

/-- A GATE_TBL entry (R57). -/
structure GateEnt where
  ofs : Nat
  kind : Nat
  arg : Nat
deriving DecidableEq, Repr

/-- A WIN_TBL entry (R57): a Canopy window (`trunk = false`) or a Trunk range, and the one source of one sub-slot. -/
structure WinEnt where
  trunk : Bool
  member : Nat
  lcid : Nat
  win : Nat
  base : Nat
  bound : Nat
  srcLcid : Nat
  srcMember : Nat
  slot : Nat
  sub : Nat
deriving DecidableEq, Repr

/-- A STREAM_TBL entry (R279). -/
structure StreamEnt where
  layer : Nat
  expert : Bool
  root : Bool
  d : Nat
  obj : Nat
  ofs : Nat
  slot : Nat
  cell0 : Nat
  ncell : Nat
  dst : Nat
  bktB : Nat
  len : Nat
  stride : Nat
  bktLcid : Nat
  bktCell : Nat
deriving DecidableEq, Repr

/-- An XDEV_TBL entry (R57). -/
structure XdevEnt where
  ofs : Nat
  kind : Nat
  peer : Nat
  sub : Nat
  arg : Nat
deriving DecidableEq, Repr

/-- A MEMBER_TBL entry (R57). -/
structure Member where
  sdid : Nat
  bdid : Nat
  role : Nat
  board : Nat
  mask : Nat
deriving DecidableEq, Repr

/-- A loaded trail image: the header of R56 and its sections. -/
structure Image where
  origin : Nat := 0
  period : Nat := 0
  groupMask : Nat := 0
  scope : Nat := 0
  stepSlots : Nat := 0
  stepRows : Nat := 0
  slipLimit : Nat := 0
  resNeed : Nat := 0
  trailId : Nat := 0
  digest : BitVec 384 := 0
  cores : List CoreEnt := []
  parts : List PartEnt := []
  slots : List SlotEnt := []
  subs : List Nat := []
  gates : List GateEnt := []
  wins : List WinEnt := []
  streams : List StreamEnt := []
  xdevs : List XdevEnt := []
  members : List Member := []
deriving DecidableEq, Repr

/-- A trail instance beside its RSQ registers (R58 to R78). -/
structure Inst where
  image : Image := {}
  /-- The context whose VF loaded the trail (R343). -/
  owner : Nat := 0
  /-- Ring origin O in force: the start tick, where schedule ring 0 begins (R79). -/
  origin : Nat := 0
  /-- Start tick E while ARMED. -/
  startAt : Nat := 0
  /-- The TRAIL_START that waits for E, and the stop requests that wait for the boundary. -/
  startReq : Option Later := none
  stopReqs : List Later := []
  /-- Announced stop: boundary tick and cause (R61). -/
  stopAt : Option (Nat × Nat) := none
  /-- Announced slip: boundary tick and slot (R70). -/
  slipAt : Option (Nat × Nat) := none
  /-- SDID and operation number of the issuer of the start, stop, slip and takeover that wait (R53). -/
  startBy : Nat × Nat := (0, 0)
  stopBy : Nat × Nat := (0, 0)
  slipBy : Nat × Nat := (0, 0)
  takeoverBy : Nat × Nat := (0, 0)
  /-- Slips applied since the start. -/
  slips : Nat := 0
  /-- The network ring in progress is a resumed ring that carries on from this slot (R71). -/
  resumed : Option Nat := none
  /-- Slot of the last applied slip and how many slips of it came in a row (R73), and the boundary of that slip. -/
  consec : Nat × Nat := (0, 0)
  lastSlip : Nat := 0
  /-- Slots now open, and their open sub-slot. -/
  openSlots : SMap Nat := []
  /-- The schedule ring (plus 1) in which each scheduled event last took effect, by kind × 65,536 + index. -/
  fired : SMap Nat := []
  /-- Members that armed, that refused, that are retired. -/
  armed : List Nat := []
  refused : List Nat := []
  retired : List Nat := []
  /-- Boundaries passed since each member's last heartbeat (R415). -/
  missed : SMap Nat := []
  /-- The announced takeover: boundary, member index, SDID of the standby (R76). -/
  takeoverAt : Option (Nat × Nat × Nat) := none
  /-- The start tick has been acted on (R60): a reserve member stays ARMED. -/
  begun : Bool := false
  /-- Commit lists to be mirrored: peer, context, ring position of the step, bytes; and the length of each sequence as
  last mirrored, by peer × 2^18 + handle (R75). -/
  commits : List (Nat × Nat × Nat × List Byte) := []
  sentLen : SMap Nat := []
  /-- Step inputs mirrored here and not yet committed (R75): member, context, ring position of the step, bytes. -/
  mirrors : List (Nat × Nat × Nat × List Byte) := []
  /-- A standby's copies of the members' sequences (R75): member, context, handle, bytes. -/
  copies : List (Nat × Nat × Nat × List Byte) := []
deriving DecidableEq, Repr

/-- A sequence record of a STEP (R232), as retained. -/
structure SeqRec where
  bytes : List Byte := []
  /-- Token of node 0 as resolved at first admission (R234). -/
  tok0 : Nat := 0
  /-- Acceptance result (R248), once an ACCEPT with COMMIT = 1 has run in this attempt. -/
  accepted : Option (List Byte) := none
  /-- Status of the sequence in this step (R373). -/
  sstatus : Nat := 0
  /-- Token row of node 0 and bucket given at admission (R223, R224). -/
  row0 : Nat := 0
  bucket : Nat := 0
  committed : Bool := false
  prepared : Bool := false
  /-- The effective bitmap of the step's tail pages, by node: bit b is storage position 256 × floor(LEN ÷ 256) + b (R214). -/
  mask : List (List Bool) := []
deriving DecidableEq, Repr

/-- A STEP or ADAPTER_STEP held by the dispatcher (R65, R78). -/
structure StepRec where
  id : Nat := 0
  ctx : Nat := 0
  tag : Nat := 0
  adapter : Bool := false
  notify : Bool := false
  nseq : Nat := 0
  recAddr : Nat := 0
  resAddr : Nat := 0
  aspace : Nat := 0
  argAddr : Nat := 0
  argBytes : Nat := 0
  /-- Tick of arrival of the doorbell that announced it (R24). -/
  arrived : Nat := 0
  admitTick : Nat := 0
  commitTick : Nat := 0
  /-- Schedule ring that admitted it. -/
  ring : Nat := 0
  attempts : Nat := 0
  contained : Bool := false
  unordered : Bool := false
  replayed : Bool := false
  recs : List SeqRec := []
deriving DecidableEq, Repr

/-- A snapshot of an instance accepted for tick `e`, or under way (R421, R422). -/
structure Snap where
  snapId : Nat
  e : Nat
  /-- SDID and operation number of the issuer (R53). -/
  sdid : Nat
  seq : Nat
  /-- The SNAPSHOT descriptor, at the issuer. -/
  done : Option Later
  /-- The bytes to be written, once captured; `none` before E. -/
  data : Option (List Byte) := none
  /-- This member's own outcome once its copy ended; reports of the other members: index and status. -/
  own : Option Nat := none
  reports : List (Nat × Nat) := []
  /-- Page slots of pools it holds until its copy ends (R422): pool handle × 2^32 + slot. -/
  held : List Nat := []
deriving DecidableEq, Repr

/-- A migration of a context under way at its source (R397, R398): E, D and B. -/
structure MigOut where
  ctx : Nat
  dest : Nat
  e : Nat
  d : Nat
  b : Nat
  seq : Nat
  done : Option Later
  /-- 0 accepted; 1 from E; 2 from B, the pool's answer awaited; 3 transfer. -/
  phase : Nat := 0
  /-- The destination is not armed for the context. -/
  refused : Bool := false
  /-- Sequences still to land, in ascending handle, and those landed. -/
  left : List Nat := []
  moved : Nat := 0
deriving DecidableEq, Repr

/-- What the destination is told of a sequence, and its bytes once they arrive (R398). -/
structure MigSeq where
  handle : Nat
  kvl : Nat
  cap : Nat
  len : Nat
  lastTok : Option Nat
  frozen : Bool
  data : Option (List Byte) := none
deriving DecidableEq, Repr

/-- A migration of another device's context that concerns this device: as its destination, or as a member of a trail the
context owns (R397, R398). `ctx` is the context here that advances its epoch. -/
structure MigIn where
  sdid : Nat
  srcCtx : Nat
  dest : Bool
  ctx : Nat
  /-- The trail instance that stops at B, at a member. -/
  inst : Nat := 0
  e : Nat
  b : Nat
  epoch : Nat
  seq : Nat
  /-- B has been acted on. -/
  past : Bool := false
  seqs : List MigSeq := []
  /-- Every sequence has been announced: their number; the pool holds them. -/
  total : Option Nat := none
  moved : Nat := 0
deriving DecidableEq, Repr

end Sys2Proof.Machine
end

