-- ==== Sys2Proof/Machine/State.lean ====
section
/-! DEFINITION. The state of the device, its reset value, and the reasons a command can stop. -/

namespace Sys2Proof.Machine

/-- The state: every register, memory, queue and engine of the device, and the commands that wait. -/
structure State where
  /-- The commands that wait, first in, first out. -/
  pending : List Instr := []
  /-- The model's own field: free values drawn so far. -/
  freeCnt : Nat := 0
  /-- The register file: key instance × 256 + register number; unlisted registers hold their reset value. -/
  regs : SMap Word := []
  ntu : Ntu := {}
  /-- Logical cores 0 to 511. -/
  cores : SMap Core := []
  /-- Trail instances 0 to 15. -/
  insts : SMap Inst := []
  /-- Steps waiting for admission, per partition, in arrival order (R65). -/
  waiting : SMap (List StepRec) := []
  /-- Steps admitted and not completed, and steps to replay, per partition. -/
  steps : SMap (List StepRec) := []
  replays : SMap (List StepRec) := []
  /-- Identities given to the frames of objects (R268). -/
  nextObj : Nat := 0
  /-- Operations that have entered an engine's queue. -/
  arrivals : Nat := 0
  /-- Steps admitted at each partition's last admitting boundary (R88, word 7). -/
  lastAdmitted : SMap Nat := []
  /-- Snapshots by instance (R421), and page slots that one holds and whose freeing waits (R422): pool handle × 2^32 +
  slot. -/
  snaps : SMap (List Snap) := []
  snapFree : List Nat := []
  /-- Migrations of contexts of this device, and of others' that concern it (R397). -/
  migs : List MigOut := []
  migIns : List MigIn := []
  /-- Transfers of other devices that are arriving (R389). -/
  rx : List RxXfer := []
  /-- Operation sequence number of the next global operation this device issues (R53). -/
  opSeq : Nat := 0
  /-- Contexts 0 to 4,095, and the admin context at 4,096. -/
  ctxs : SMap Ctx := []
  /-- Memory-tier engines per partition. -/
  mems : SMap MemPart := []
  /-- Free software frames and frames that wait for clearing, per stack (R284). -/
  freeFrames : SMap Ranges := []
  clearPend : SMap Ranges := []
  /-- Free tiles per tower. -/
  freeTiles : SMap Ranges := []
  /-- Sequences by handle (R204): partition × 16,384 + index. -/
  seqs : SMap SeqEnt := []
  /-- Free page slots of each KV pool, by object handle (R201, R460). -/
  poolFree : SMap Ranges := []
  /-- Trunk bytes by DPA, and the error marks of its sectors by DPA ÷ 32. -/
  trunk : SMap Byte := []
  tmarks : SMap Mark := []
  /-- Root bytes by DPA, and the marks of its tiles by DPA ÷ 65,536. -/
  root : SMap Byte := []
  rmarks : SMap Mark := []
  /-- Host memory by PASID × 2^64 + IOVA; the admin context's requests carry no PASID and use PASID 2^20. -/
  host : SMap Byte := []
  /-- Zapiex links 0 to 7, and queue pairs. -/
  links : SMap Link := []
  qps : SMap Qp := []
  /-- Trunk stacks and Root towers 0 to 15 (11, 12, 13), and power (18). -/
  hbm : SMap Stack := []
  towers : SMap Tower := []
  power : Power := {}
  /-- Absent LCIDs; by cluster the mask of its positions whose physical core is retired; by LCID the position plus 1 of
  its physical core, 0 before it is mapped (R12, R13, R413). -/
  absent : List Nat := []
  dead : SMap Nat := []
  lcidPos : SMap Nat := []
  flt : Flt := {}
  sec : Sec := {}
  /-- What the device has sent, newest first. -/
  outs : List Out := []
deriving DecidableEq, Repr

/-- Faults. No command of this block stops the device: an event of the device is an effect on the state. The type has
one constructor, raised by nothing; its presence is safe. -/
inductive Fault where
  /-- An address outside the device's address space reached a memory; raised by no command; safe. -/
  | noSuchAddress (a : Nat)
deriving DecidableEq, Repr

/-- Refusals. -/
inductive Refusal where
  /-- A command whose meaning is not written yet; raised by arms of `exec` only; safe. -/
  | notModelled (mnemonic : String)
deriving DecidableEq, Repr

/-- The machine right after cold reset, before the supply is good: every table empty, every register at its reset
value. -/
def State.reset : State := {}

end Sys2Proof.Machine
end

