-- ==== Sys2Proof/Machine/Ops.lean ====
section
/-! DEFINITION. The named operations over the registers, tables and memories of the state that every meaning shares. -/

namespace Sys2Proof.Machine

/-! ### Fields of 64-byte records and registers -/

/-- `n` bytes at byte `ofs` of a 64-byte record. -/
def recLe (r : Rec64) (ofs n : Nat) : Nat := r.toNat / 2 ^ (8 * ofs) % 2 ^ (8 * n)

/-- Number of a register in the register file. -/
def RegId.num (r : RegId) : Nat := r.ctorIdx

/-- Default class of an event kind: 0 CORR, 1 CONT, 2 FATL (R403). -/
def evtDefault (evt : Nat) : Nat :=
  match evt with
  | 0x2 => 1 | 0x3 => 1 | 0x5 => 1 | 0x8 => 1 | 0xA => 1 | 0xB => 1 | 0xC => 1 | 0xD => 1 | 0xE => 2 | 0xF => 1 | _ => 0

/-- Event kinds whose class may be lowered (R403). -/
def evtDemotable (evt : Nat) : Bool := evt = 0xA ∨ evt = 0xC ∨ evt = 0xF

/-- Reset value of instance `i` of a register (R11), with the resets the tables do not give as numbers. -/
def regReset (r : RegId) (i : Nat) : Word :=
  match r with
  | .VF_INFO => BitVec.ofNat 64 (RegId.VF_INFO.tableReset + i)
  | .FLT_SEV_CFG =>
    let e := i % 16
    BitVec.ofNat 64 ((if evtDemotable e then 256 else 0) + 16 * evtDefault e + evtDefault e)
  | .FLT_ROUTE => if i = 0 then BitVec.ofNat 64 (RegId.FLT_ROUTE.tableReset + 0x13) else BitVec.ofNat 64 RegId.FLT_ROUTE.tableReset
  | .PWR_SENS => BitVec.ofNat 64 (RegId.PWR_SENS.tableReset + 100 * 2 ^ 40 + 110 * 2 ^ 32)
  | r => BitVec.ofNat 64 r.tableReset

/-- Key of instance `i` of a register. -/
def regKey (r : RegId) (i : Nat) : Nat := i * 256 + r.num

/-- The stored value of instance `i` of a register. -/
def State.reg (s : State) (r : RegId) (i : Nat) : Word := s.regs.get (regReset r i) (regKey r i)

/-- Stores the value of instance `i` of a register. -/
def State.setReg (s : State) (r : RegId) (i : Nat) (v : Word) : State :=
  { s with regs := s.regs.set (regReset r i) (regKey r i) v }

/-- Bits of a field in a register value. -/
def Fld.of (f : Fld) (w : Word) : Nat := w.toNat / 2 ^ f.lo % 2 ^ (f.hi + 1 - f.lo)

/-- A register value with a field replaced. -/
def Fld.put (f : Fld) (w : Word) (v : Nat) : Word :=
  BitVec.ofNat 64 (w.toNat - f.of w * 2 ^ f.lo + v % 2 ^ (f.hi + 1 - f.lo) * 2 ^ f.lo)

/-- A field of instance `i` of its register. -/
def State.fld (s : State) (f : Fld) (i : Nat) : Nat := f.of (s.reg f.reg i)

/-- Writes a field of instance `i` of its register. -/
def State.setFld (s : State) (f : Fld) (i v : Nat) : State := s.setReg f.reg i (f.put (s.reg f.reg i) v)

/-- Largest value of a field. -/
def Fld.max (f : Fld) : Nat := 2 ^ (f.hi + 1 - f.lo) - 1

/-- Adds to a counter field, which saturates. -/
def State.incr (s : State) (f : Fld) (i n : Nat) : State := s.setFld f i (min f.max (s.fld f i + n))

/-- Adds 1 to a counter field. -/
def State.inc (s : State) (f : Fld) (i : Nat) : State := s.incr f i 1

/-! ### Tables -/

def State.core (s : State) (c : Nat) : Core := s.cores.get {} c
def State.setCore (s : State) (c : Nat) (x : Core) : State := { s with cores := s.cores.set {} c x }
def State.modCore (s : State) (c : Nat) (f : Core → Core) : State := s.setCore c (f (s.core c))

def State.inst (s : State) (i : Nat) : Inst := s.insts.get {} i
def State.setInst (s : State) (i : Nat) (x : Inst) : State := { s with insts := s.insts.set {} i x }
def State.modInst (s : State) (i : Nat) (f : Inst → Inst) : State := s.setInst i (f (s.inst i))

def State.ctx (s : State) (x : Nat) : Ctx := s.ctxs.get {} x
def State.setCtx (s : State) (x : Nat) (c : Ctx) : State := { s with ctxs := s.ctxs.set {} x c }
def State.modCtx (s : State) (x : Nat) (f : Ctx → Ctx) : State := s.setCtx x (f (s.ctx x))

def State.mem (s : State) (p : Nat) : MemPart := s.mems.get {} p
def State.modMem (s : State) (p : Nat) (f : MemPart → MemPart) : State :=
  { s with mems := s.mems.set {} p (f (s.mem p)) }

def State.stack (s : State) (t : Nat) : Stack := s.hbm.get {} t
def State.modStack (s : State) (t : Nat) (f : Stack → Stack) : State := { s with hbm := s.hbm.set {} t (f (s.stack t)) }
def State.tower (s : State) (t : Nat) : Tower := s.towers.get {} t
def State.modTower (s : State) (t : Nat) (f : Tower → Tower) : State := { s with towers := s.towers.set {} t (f (s.tower t)) }
def State.modPower (s : State) (f : Power → Power) : State := { s with power := f s.power }

/-- Number of the admin context in the context table (R365). -/
def adminCtx : Nat := 4096

/-- The context number of a ring. -/
def ringNo (r : RingId) : Nat := match r with | some x => x.val | none => adminCtx

/-- Current tick number (R29). -/
def State.now (s : State) : Nat := s.ntu.tick

/-- Draws the number of a fresh free value. -/
def State.draw (s : State) : Nat × State := (s.freeCnt, { s with freeCnt := s.freeCnt + 1 })

/-- Sends a message. -/
def State.send (s : State) (o : Out) : State := { s with outs := o :: s.outs }

/-- Physical core of a logical core (R12, R13): 36 × partition + 9 × cluster + position; none while it has none. -/
def State.pcid (s : State) (c : Nat) : Option Nat :=
  match s.lcidPos.get 0 c with
  | 0 => none
  | n + 1 => some (36 * (c / 32) + 9 * (c / 8 % 4) + n)

/-- Partition of a logical core (R12). -/
def partOf (c : Nat) : Nat := c / 32
/-- Owning partition of a context (R12). -/
def ctxPart (x : Nat) : Nat := x / 256

/-! ### Register access with units' own registers seen through it -/

def TState.num : TState → Nat
  | .inactive => 0 | .running => 1 | .blocked => 2 | .waitTick => 3 | .halted => 4 | .trapped => 5

/-- A warm reset waits for buffered stores: issue and admission have stopped (R437). -/
def State.warming (s : State) : Bool := s.power.warm.isSome

/-! ### Groups -/

/-- Partition `p` is present (R18). -/
def State.present (s : State) (p : Nat) : Bool := s.fld HUB_CAP_RES.PART_PRESENT 0 / 2 ^ p % 2 = 1

/-- GROUP_MASK of partition `p`. -/
def State.groupMask (s : State) (p : Nat) : Nat := s.fld PRT_ISO_GRP.GROUP_MASK p

/-- Bit `p` of a mask. -/
def maskBit (m p : Nat) : Bool := m / 2 ^ p % 2 = 1

/-- Lowest partition of a mask. -/
def lowBit (m : Nat) : Nat := ((List.range 16).find? (maskBit m)).getD 0

/-- The partitions of a mask. -/
def maskParts (m : Nat) : List Nat := (List.range 16).filter (maskBit m)

/-- Partition `p` is in a configured group (R340). -/
def State.inGroup (s : State) (p : Nat) : Bool :=
  let m := s.groupMask p
  maskBit m p && (maskParts m).all fun q => s.present q && decide (s.groupMask q = m)

/-- The trail instance of partition `p`'s group: its lowest partition (R58). -/
def State.instOf (s : State) (p : Nat) : Nat := lowBit (s.groupMask p)

/-- Instance states of RSQ_TRL_STATUS.STATE. -/
def iEmpty : Nat := 0
def iLoaded : Nat := 1
def iArmed : Nat := 2
def iRunning : Nat := 3
def iStopping : Nat := 4
def iStopped : Nat := 5
def iStandby : Nat := 6

def State.iState (s : State) (i : Nat) : Nat := s.fld RSQ_TRL_STATUS.STATE i
def State.setIState (s : State) (i st : Nat) : State := s.setFld RSQ_TRL_STATUS.STATE i st

/-- This device's member index in instance `i`. -/
def State.memberIdx (s : State) (i : Nat) : Nat := s.fld RSQ_TRL_STATUS.MEMBER_INDEX i

/-- The role of this device in an instance: 0 active, 1 standby, 2 reserve (R57). -/
def State.roleOf (s : State) (i : Nat) : Nat := (((s.inst i).image.members[s.memberIdx i]?).map (·.role)).getD 0

/-- The slots of the trail of instance `i` run here: RUNNING, or an active member STOPPING before its boundary. A standby
and a reserve run no slot (R75, R77). -/
def State.executing (s : State) (i : Nat) : Bool :=
  decide (s.iState i = iRunning) || (decide (s.iState i = iStopping) && decide (s.roleOf i = 0))

/-- The lock of partition `p`'s PRT block is open (R90). -/
def State.lockOpen (s : State) (p : Nat) : Bool :=
  !s.inGroup p || decide (s.iState (s.instOf p) ∈ [iEmpty, iLoaded, iStopped])

/-- Context states (R341). -/
def cFree : Nat := 0
def cOpen : Nat := 1
def cBound : Nat := 2
def cKilling : Nat := 3

def State.cState (s : State) (x : Nat) : Nat := s.fld VF_CTX_STATUS.STATE x
def State.setCState (s : State) (x st : Nat) : State := s.setFld VF_CTX_STATUS.STATE x st
/-- A context is OPEN or BOUND. -/
def State.cLive (s : State) (x : Nat) : Bool := s.cState x = cOpen ∨ s.cState x = cBound

/-- The context a core is bound to (R342). -/
def State.boundCtx (s : State) (c : Nat) : Option Nat :=
  if s.fld PRT_ISO_BIND.VALID c = 1 then some (s.fld PRT_ISO_BIND.CTX c) else none

/-- The lead time of a scope (R49). -/
def State.lead (s : State) (scope : Nat) : Nat :=
  if scope = 2 then s.fld NTU_LEAD.SPAN_LEAD 0 else s.fld NTU_LEAD.BOARD_LEAD 0

/-! ### Ring arithmetic -/

/-- Network ring index of a tick (R48). -/
def Inst.ringAt (x : Inst) (t : Nat) : Nat := (t - x.origin) / x.image.period
/-- Position of a tick in its ring (R48). -/
def Inst.posAt (x : Inst) (t : Nat) : Nat := (t - x.origin) % x.image.period
/-- Schedule ring of a tick: network ring less slips applied (R69). -/
def Inst.schedAt (x : Inst) (t : Nat) : Nat := x.ringAt t - x.slips
/-- The first ring boundary at or after a tick. -/
def Inst.boundaryFrom (x : Inst) (t : Nat) : Nat :=
  if t ≤ x.origin then x.origin
  else x.origin + ((t - x.origin + x.image.period - 1) / x.image.period) * x.image.period
/-- The tick opens a ring. -/
def Inst.isBoundary (x : Inst) (t : Nat) : Bool := x.origin ≤ t ∧ x.posAt t = 0

/-- Rounds up to a multiple. -/
def roundUp (n m : Nat) : Nat := (n + m - 1) / m * m

/-! ### Ranges of free frames and tiles -/

/-- Number of members. -/
def Ranges.count (r : Ranges) : Nat := (r.map Prod.snd).sum

/-- The `n`-th member. -/
def Ranges.nth : Ranges → Nat → Option Nat
  | [], _ => none
  | (a, l) :: r, n => if n < l then some (a + n) else Ranges.nth r (n - l)

def Ranges.mem (r : Ranges) (x : Nat) : Bool := r.any fun (a, l) => a ≤ x ∧ x < a + l

/-- Removes the members in [x, x + n). -/
def Ranges.remove (r : Ranges) (x n : Nat) : Ranges :=
  r.flatMap fun (a, l) =>
    if x + n ≤ a ∨ a + l ≤ x then [(a, l)]
    else (if a < x then [(a, x - a)] else []) ++ (if x + n < a + l then [(x + n, a + l - (x + n))] else [])

/-- Prepends a range, joining it with the next one if they touch. -/
def Ranges.prepend (a l : Nat) : Ranges → Ranges
  | [] => [(a, l)]
  | (b, m) :: r => if a + l = b then (a, l + m) :: r else (a, l) :: (b, m) :: r

/-- Adds [x, x + n), which shares no member, in order, joining neighbours. -/
def Ranges.insertAt (x n : Nat) : Ranges → Ranges
  | [] => [(x, n)]
  | (a, l) :: r =>
    if a + l = x then Ranges.prepend a (l + n) r
    else if x < a then Ranges.prepend x n ((a, l) :: r)
    else (a, l) :: Ranges.insertAt x n r

/-- Adds the members of [x, x + n). -/
def Ranges.add (r : Ranges) (x n : Nat) : Ranges := if n = 0 then r else Ranges.insertAt x n (r.remove x n)

/-- Number of runs of `n` consecutive members, starting at any member or at multiples of 32. -/
def Ranges.runs (r : Ranges) (n : Nat) (aligned : Bool) : List (Nat × Nat) :=
  r.filterMap fun (a, l) =>
    let f := if aligned then roundUp a 32 else a
    if f + n ≤ a + l then some (f, if aligned then (a + l - f - n) / 32 + 1 else a + l - f - n + 1) else none

/-- First member of the `k`-th run of `n` consecutive members. -/
def Ranges.nthRun (r : Ranges) (n : Nat) (aligned : Bool) (k : Nat) : Option Nat :=
  let rec go : List (Nat × Nat) → Nat → Option Nat
    | [], _ => none
    | (f, c) :: rest, k => if k < c then some (f + k * (if aligned then 32 else 1)) else go rest (k - c)
  go (r.runs n aligned) k

end Sys2Proof.Machine
end

