-- ==== Sys2Proof/Machine/Schedule.lean ====
section
/-! DEFINITION. When scheduled events and global operations of a trail take effect, and their order within a tick (R53,
R66, R69, R71). -/

namespace Sys2Proof.Machine

/-! ### Scheduled events -/

/-- Kinds of scheduled events, by which `Inst.fired` keeps the last schedule ring in which each took effect. -/
def evBoundary : Nat := 0
def evSlotEnd : Nat := 1
def evGate : Nat := 2
def evXdev : Nat := 3
def evSlot : Nat := 4

def Inst.firedIn (x : Inst) (kind idx k : Nat) : Bool := x.fired.get 0 (kind * 65536 + idx) = k + 1
def Inst.fire (x : Inst) (kind idx k : Nat) : Inst := { x with fired := x.fired.set 0 (kind * 65536 + idx) (k + 1) }

/-- End offset F + Λ of slot `j`. -/
def Inst.slotStop (x : Inst) (j : Nat) : Nat := ((x.image.slots[j]?).map fun e => e.f + e.len).getD 0

/-- An event at ring offset `ofs` takes effect now: once in a schedule ring; after a slip declared in slot j of this
network ring none at or past that slot's end, and in the resumed ring only those (R69, R71). -/
def Inst.due (x : Inst) (now kind idx ofs : Nat) : Bool :=
  decide (x.origin ≤ now) && decide (x.posAt now = ofs) && !x.firedIn kind idx (x.schedAt now)
    && (match x.slipAt with | some (_, j) => decide (ofs < x.slotStop j) | none => true)
    && (match x.resumed with | some j => decide (x.slotStop j ≤ ofs) | none => true)

/-- Offset `ofs` of the schedule ring in progress has come, the slips declared so far counted (R69): in a resumed ring
what lies before the end of the slot that slipped came in the ring before; after a declared slip what lies past that
slot's end is still to come. -/
def Inst.passed (x : Inst) (now ofs : Nat) : Bool :=
  (match x.resumed with | some j => decide (ofs < x.slotStop j) | none => false)
    || (decide (ofs ≤ x.posAt now) && (match x.slipAt with | some (_, j) => decide (ofs < x.slotStop j) | none => true))

/-! ### Global operations (R53) -/

/-- One operation comes before another: by tick, then SDID and operation number of the issuer. -/
def opBefore (a b : Nat × Nat × Nat) : Bool :=
  decide (a.1 < b.1) || (decide (a.1 = b.1) && (decide (a.2.1 < b.2.1) || (decide (a.2.1 = b.2.1) && decide (a.2.2 < b.2.2))))

/-- A snapshot's place in that order. -/
def Snap.key (g : Snap) : Nat × Nat × Nat := (g.e, g.sdid, g.seq)

/-- The operations that wait in an instance: its start, stop, slip and takeover. -/
def Inst.opKeys (x : Inst) (armed : Bool) : List (Nat × Nat × Nat) :=
  (if armed && !x.begun then [(x.startAt, x.startBy)] else [])
    ++ (x.stopAt.toList.map fun e => (e.1, x.stopBy)) ++ (x.slipAt.toList.map fun e => (e.1, x.slipBy))
    ++ x.takeoverAt.toList.map fun e => (e.1, x.takeoverBy)

/-- The global operations of instance `i` whose tick has come and which have not been performed. -/
def State.opsDue (s : State) (i : Nat) : List (Nat × Nat × Nat) :=
  ((s.inst i).opKeys (decide (s.iState i = iArmed))
    ++ (((s.snaps.get [] i).filter fun g => g.data.isNone && g.own.isNone).map Snap.key)
    ++ (s.migs.filter fun g => decide (g.phase = 0) && decide ((s.inst i).owner = g.ctx)).map fun g =>
        (g.e, s.fld ZXL_SPAN.SDID 0, g.seq)).filter fun k => k.1 ≤ s.now

/-! ### The order of one tick (R66) -/

/-- The check of slot `j` at its end is due: the slot is open, it ended with the tick before, and no slip is declared in a
slot that ends earlier. -/
def State.checkDue (s : State) (i j : Nat) : Bool :=
  let x := s.inst i
  let stop := x.slotStop j
  s.executing i && decide (x.openSlots.find j ≠ none) && decide (x.origin ≤ s.now) && decide (x.posAt s.now = stop)
    && (match x.slipAt with | some (_, j0) => decide (stop ≤ x.slotStop j0) | none => true)
    && !x.firedIn evSlotEnd j (x.ringAt s.now)

/-- The admitting boundary of this tick is due: no slip or stop takes effect at it and it opens no resumed ring. -/
def State.boundaryDue (s : State) (i : Nat) : Bool :=
  let x := s.inst i
  s.executing i && x.isBoundary s.now && !(x.slipAt.any fun e => decide (e.1 ≤ s.now)) && !(x.stopAt.any fun e => decide (e.1 ≤ s.now))
    && !x.firedIn evBoundary 0 (x.schedAt s.now)

/-- Gate `n` is due. -/
def State.gateDue (s : State) (i n : Nat) : Bool :=
  match (s.inst i).image.gates[n]? with
  | some g => s.executing i && (s.inst i).due s.now evGate n g.ofs
  | none => false

/-- XDEV_TBL entry `n` is due. -/
def State.xdevDue (s : State) (i n : Nat) : Bool :=
  match (s.inst i).image.xdevs[n]? with
  | some e => s.executing i && (s.inst i).due s.now evXdev n e.ofs
  | none => false

/-- The opening of slot `j` is due. -/
def State.slotDue (s : State) (i j : Nat) : Bool :=
  match (s.inst i).image.slots[j]? with
  | some e => s.executing i && (s.inst i).due s.now evSlot j e.f
  | none => false

/-- Nothing of instance `i` that R66 puts before entry `idx` of a phase waits at this tick. Phases: 2 global operations,
3 admission, 4 gates, 5 XDEV_TBL events, 6 openings of slots, 7 what follows the events of the tick. -/
def State.turn (s : State) (i phase idx : Nat) : Bool :=
  let x := (s.inst i).image
  !((List.range x.slots.length).any (s.checkDue i))
    && (decide (phase ≤ 2) || decide (s.opsDue i = []))
    && (decide (phase ≤ 3) || !s.boundaryDue i)
    && (decide (phase < 4) || !((List.range (if phase = 4 then idx else x.gates.length)).any (s.gateDue i)))
    && (decide (phase < 5) || !((List.range (if phase = 5 then idx else x.xdevs.length)).any (s.xdevDue i)))
    && (decide (phase < 7) || !((List.range x.slots.length).any (s.slotDue i)))

/-- The turn of a global operation: slot-end checks come first, then operations in the order of R53. -/
def State.opTurn (s : State) (i : Nat) (key : Nat × Nat × Nat) : Bool :=
  s.turn i 2 0 && (s.opsDue i).all fun k => !opBefore k key

end Sys2Proof.Machine
end

