-- ==== Sys2Proof/Machine/Controllers.lean ====
section
/-! DEFINITION. Device physical addresses, and what the Trunk and Root controllers charge for serving a block or a tile to a
partition (R21, R257, R287, R291 to R293, R303, R332, R429, R444). -/

namespace Sys2Proof.Machine

/-! ### Device physical addresses (R257) -/

def rootBase : Nat := 0x800000000000
def canopyBase : Nat := 0x1000000000000
def claspBase : Nat := 0x400000000000

/-- Where a DPA lies. -/
inductive Place where
  | trunk (stack ofs : Nat)
  | clasp (stack ofs : Nat)
  | root (tower ofs : Nat)
  | canopy (core ofs : Nat)
  | none
deriving DecidableEq, Repr

/-- Decodes a DPA (R257). -/
def place (dpa : Nat) : Place :=
  if dpa < 0x10000000000 then .trunk (dpa / 0x1000000000) (dpa % 0x1000000000)
  else if claspBase ≤ dpa ∧ dpa < claspBase + 0x10000000000 then
    .clasp ((dpa - claspBase) / 0x1000000000) ((dpa - claspBase) % 0x1000000000)
  else if rootBase ≤ dpa ∧ dpa < 2 * rootBase then
    .root ((dpa - rootBase) / 0x80000000000) ((dpa - rootBase) % 0x80000000000)
  else if canopyBase ≤ dpa ∧ dpa < canopyBase + 0x80000000 then
    .canopy ((dpa - canopyBase) / 0x400000) ((dpa - canopyBase) % 0x400000)
  else .none

def trunkDpa (stack ofs : Nat) : Nat := stack * 0x1000000000 + ofs
def rootDpa (tower ofs : Nat) : Nat := rootBase + tower * 0x80000000000 + ofs
def canopyDpa (core ofs : Nat) : Nat := canopyBase + core * 0x400000 + ofs

/-- Software frames of a stack (R258) and mapped tiles of a tower (R259). -/
def swFrames : Nat := 1015808
def rootTiles : Nat := 100663296

/-- Frame number of a DPA's 64 KiB (DPA[51:16]). -/
def trunkFrame (st f : Nat) : Nat := st * 2 ^ 20 + f
def rootFrame (t tile : Nat) : Nat := (rootBase + t * 0x80000000000) / 65536 + tile

/-! ### Settings of a Trunk stack in force (R306, R444) -/

/-- A partition's TRK_REG value in force on a stack. -/
def State.trkReg (s : State) (st p : Nat) : Word := ((s.stack st).regNow.find p).getD (s.reg .TRK_REG (st * 16 + p))
/-- The sharing mode of a stack in force. -/
def State.trkMode (s : State) (st : Nat) : Nat := TRK_ARB_CFG.MODE.of ((s.stack st).arbNow.getD (s.reg .TRK_ARB_CFG st))
/-- Throttle level of a stack. -/
def State.stackLevel (s : State) (st : Nat) : Nat := s.power.level.get 0 (0x30 + st)
/-- Units a service window carries. -/
def State.windowUnits (s : State) (st : Nat) : Nat := 2560 * (8 - 2 * s.stackLevel st) / 8
/-- SHARE of a partition as it acts. -/
def State.shareNow (s : State) (st p : Nat) : Nat := TRK_REG.SHARE.of (s.trkReg st p) * (8 - 2 * s.stackLevel st) / 8

/-! ### Address map (R287, R303) -/

/-- Pseudo-channel, bank and row of a stack offset. -/
def trunkPlace (o : Nat) : Nat × Nat × Nat := (bitsOf o 8 6, bitsOf o 16 6 ^^^ bitsOf o 22 6, bitsOf o 22 14)
/-- Sector of the row, 0 to 31: the byte within the row is {o[15:14], o[7:0]}. -/
def trunkSector (o : Nat) : Nat := (bitsOf o 14 2 * 256 + bitsOf o 0 8) / 32

/-- Where a row of retired pseudo-channel `q` lies: survivor and row (R303). -/
def substitute (q r : Nat) : Nat × Nat :=
  let n := if r < 15616 then r else r - 256
  let h := n % 63
  (if h < q then h else h + 1, 15616 + n / 63)

/-- TRK_STATUS.STATE. -/
def tkOff : Nat := 0
def tkTrain : Nat := 1
def tkOnline : Nat := 2
def tkMaint : Nat := 3
def tkRetiring : Nat := 4

def State.tkState (s : State) (st : Nat) : Nat := s.fld TRK_STATUS.STATE st
/-- The stack serves normal traffic. -/
def State.tkServes (s : State) (st : Nat) : Bool := s.tkState st = tkOnline ∨ s.tkState st = tkRetiring

/-- Pseudo-channel, bank and row at which a stack serves an offset. -/
def State.trunkPlaceNow (s : State) (st o : Nat) : Nat × Nat × Nat :=
  let (q, b, r) := trunkPlace o
  if s.fld TRK_STATUS.PC_RETIRED st = 1 ∧ s.fld TRK_STATUS.RETIRED_PC st = q ∧ (r < 15616 ∨ (15872 ≤ r ∧ r < 16383)) then
    ((substitute q r).1, b, (substitute q r).2)
  else (q, b, r)

/-! ### Clasp records (R312 to R315) -/

def claspOp (w : Rec64) : Nat := recLe w 0 1
def claspFrames (w : Rec64) : Nat := recLe w 2 2 + 1
def claspA (w : Rec64) : Nat := recLe w 8 8
def claspB (w : Rec64) : Nat := recLe w 0x10 8
def claspC (w : Rec64) : Nat := recLe w 0x18 8
def claspByte0 (w : Rec64) : Nat := recLe w 0x20 4
def claspBytes (w : Rec64) : Nat := recLe w 0x24 4

/-- The operation combines two operands. -/
def claspLogic (w : Rec64) : Bool := claspOp w ∈ [3, 4, 5, 6]

/-- Operand runs of a record that it names: A unless ROWINIT, B of a logic operation, C. -/
def claspRuns (w : Rec64) : List Nat :=
  (if claspOp w = 2 then [] else [claspA w]) ++ (if claspLogic w then [claspB w] else []) ++ [claspC w]

/-- Sectors of pseudo-channel `q` that a byte range selects: numbers in the row and byte offsets in the frame. -/
def claspSectors (w : Rec64) (q : Nat) : List (Nat × Nat) :=
  ((List.range 32).map fun i => (i, i / 8 * 16384 + q * 256 + i % 8 * 32)).filter fun e =>
    claspByte0 w ≤ e.2 ∧ e.2 < claspByte0 w + claspBytes w

/-- Pseudo-channels with a selected sector, ascending. -/
def claspPcs (w : Rec64) : List Nat := (List.range 64).filter fun q => claspSectors w q ≠ []

/-- Unit operations of a record. -/
def claspCount (w : Rec64) : Nat := claspFrames w * (claspPcs w).length

/-- Frame and pseudo-channel of operation `n` of a record. -/
def claspAt (w : Rec64) (n : Nat) : Nat × Nat :=
  let m := (claspPcs w).length
  (n / m, (claspPcs w).getD (n % m) 0)

/-- A unit operation of a record, number `done` or later, reads or writes the sector at a DPA. -/
def claspTouches (w : Rec64) (done dpa : Nat) : Bool :=
  (claspRuns w).any fun a =>
    let x := (dpa - a) % 65536
    decide (a ≤ dpa) && decide (dpa < a + claspFrames w * 65536) && decide (claspByte0 w ≤ x ∧ x < claspByte0 w + claspBytes w)
      && decide (done ≤ (dpa - a) / 65536 * (claspPcs w).length + (claspPcs w).idxOf (x / 256 % 64))

/-- A record accepted before arrival number `arr` has still to act on a sector of [dpa, dpa + n): accesses that come later wait
for it (R288, R315). -/
def State.claspHolds (s : State) (arr dpa n : Nat) : Bool :=
  match place dpa with
  | .trunk st _ => (s.stack st).clasp.any fun r => decide (r.arr < arr) &&
      (List.range' (dpa / 32) ((dpa + n - 1) / 32 + 1 - dpa / 32)).any fun k => claspTouches r.word r.done (k * 32)
  | _ => false

/-! ### Charges of a Trunk stack (R291 to R293) -/

/-- Cost units of a block at a place for a partition: a row hit costs 1, a row miss 5; in sealed mode the first block of a
run to each bank is a miss. -/
def State.blockCost (s : State) (st p q b r : Nat) : Nat :=
  let k := s.stack st
  let bank := q * 64 + b
  if k.openRow.get 0 bank = r + 1 ∧ !(decide (s.trkMode st = 2) && decide (p * 4096 + bank ∉ k.met)) then 1 else 5

/-- `cost` units are served to a partition, for context `x` where one is named: they reduce its bucket, count against its
window and in SERVED. -/
def State.countUnits (s : State) (st p : Nat) (x : Option Nat) (cost : Nat) : State :=
  let depth : Int := TRK_REG.DEPTH.of (s.trkReg st p)
  let s := s.modStack st fun k => { k with
    used := k.used.set 0 p (k.used.get 0 p + cost)
    ctxUsed := match x with | some x => k.ctxUsed.set 0 x (k.ctxUsed.get 0 x + cost) | none => k.ctxUsed
    spent := if s.trkMode st = 1 then k.spent.set 0 p (min (k.spent.get 0 p + cost) (depth + 5)) else k.spent }
  s.incr TRK_REG.SERVED (st * 16 + p) cost

/-- The block's row is open from here on, and the partition's run has met its bank. -/
def State.openBlock (s : State) (st p q b r : Nat) : State :=
  s.modStack st fun k => { k with
    openRow := k.openRow.set 0 (q * 64 + b) (r + 1)
    met := if p * 4096 + (q * 64 + b) ∈ k.met then k.met else k.met ++ [p * 4096 + (q * 64 + b)] }

/-- A block is served to a partition at a place. -/
def State.serveBlock (s : State) (st p : Nat) (x : Option Nat) (q b r : Nat) : State :=
  (s.countUnits st p x (s.blockCost st p q b r)).openBlock st p q b r

/-- Engine traffic of context `x` of partition `p` with the Trunk bytes [dpa, dpa + n), block by block (R21, R261): charged
as it is served; what it waits for in the service windows is timing (log 51). -/
def State.chargeTrunk (s : State) (p : Nat) (x : Option Nat) (dpa n : Nat) : State :=
  if p ≥ 16 ∨ n = 0 then s
  else
    (List.range' (dpa / 64) ((dpa + n - 1) / 64 + 1 - dpa / 64)).foldl (fun s k =>
      match place (k * 64) with
      | .trunk st o => let w := s.trunkPlaceNow st o; s.serveBlock st p x w.1 w.2.1 w.2.2
      | _ => s) s

/-! ### State of a Root tower (R334, R335, R418) -/

/-- RTF_STATUS.STATE. -/
def rtOff : Nat := 0
def rtMounting : Nat := 1
def rtOnline : Nat := 2
def rtUnmounted : Nat := 3
def rtRebuilding : Nat := 4
def rtReadOnly : Nat := 5

def State.rtState (s : State) (t : Nat) : Nat := s.fld RTF_STATUS.STATE t

/-- The tower serves accesses: it is mounted, not being unmounted, and its map is readable. -/
def State.rtServes (s : State) (t : Nat) : Bool :=
  decide (s.rtState t ∈ [rtOnline, rtRebuilding, rtReadOnly]) && !(s.tower t).leaving && !(s.tower t).mapWait

/-! ### Grants of a Root tower (R332, R429, R444) -/

/-- Throttle level of a tower. -/
def State.towerLevel (s : State) (t : Nat) : Nat := s.power.level.get 0 (0x40 + t)
def State.rtfCfg (s : State) (t : Nat) : Word := ((s.tower t).cfgNow).getD (s.reg .RTF_CFG t)
/-- The sharing mode of a tower in force. -/
def State.rtfMode (s : State) (t : Nat) : Nat := RTF_CFG.MODE.of (s.rtfCfg t)
/-- SLOTS of a partition as it acts. -/
def State.slotsNow (s : State) (t p : Nat) : Nat :=
  RTF_SLOT.SLOTS.of (((s.tower t).slotNow.find p).getD (s.reg .RTF_SLOT (t * 16 + p))) * (8 - 2 * s.towerLevel t) / 8
/-- Grants a window carries. -/
def State.windowGrants (s : State) (t : Nat) : Nat :=
  let n := 125 * (8 - 2 * s.towerLevel t) / 8
  if s.fld PWR_STATUS.PROFILE 0 = 3 then min n 30 else n

/-- A read grant of partition `p`: in shared mode its own or a lent one, in sealed mode its own. -/
def State.takeGrant (s : State) (t p : Nat) : Option State :=
  let u := (s.tower t).used
  if (s.tower t).shut ∨ (u.map Prod.snd).sum ≥ s.windowGrants t ∨ (s.rtfMode t = 1 ∧ u.get 0 p ≥ s.slotsNow t p) then none
  else some ((s.modTower t fun x => { x with used := x.used.set 0 p (x.used.get 0 p + 1) }).inc RTF_SLOT.SERVED (t * 16 + p))

/-- Read region of a tile. -/
def regionOf (tile : Nat) : Nat := tile / 256

/-- The tile at a frame reads as zero without a sense: it is not mapped, or was never written (R284, R323). -/
def State.tileBlank (s : State) (t tile frame : Nat) : Bool :=
  decide (tile ≥ rootTiles) || Ranges.mem (s.freeTiles.get [] t) tile
    || !(s.root.any fun (e : Nat × Byte) => e.1 / 65536 = frame) && decide (s.rmarks.get .clean frame = .clean)

/-- A request reads a tile of a region: the region's count rises once for each request (R328). -/
def State.countRegion (s : State) (t tile : Nat) : State :=
  s.modTower t fun x => { x with
    counts := x.counts.set x.countBase (regionOf tile) (x.counts.get x.countBase (regionOf tile) + 1) }

/-- A read of one tile by partition `p`'s engines (R21, R23, R264, R332): it takes a grant and counts, unless the tile is
blank, still in the write buffer or poisoned; none where it waits for the tower or for a grant. `fresh`: the request has
read no other tile of the region (R328). -/
def State.rootTile (s : State) (p frame : Nat) (fresh : Bool) : Option State :=
  match place (frame * 65536) with
  | .root t o =>
    let tile := o / 65536
    if !s.rtServes t then none
    else if s.tileBlank t tile frame then some s
    else
      (s.takeGrant t p).map fun s =>
        if tile ∈ (s.tower t).buffer ∨ s.rmarks.get .clean frame = .poison then s
        else (if fresh then s.countRegion t tile else s).inc RTF_READ.TILE_READS t
  | _ => some s

/-- Reads tiles, each with whether its region is new to its request, from number `n` on; the answer is the frame that waits,
if any, and how many have been read. -/
def State.fetchTiles (s : State) (p : Nat) : Nat → List (Nat × Bool) → (Option Nat × Nat) × State
  | n, [] => ((none, n), s)
  | n, (f, fresh) :: l =>
    match s.rootTile p f fresh with
    | none => ((some f, n), s)
    | some s => s.fetchTiles p (n + 1) l

/-- Read region of a Root frame, + 1. -/
def frameRegion (f : Nat) : Nat := regionOf (f % 0x8000000) + 1

/-- Frames in order, each with whether its region is new after frame `last` − 1. -/
def withFresh : Nat → List Nat → List (Nat × Bool)
  | _, [] => []
  | last, f :: l => (f, last = 0 || frameRegion (last - 1) ≠ frameRegion f) :: withFresh (f + 1) l

/-- A block of a Root page is read as part of its whole tile (R264): the tile that a partition's request read last serves
further blocks of it without another read. -/
def State.rootBlock (s : State) (p dpa : Nat) : Option State :=
  let f := dpa / 65536
  match place dpa with
  | .root t _ =>
    let prev := (s.tower t).last.get 0 p
    if prev = f + 1 ∧ s.rtServes t then some s
    else
      (s.rootTile p f (prev = 0 || frameRegion (prev - 1) ≠ frameRegion f)).map fun s =>
        s.modTower t fun x => { x with last := x.last.set 0 p (f + 1) }
  | _ => some s

/-- A partition begins another request to Root (R328). -/
def State.newRootRequest (s : State) (p : Nat) : State :=
  if s.towers.any fun (e : Nat × Tower) => e.2.last.get 0 p ≠ 0 then
    { s with towers := s.towers.map fun (e : Nat × Tower) => (e.1, { e.2 with last := e.2.last.set 0 p 0 }) }
  else s

/-- The tower of a Root address is UNMOUNTED or OFF: an access to it waits, as an engine's tag wait (R335). -/
def State.towerDown (s : State) (dpa : Nat) : Option Nat :=
  match place dpa with
  | .root t _ => if s.rtState t = rtUnmounted ∨ s.rtState t = rtOff then some t else none
  | _ => none

end Sys2Proof.Machine
end

