-- ==== Sys2Proof/Machine/Mem.lean ====
section
/-! DEFINITION. Translation of object virtual addresses, and access to Trunk, Root and host memory (10, 15). -/

namespace Sys2Proof.Machine

/-! ### Translation (R262, R264) -/

/-- The PTE in force for an OVA of context `x`; a 2 MiB page is listed at its first 64 KiB. -/
def State.pte (s : State) (x ova : Nat) : Pte :=
  let pg := (s.ctx x).pages
  let e := pg.get {} (ova / 65536)
  if e.present then e
  else
    let b := pg.get {} (ova / 65536 / 32 * 32)
    if b.present && b.big then b else {}

/-- The DPA a PTE gives for an OVA. -/
def Pte.dpa (e : Pte) (ova : Nat) : Nat :=
  if e.big then e.frame * 65536 + ova % 0x200000 else e.frame * 65536 + ova % 65536

/-- The 64-bit form of a PTE (R262). -/
def Pte.word (e : Pte) : Word :=
  if e.present then
    BitVec.ofNat 64 (e.epoch % 256 * 2 ^ 56 + e.key % 4096 * 2 ^ 44 + e.frame % 2 ^ 36 * 256
      + (match e.tier with | .trunk => 0 | .root => 64 | .canopy => 128) + (if e.big then 32 else 0)
      + (if e.mig then 16 else 0) + (if e.pin then 8 else 0) + (if e.shared then 4 else 0) + (if e.w then 2 else 0) + 1)
  else 0

def State.setPte (s : State) (x page : Nat) (e : Pte) : State :=
  s.modCtx x fun c => { c with pages := c.pages.set {} page e }

/-! ### Trunk and Root bytes -/

/-- Bytes of Trunk or Root at a DPA. -/
def State.readDpa (s : State) (dpa n : Nat) : List Byte :=
  if dpa < rootBase then getBytes s.trunk dpa n else getBytes s.root dpa n

/-- Writes bytes of Trunk or Root at a DPA; a write of a whole sector, or of a whole tile, removes its mark (R296). -/
def State.writeDpa (s : State) (dpa : Nat) (bs : List Byte) : State :=
  if dpa < rootBase then
    { s with trunk := setBytes s.trunk dpa bs
             tmarks := s.tmarks.filter fun e => !(decide (dpa ≤ e.1 * 32) && decide (e.1 * 32 + 32 ≤ dpa + bs.length)) }
  else
    { s with root := setBytes s.root dpa bs
             rmarks := s.rmarks.filter fun e => !(decide (dpa ≤ e.1 * 65536) && decide (e.1 * 65536 + 65536 ≤ dpa + bs.length)) }

/-- Some byte of [dpa, dpa + n) lies in a poisoned or unreadable sector or tile. -/
def State.poisonedAt (s : State) (dpa n : Nat) : Bool :=
  if dpa < rootBase then
    s.tmarks.any fun e => (e.2 = .poison ∨ e.2 = .ue) ∧ e.1 * 32 < dpa + n ∧ dpa < e.1 * 32 + 32
  else s.rmarks.any fun e => (e.2 = .poison ∨ e.2 = .ue) ∧ e.1 * 65536 < dpa + n ∧ dpa < e.1 * 65536 + 65536

/-- Some sector or tile of [dpa, dpa + n) carries mark `m`. -/
def State.marked (s : State) (m : Mark) (dpa n : Nat) : Bool :=
  if dpa < rootBase then s.tmarks.any fun e => e.2 = m ∧ e.1 * 32 < dpa + n ∧ dpa < e.1 * 32 + 32
  else s.rmarks.any fun e => e.2 = m ∧ e.1 * 65536 < dpa + n ∧ dpa < e.1 * 65536 + 65536

/-- The poisoned or unreadable parts of [dpa, dpa + n): first byte, counted from `dpa`, and length. -/
def State.badParts (s : State) (dpa n : Nat) : List (Nat × Nat) :=
  let unit := if dpa < rootBase then 32 else 65536
  ((if dpa < rootBase then s.tmarks else s.rmarks).filter fun (e : Nat × Mark) =>
    (e.2 = .poison ∨ e.2 = .ue) ∧ e.1 * unit < dpa + n ∧ dpa < e.1 * unit + unit).map fun (e : Nat × Mark) =>
      (e.1 * unit - dpa, min (e.1 * unit + unit) (dpa + n) - max (e.1 * unit) dpa)

/-- Every sector or tile with a byte in [dpa, dpa + n) is poisoned (R296). -/
def State.poisonDpa (s : State) (dpa n : Nat) : State :=
  if n = 0 then s
  else if dpa < rootBase then
    { s with tmarks := (List.range' (dpa / 32) ((dpa + n - 1) / 32 + 1 - dpa / 32)).foldl (fun m k => m.set .clean k .poison) s.tmarks }
  else
    { s with rmarks := (List.range' (dpa / 65536) ((dpa + n - 1) / 65536 + 1 - dpa / 65536)).foldl (fun m k => m.set .clean k .poison) s.rmarks }

/-- Copies `n` bytes from one DPA to another; what was poisoned stays so (R310, R417). -/
def State.moveBytes (s : State) (src dst n : Nat) : State :=
  (s.badParts src n).foldl (fun t q => t.poisonDpa (dst + q.1) q.2) (s.writeDpa dst (s.readDpa src n))

/-! ### Free frames and tiles (R258, R259, R269, R284) -/

def State.frames (s : State) (st : Nat) : Ranges := s.freeFrames.get [] st
def State.setFrames (s : State) (st : Nat) (r : Ranges) : State := { s with freeFrames := s.freeFrames.set [] st r }
def State.tiles (s : State) (t : Nat) : Ranges := s.freeTiles.get [] t
def State.setTiles (s : State) (t : Nat) (r : Ranges) : State := { s with freeTiles := s.freeTiles.set [] t r }
def State.pendFrames (s : State) (st : Nat) : Ranges := s.clearPend.get [] st
def State.setPend (s : State) (st : Nat) (r : Ranges) : State := { s with clearPend := s.clearPend.set [] st r }

/-- Frames of a stack that are to be withdrawn leave its free pool and staging area (R299, R302). -/
def State.dropWithdrawn (s : State) (st : Nat) : State :=
  let k := s.stack st
  if k.withdraw = [] then s
  else
    let cut := fun r : Ranges => k.withdraw.foldl (fun (r : Ranges) (e : Nat × Nat) => r.remove e.1 e.2) r
    let gone := (k.withdraw.flatMap fun (e : Nat × Nat) => List.range' e.1 e.2).filter fun f =>
      (s.frames st).mem f || (s.mem st).stageFree.mem f
    let s := (s.setFrames st (cut (s.frames st))).modMem st fun m => { m with stageFree := cut m.stageFree }
    s.modStack st fun k => { k with
      withdrawn := gone.foldl (fun (r : Ranges) f => r.add f 1) k.withdrawn
      withdraw := gone.foldl (fun (r : Ranges) f => r.remove f 1) k.withdraw }

/-- The partition whose window engine has an entry under way that reads the frame. -/
def State.frameReader (s : State) (frame : Nat) : Option Nat :=
  (s.mems.find? fun (e : Nat × MemPart) => e.2.streams.any fun r => frame ∈ r.frames).map Prod.fst

/-- A frame is given up: a Trunk frame waits for clearing; a Root tile is unmapped and reads as zero (R269, R284). One that
an entry under way may still read is held until that entry ends (R274, R280). -/
def State.freeDpaFrame (s : State) (frame : Nat) : State :=
  match s.frameReader frame with
  | some p => s.modMem p fun m => { m with held := frame :: m.held }
  | none =>
  match place (frame * 65536) with
  | .trunk st ofs => s.setPend st ((s.pendFrames st).add (ofs / 65536) 1)
  | .root t ofs =>
    let s := { s with root := zeroBytes s.root (frame * 65536) 65536, rmarks := s.rmarks.erase frame }
    s.setTiles t ((s.tiles t).add (ofs / 65536) 1)
  | _ => s

/-! ### OVA access by device agents -/

/-- The pieces of a range of OVAs that lie in one 64 KiB page each: first OVA and length. -/
def ovaPieces : Nat → Nat → Nat → List (Nat × Nat)
  | 0, _, _ => []
  | fuel + 1, ova, n =>
    let m := min n (65536 - ova % 65536)
    if n = 0 then [] else (ova, m) :: ovaPieces fuel (ova + m) (n - m)

/-- The OVA lies in a KV pool of the context. -/
def State.inPool (s : State) (x ova : Nat) : Bool := (s.ctx x).objs.any fun o => o.kind = 2 ∧ o.ova ≤ ova ∧ ova < o.ova + o.bytes

/-- Poisoned parts of a range of OVAs of context `x`: first byte, counted from `ova`, and length. -/
def State.ovaBad (s : State) (x ova n : Nat) : List (Nat × Nat) :=
  (ovaPieces (n / 65536 + 2) ova n).flatMap fun q =>
    let e := s.pte x q.1
    if e.present && e.tier ≠ .canopy then (s.badParts (e.dpa q.1) q.2).map fun b => (q.1 - ova + b.1, b.2) else []

/-- Poisons a range of OVAs of context `x`. -/
def State.ovaPoison (s : State) (x ova n : Nat) : State :=
  (ovaPieces (n / 65536 + 2) ova n).foldl (fun t q =>
    let e := s.pte x q.1
    if e.present && e.tier ≠ .canopy then t.poisonDpa (e.dpa q.1) q.2 else t) s

/-- Reads `n` bytes of context `x` at an OVA, page by page; `none` where a page is not present or is Canopy. -/
def State.readPages (s : State) (x : Nat) : Nat → Nat → Nat → Option (List Byte)
  | 0, _, _ => some []
  | fuel + 1, ova, n =>
    let e := s.pte x ova
    let m := min n (65536 - ova % 65536)
    if n = 0 then some []
    else if e.present && e.tier ≠ .canopy then (s.readPages x fuel (ova + m) (n - m)).map fun bs => s.readDpa (e.dpa ova) m ++ bs
    else none

def State.readOva (s : State) (x ova n : Nat) : Option (List Byte) := s.readPages x (n / 65536 + 2) ova n

/-- A write to a page whose tile is in copy waits for the switch, and is counted (R275): the copy is made at the switch, so
the bytes written before it go with the tile. -/
def State.countMigWait (s : State) (x : Nat) (e : Pte) : State := if e.mig then s.inc PRT_XL_MIG.MIG_WAITS (ctxPart x) else s

/-- Writes bytes of context `x` at an OVA, page by page, charged to its partition; bytes on pages that are not present or
are Canopy are dropped, and so are bytes on the pages of a KV pool unless the KV unit writes them (R201; log 85). -/
def State.writePages (s : State) (kv : Bool) (x : Nat) : Nat → Nat → List Byte → State
  | 0, _, _ => s
  | fuel + 1, ova, bs =>
    let e := s.pte x ova
    let m := 65536 - ova % 65536
    if bs = [] then s
    else
      let s := if e.present && e.tier ≠ .canopy && (kv || !s.inPool x ova) then
          ((s.countMigWait x e).writeDpa (e.dpa ova) (bs.take m)).chargeTrunk (ctxPart x) (some x) (e.dpa ova) (bs.take m).length
        else s
      s.writePages kv x fuel (ova + m) (bs.drop m)

/-- A write of a device agent other than the KV unit. -/
def State.writeOva (s : State) (x ova : Nat) (bs : List Byte) : State := s.writePages false x (bs.length / 65536 + 2) ova bs
/-- A write of the KV unit (R201). -/
def State.kvWrite (s : State) (x ova : Nat) (bs : List Byte) : State := s.writePages true x (bs.length / 65536 + 2) ova bs

/-- PASID of a context's requests; the admin context's carry none, kept as PASID 2^20. -/
def State.pasid (s : State) (x : Nat) : Nat := if x = adminCtx then 2 ^ 20 else s.fld VF_CTX_CFG.PASID x

/-- Key of a host address in `State.host`. -/
def State.hostKey (s : State) (x iova : Nat) : Nat := s.pasid x * 2 ^ 64 + iova

/-- Reads `n` bytes in an address space of context `x`: 1 its OVA range, 0 host memory (R371). -/
def State.readSpace (s : State) (x : Nat) (dev : Bool) (addr n : Nat) : Option (List Byte) :=
  if dev then s.readOva x addr n else some (getBytes s.host (s.hostKey x addr) n)

/-- Writes bytes in an address space of context `x`. -/
def State.writeSpace (s : State) (x : Nat) (dev : Bool) (addr : Nat) (bs : List Byte) : State :=
  if dev then s.writeOva x addr bs else { s with host := setBytes s.host (s.hostKey x addr) bs }

/-! ### Steps held by the dispatcher -/

/-- The steps of a partition. -/
def State.stepsOf (s : State) (p : Nat) : List StepRec := s.steps.get [] p
def State.setSteps (s : State) (p : Nat) (l : List StepRec) : State := { s with steps := s.steps.set [] p l }

end Sys2Proof.Machine
end

