-- ==== Sys2Proof/Machine/Aqp.lean ====
section
/-! DEFINITION. Completion and event rings, interrupts (R363, R364, R377, R379, R380). -/

namespace Sys2Proof.Machine

/-- Entries of a ring. -/
def RingDesc.entries (r : RingDesc) : Nat := 2 ^ r.log2

/-- Address of the entry of a count (R362, R363). -/
def RingDesc.entryAddr (r : RingDesc) (count size : Nat) : Nat := r.base + 64 + count % r.entries * size

/-- PHASE of the entry of a count: 1 in odd passes, the first pass being odd (R363). -/
def RingDesc.phase (r : RingDesc) (count : Nat) : Nat := if count / r.entries % 2 = 0 then 1 else 0

/-- The moderation and vector fields of a context or of the admin context. -/
def State.irqEn (s : State) (x : Nat) : Bool :=
  if x = adminCtx then s.fld HIF_ADM_CFG.IRQ_EN 0 = 1 else s.fld VF_CTX_CFG.IRQ_EN x = 1
def State.modCntCfg (s : State) (x : Nat) : Nat :=
  if x = adminCtx then s.fld HIF_ADM_CFG.MOD_CNT 0 else s.fld VF_CTX_CFG.MOD_CNT x
def State.modTicksCfg (s : State) (x : Nat) : Nat :=
  if x = adminCtx then s.fld HIF_ADM_CFG.MOD_TICKS 0 else s.fld VF_CTX_CFG.MOD_TICKS x

/-- Sends the MSI-X vector of a context and resets its moderation (R380). -/
def State.fireVector (s : State) (x : Nat) : State :=
  let s := s.send (if x = adminCtx then .msix 0 (s.fld HIF_ADM_CFG.VECTOR 0)
                   else .msix (1 + ctxPart x) (s.fld VF_CTX_CFG.VECTOR x))
  s.modCtx x fun c => { c with modCnt := 0 }

/-- Submission entries read, as completion entries report it (R363). -/
def State.sqHead (s : State) (x : Nat) : Nat :=
  if x = adminCtx then s.fld HIF_ADM_CTL.SQ_HEAD 0 else s.fld VF_CTX_STATUS.SQ_HEAD x

def State.setSqHead (s : State) (x v : Nat) : State :=
  if x = adminCtx then s.setFld HIF_ADM_CTL.SQ_HEAD 0 v else s.setFld VF_CTX_STATUS.SQ_HEAD x v

/-- The ring's context takes and writes entries: OPEN or BOUND, or the admin context created. -/
def State.ringLive (s : State) (x : Nat) : Bool :=
  if x = adminCtx then (s.ctx x).exists_ else s.cLive x

/-- The 32 bytes of a completion entry, PHASE and SQ_HEAD as of writing. -/
def Compl.bytes (e : Compl) (phase head now : Nat) : List Byte :=
  leBytes e.tag 4 ++ leBytes head 4 ++ leBytes e.opcode 1 ++ leBytes e.status 1 ++ leBytes (e.flags + phase) 1
    ++ leBytes 0 1 ++ leBytes e.info 4 ++ leBytes (e.tick.getD now) 8 ++ leBytes e.result 8

/-- Puts a completion entry into the ring and settles its interrupt (R363, R380). -/
def State.putCompletion (s : State) (x : Nat) (e : Compl) : State :=
  let c := s.ctx x
  let bs := e.bytes (c.cq.phase c.cqWritten) (s.sqHead x) s.now
  let s := s.writeSpace x c.cq.dev (c.cq.entryAddr c.cqWritten 32) bs
  let s := s.modCtx x fun c => { c with
    cqWritten := (c.cqWritten + 1) % 2 ^ 32
    modCnt := c.modCnt + 1
    modSince := if c.modCnt = 0 then s.ntu.elapsed else c.modSince }
  let s := if x = adminCtx then s else s.inc VF_CTX_CNT.COMPLETIONS x
  if !c.cq.dev && s.irqEn x && (e.notify || decide ((s.ctx x).modCnt ≥ max 1 (s.modCntCfg x))) then s.fireVector x else s

/-- Entries written and not yet consumed. -/
def cqUsed (c : Ctx) : Nat := (c.cqWritten + 2 ^ 32 - c.cqHead) % 2 ^ 32
def eqUsed (c : Ctx) : Nat := (c.eqWritten + 2 ^ 32 - c.eqHead) % 2 ^ 32

/-- Writes a completion entry, or lets it wait for ring space (R364). Nothing is written for a context that no longer
takes entries (R344, R360); an adopted role's entries wait for its binding (R76). -/
def State.writeCompletion (s : State) (x : Nat) (e : Compl) : State :=
  if (s.ctx x).adopting then s.modCtx x fun c => { c with held := c.held ++ [e] }
  else if s.ringLive x then
    let c := s.ctx x
    if c.held ≠ [] ∨ cqUsed c ≥ c.cq.entries then
      let s := s.modCtx x fun c => { c with held := c.held ++ [e] }
      if x = adminCtx then s else s.inc VF_CTX_CNT.CQ_WAITS x
    else s.putCompletion x e
  else s

/-- Completes the descriptor read at position `pos` of ring `x`. -/
def State.complete (s : State) (x pos : Nat) (e : Compl) : State :=
  (s.writeCompletion x e).modCtx x fun c => { c with open_ := c.open_.erase pos }

/-- Writes an event to the event ring of a context (R364, R379, R380). -/
def State.eventTo (s : State) (x code arg : Nat) (data : List Byte) : State :=
  if s.ringLive x then
    let c := s.ctx x
    if eqUsed c ≥ c.eq.entries then
      let s := s.modCtx x fun c => { c with overflow := true }
      if x = adminCtx then s else s.inc VF_CTX_CNT.EQ_DROPS x
    else
      let bs := leBytes code 2 ++ leBytes (c.eq.phase c.eqWritten + (if c.overflow then 2 else 0)) 1 ++ leBytes 0 1
        ++ leBytes arg 4 ++ leBytes s.now 8 ++ (data ++ List.replicate 16 0).take 16
      let s := s.writeSpace x c.eq.dev (c.eq.entryAddr c.eqWritten 32) bs
      let s := s.modCtx x fun c => { c with eqWritten := (c.eqWritten + 1) % 2 ^ 32, overflow := false }
      if s.irqEn x then s.fireVector x else s
  else s

/-- Contexts that exist, in rising order, the admin context last. -/
def State.ctxList (s : State) : List Nat := s.ctxs.map Prod.fst

/-- A device-wide event: to every OPEN or BOUND context and to the admin context (R379). -/
def State.eventAll (s : State) (code arg : Nat) (data : List Byte) : State :=
  s.ctxList.foldl (fun s x => s.eventTo x code arg data) s

/-- A trail event: to every OPEN or BOUND context owned by a partition of the group (R379). -/
def State.eventGroup (s : State) (mask code arg : Nat) (data : List Byte) : State :=
  (s.ctxList.filter fun x => x < adminCtx && maskBit mask (ctxPart x)).foldl (fun s x => s.eventTo x code arg data) s

end Sys2Proof.Machine
end

