-- ==== Sys2Proof/Config.lean ====
section
/-! DEFINITION. What the spec leaves open: constants without a body, so that no proof can see a value. Each is applied to
the state's count of free values drawn, or to the operands it depends on, and is named in a log entry. -/

namespace Sys2Proof

/-- A 32-bit value the spec does not state. -/
opaque Config.freeLane : Nat → Lane
/-- Lane 1 of VSTAT of integer lanes, of which the spec states no sum (R106): the same for the same lanes (R68). -/
opaque Config.statLane : VReg → Lane
/-- A choice among n things the spec does not order: taken modulo n where it is used. -/
opaque Config.freeChoice : Nat → Nat
/-- What the KEY_ID of the device areas' PTEs follows: they lie under the device key, which is in no key table (R261, R348),
and R262 rules out 0 only. -/
opaque Config.deviceKeyId : Nat
/-- A byte the spec does not state. -/
opaque Config.freeByte : Nat → Byte
/-- A 64-bit value the spec does not state. -/
opaque Config.freeWord : Nat → Word

end Sys2Proof
end

