-- ==== Sys2Proof/Machine/Kv.lean ====
section
/-! DEFINITION. The KV unit: layout words, pools, page descriptors and page tables, preparation, appending, commit and
discard of a sequence's entries (R199 to R212, R460). -/

namespace Sys2Proof.Machine

/-! ### The KV layout word (R199, R200) -/

def kvLayers (k : Nat) : Nat := bitsOf k 48 8 + 1
def kvHeads (k : Nat) : Nat := bitsOf k 43 5 + 1
def kvD (k : Nat) : Nat := 64 * 2 ^ bitsOf k 41 2
def kvFmt (k : Nat) : Nat := bitsOf k 37 4
def kvSf (k : Nat) : Nat := bitsOf k 35 2
def kvG (k : Nat) : Nat := 32 * 2 ^ bitsOf k 33 2
def kvRing (k : Nat) : Bool := bitsOf k 32 1 = 1
def kvRootOk (k : Nat) : Bool := bitsOf k 31 1 = 1
def kvWindow (k : Nat) : Nat := bitsOf k 0 22

/-- The KVL carries no reserved value and no combination that R199 does not allow. -/
def kvlOk (k : Nat) : Bool :=
  decide (bitsOf k 56 8 = 1) && decide (bitsOf k 41 2 ≠ 3) && decide (kvFmt k ∈ [0x1, 0x3, 0x4, 0x7, 0x8])
    && decide (kvSf k ≠ 3) && decide ((kvFmt k = 1) = (kvSf k = 2))
    && (decide (kvSf k = 2) || (decide (bitsOf k 33 2 ≠ 3) && decide (kvG k ≤ kvD k)))
    && decide (bitsOf k 22 9 = 0) && (if kvRing k then decide (kvWindow k ≠ 0) else decide (kvWindow k = 0))

/-- EB and SB of R200. -/
def kvEB (k : Nat) : Nat := 2 * kvHeads k * kvD k * elemBits (kvFmt k) / 8
def kvSB (k : Nat) : Nat := if kvSf k = 2 then 0 else 2 * kvHeads k * kvD k / kvG k

/-- Ring length R in slots of a layer (R212). -/
def kvR (k : Nat) : Nat := (kvWindow k + 255) / 256 + 1

/-- Rounds up to a multiple. -/
abbrev roundTo := roundUp

/-! ### Pool geometry (R460) -/

/-- EAF: bytes of an element area. -/
def kvEAF (k : Nat) : Nat := roundTo (256 * kvEB k) 65536

/-- SAP: the pitch of scale blocks. -/
def kvSAP (k : Nat) : Nat :=
  if kvSf k = 2 then 0 else
    let n := max 64 (256 * kvSB k)
    if 2 ^ Nat.log2 n = n then n else 2 ^ (Nat.log2 n + 1)

/-- Bytes that `n` page slots take. -/
def poolNeed (k n : Nat) : Nat := roundTo (32 * n) 65536 + n * kvEAF k + roundTo (n * kvSAP k) 65536

/-- NPAGES: the largest number of page slots that fit. The roundings take less than two further slots. -/
def poolPages (k bytes : Nat) : Nat :=
  let n := bytes / (32 + kvEAF k + kvSAP k)
  ((List.range 4).map (n - ·)).find? (fun m => poolNeed k m ≤ bytes) |>.getD 0

/-- E0 and S0 of R460. -/
def poolE0 (k bytes : Nat) : Nat := roundTo (32 * poolPages k bytes) 65536
def poolS0 (k bytes : Nat) : Nat := poolE0 k bytes + poolPages k bytes * kvEAF k

/-! ### Objects -/

/-- The live object of a handle (R266): bits [31:20] name the context. -/
def State.findObj (s : State) (h : Nat) : Option Obj := (s.ctx (h / 2 ^ 20)).objs.find? fun o => o.handle = h

/-- The pages of an object in its context's page table: page number and entry. -/
def State.objPages (s : State) (x : Nat) (o : Obj) : List (Nat × Pte) :=
  (s.ctx x).pages.filter fun e => o.ova / 65536 ≤ e.1 ∧ e.1 < (o.ova + o.bytes) / 65536

/-- The 64 KiB frames of an object in OVA order. -/
def State.objFrames (s : State) (x : Nat) (o : Obj) : List Nat :=
  (s.objPages x o).flatMap fun e => if e.2.big then List.range' e.2.frame 32 else [e.2.frame]

/-- Bytes of an object, as its context's pages give them. -/
def State.objBytes (s : State) (h ofs n : Nat) : List Byte :=
  match s.findObj h with
  | some o => (s.readOva (h / 2 ^ 20) (o.ova + ofs) n).getD (List.replicate n 0)
  | none => List.replicate n 0

/-- The KV unit, or an engine that moves whole objects, writes bytes of an object. -/
def State.objWrite (s : State) (h ofs : Nat) (bs : List Byte) : State :=
  match s.findObj h with
  | some o => s.kvWrite (h / 2 ^ 20) (o.ova + ofs) bs
  | none => s

/-- Copies bytes of an object to another place in it; what was poisoned stays so (R310, R417). -/
def State.objCopy (s : State) (h dst src n : Nat) : State :=
  match s.findObj h with
  | some o =>
    let x := h / 2 ^ 20
    (s.ovaBad x (o.ova + src) n).foldl (fun t q => t.ovaPoison x (o.ova + dst + q.1) q.2)
      (s.objWrite h dst (s.objBytes h src n))
  | none => s

/-- KVL and BYTES of a pool. -/
def State.poolKvl (s : State) (h : Nat) : Nat := match s.findObj h with | some o => o.kvl | none => 0
def State.poolBytes (s : State) (h : Nat) : Nat := match s.findObj h with | some o => o.bytes | none => 0

/-- Object offset of a page slot's element area and of its scale block. -/
def State.elemOfs (s : State) (h i : Nat) : Nat :=
  poolE0 (s.poolKvl h) (s.poolBytes h) + i * kvEAF (s.poolKvl h)
def State.scaleOfs (s : State) (h i : Nat) : Nat :=
  poolS0 (s.poolKvl h) (s.poolBytes h) + i * kvSAP (s.poolKvl h)

/-- DPA of an object offset. -/
def State.objDpa (s : State) (h ofs : Nat) : Nat :=
  match s.findObj h with
  | some o => (s.pte (h / 2 ^ 20) (o.ova + ofs)).dpa (o.ova + ofs)
  | none => 0

/-! ### Page descriptors (R202) -/

structure PageDesc where
  base : Nat := 0
  scale : Nat := 0
  layer : Nat := 0
  flags : Nat := 0
  ref : Nat := 0
  written : Nat := 0
  committed : Nat := 0
  fmt : Nat := 0
  fver : Nat := 0
  first : Nat := 0
deriving DecidableEq, Repr

/-- SHARED is 1 while REFCNT exceeds 1. -/
def PageDesc.bytes (d : PageDesc) : List Byte :=
  leBytes d.base 8 ++ leBytes d.scale 8 ++ leBytes d.layer 1
    ++ leBytes (d.flags - (if maskBit d.flags 1 then 2 else 0) + (if d.ref > 1 then 2 else 0)) 1
    ++ leBytes d.ref 2 ++ leBytes d.written 2 ++ leBytes d.committed 2 ++ leBytes d.fmt 1 ++ leBytes d.fver 1
    ++ leBytes 0 2 ++ leBytes d.first 4

def PageDesc.ofBytes (b : List Byte) : PageDesc :=
  let g := fun o n => leNat ((b.drop o).take n)
  { base := g 0 8, scale := g 8 8, layer := g 16 1, flags := g 17 1, ref := g 18 2, written := g 20 2,
    committed := g 22 2, fmt := g 24 1, fver := g 25 1, first := g 28 4 }

def State.page (s : State) (h i : Nat) : PageDesc := PageDesc.ofBytes (s.objBytes h (32 * i) 32)
def State.setPage (s : State) (h i : Nat) (d : PageDesc) : State := s.objWrite h (32 * i) d.bytes

/-! ### Free lists and page slots -/

/-- Bank pair of the frame at a stack offset (R312). -/
def bankPair (f : Nat) : Nat := (f / 65536 % 64 ^^^ f / 4194304 % 64) / 2

/-- The congruence key of a page slot: bank pairs of its frames and place of its scale block (R312). -/
def State.slotKey (s : State) (h i : Nat) : List Nat :=
  let k := s.poolKvl h
  let e := s.elemOfs h i
  let sc := s.scaleOfs h i
  ((List.range (kvEAF k / 65536)).map fun j => bankPair (s.objDpa h (e + j * 65536) % 2 ^ 36))
    ++ (if kvSf k = 2 then [] else [bankPair (s.objDpa h sc % 2 ^ 36), sc % 65536])

def State.free (s : State) (h : Nat) : Ranges := s.poolFree.get [] h
def State.setFree (s : State) (h : Nat) (r : Ranges) : State := { s with poolFree := s.poolFree.set [] h r }

/-- A page slot taken from the free lists: which one is not stated, so any. -/
def State.takeSlot (s : State) (h : Nat) : Option Nat × State :=
  let r := s.free h
  if r.count = 0 then (none, s)
  else
    let (k, s) := s.draw
    match r.nth (Config.freeChoice k % r.count) with
    | some i => (some i, s.setFree h (r.remove i 1))
    | none => (none, s)

/-- A free page slot with the congruence key of slot `src`, if there is one. -/
def State.takeCongruent (s : State) (h src : Nat) : Option Nat × State :=
  let r := s.free h
  let key := s.slotKey h src
  let l := (r.flatMap fun e => List.range' e.1 e.2).filter fun i => s.slotKey h i = key
  if l = [] then (none, s)
  else
    let (k, s) := s.draw
    match l[Config.freeChoice k % l.length]? with
    | some i => (some i, s.setFree h (r.remove i 1))
    | none => (none, s)

/-- Key of a page slot of a pool in the lists of what a snapshot holds. -/
def heldKey (h i : Nat) : Nat := h * 2 ^ 32 + i

/-- A snapshot whose copy has not ended holds the page slot. -/
def State.holds (s : State) (h i : Nat) : Bool := s.snaps.any fun (e : Nat × List Snap) => e.2.any fun g => heldKey h i ∈ g.held

/-- The Root tiles that a range of an object lies in are unmapped (R227). -/
def State.unmapTiles (s : State) (h ofs n : Nat) : State :=
  match s.findObj h with
  | none => s
  | some o =>
    (List.range' ((o.ova + ofs) / 65536) (n / 65536)).foldl (fun s pg =>
      let e := s.pte (h / 2 ^ 20) (pg * 65536)
      if e.present && e.tier = .root then (s.setPte (h / 2 ^ 20) pg {}).freeDpaFrame e.frame else s) s

/-- Clears a page slot and returns it to its free list; its descriptor reads 0 (R201). A Root page is unmapped instead, and
its tiles read as zero (R227): DESIGN CHOICE (log 86): a slot that has so lost its frames enters no free list again. A page
that a snapshot holds waits for the copy's end (R422). -/
def State.freeSlot (s : State) (h i : Nat) : State :=
  if s.holds h i then { s with snapFree := s.snapFree ++ [heldKey h i] }
  else
    let k := s.poolKvl h
    let root := maskBit (s.page h i).flags 2
    let s := if root then s.unmapTiles h (s.elemOfs h i) (kvEAF k)
      else s.objWrite h (s.elemOfs h i) (List.replicate (256 * kvEB k) 0)
    let s := s.objWrite h (s.scaleOfs h i) (List.replicate (256 * kvSB k) 0)
    let s := s.objWrite h (32 * i) (List.replicate 32 0)
    if root then s else s.setFree h ((s.free h).add i 1)

/-- A snapshot's copy has ended: the pages it held and that are no longer in use are freed (R422). -/
def State.releaseHeld (s : State) : State :=
  let l := s.snapFree
  l.foldl (fun s k => s.freeSlot (k / 2 ^ 32) (k % 2 ^ 32)) { s with snapFree := [] }

/-! ### Sequences and page tables (R203) -/

def State.seq (s : State) (q : Nat) : SeqEnt := s.seqs.get {} q
def State.setSeq (s : State) (q : Nat) (e : SeqEnt) : State := { s with seqs := s.seqs.set {} q e }
def State.modSeq (s : State) (q : Nat) (f : SeqEnt → SeqEnt) : State := s.setSeq q (f (s.seq q))

/-- Partition of a sequence handle. -/
def seqPart (q : Nat) : Nat := q / 16384

/-- The handle names a live sequence. -/
def State.seqLive (s : State) (q : Nat) : Bool := (s.seq q).state ≠ .closed

/-- NSLOT of a sequence (R203). -/
def SeqEnt.nslot (e : SeqEnt) : Nat := if kvRing e.kvl then kvR e.kvl else (e.cap + 255) / 256

/-- Page-table index of layer `l` and page `k` (positions 256 k to 256 k + 255). -/
def SeqEnt.tidx (e : SeqEnt) (l k : Nat) : Nat :=
  l * e.nslot + (if kvRing e.kvl then k % kvR e.kvl else k)

def noPage : Nat := 0xFFFFFFFF

/-- Object offset of a page-table entry: tables lie in the element areas of `tslots`, in order (R460). -/
def State.tblOfs (s : State) (e : SeqEnt) (idx : Nat) : Nat :=
  let per := 256 * kvEB e.kvl
  s.elemOfs e.pool (e.tslots.getD (idx * 4 / per) 0) + idx * 4 % per

def State.tblGet (s : State) (e : SeqEnt) (idx : Nat) : Nat := leNat (s.objBytes e.pool (s.tblOfs e idx) 4)
def State.tblSet (s : State) (e : SeqEnt) (idx v : Nat) : State :=
  s.objWrite e.pool (s.tblOfs e idx) (leBytes v 4)

/-- The page slot of layer `l`, page `k`, if there is one. -/
def State.pageOf (s : State) (e : SeqEnt) (l k : Nat) : Option Nat :=
  let v := s.tblGet e (e.tidx l k)
  if v = noPage then none else some v

/-- Bytes of the table of a sequence and the page slots it takes (R460). -/
def SeqEnt.tblBytes (e : SeqEnt) : Nat := kvLayers e.kvl * e.nslot * 4
def SeqEnt.tblSlots (e : SeqEnt) : Nat := (e.tblBytes + 256 * kvEB e.kvl - 1) / (256 * kvEB e.kvl)

/-- One reference less to a page; at none it is cleared and freed (R201). -/
def State.dropPage (s : State) (h i : Nat) : State :=
  let d := s.page h i
  if d.ref ≤ 1 then s.freeSlot h i else s.setPage h i { d with ref := d.ref - 1 }

/-- All pages of a sequence are released and its table freed: SEQ_CLOSE takes effect (R211). -/
def State.releaseSeq (s : State) (q : Nat) : State :=
  let e := s.seq q
  let s := (List.range (kvLayers e.kvl * e.nslot)).foldl (fun s idx =>
    let v := s.tblGet e idx
    if v = noPage then s else s.dropPage e.pool v) s
  let s := e.tslots.foldl (fun s i => s.freeSlot e.pool i) s
  s.setSeq q { exporting := e.exporting.filter (·.ready) }

/-! ### The record of an admitted step -/

def SeqRec.le (r : SeqRec) (ofs n : Nat) : Nat := leNat ((r.bytes.drop ofs).take n)
def SeqRec.seq (r : SeqRec) : Nat := r.le 0 4 % 2 ^ 18
def SeqRec.n (r : SeqRec) : Nat := r.le 4 1 % 64 + 1
def SeqRec.parent (r : SeqRec) (j : Nat) : Nat := r.le (0x80 + 8 * j + 3) 1
def SeqRec.token (r : SeqRec) (j : Nat) : Nat := if j = 0 then r.tok0 else r.le (0x80 + 8 * j) 3
def SeqRec.q (r : SeqRec) (j : Nat) : BitVec 32 := BitVec.ofNat 32 (r.le (0x80 + 8 * j + 4) 4)

/-- depth(j) and A_j for every node (R233, R235), from the parents. -/
def SeqRec.tree (r : SeqRec) : List (Nat × Nat) :=
  (List.range r.n).foldl (fun acc j =>
    acc ++ [if j = 0 then (0, 1) else
      let p := acc.getD (r.parent j) (0, 0)
      (p.1 + 1, p.2 ||| 2 ^ j)]) []
def SeqRec.depth (r : SeqRec) (j : Nat) : Nat := (r.tree.getD j (0, 0)).1
def SeqRec.anc (r : SeqRec) (j : Nat) : Nat := (r.tree.getD j (0, 0)).2

/-- The admitted and uncommitted step of a sequence, with its record (R211). -/
def State.stepOf (s : State) (q : Nat) : Option (StepRec × SeqRec) :=
  (s.stepsOf (seqPart q)).findSome? fun st =>
    (st.recs.find? fun r => r.seq = q ∧ !r.committed).map fun r => (st, r)

/-- A step of the sequence is admitted and not completed (R211). -/
def State.seqBusy (s : State) (q : Nat) : Bool :=
  (s.stepsOf (seqPart q) ++ s.replays.get [] (seqPart q)).any fun st => st.recs.any fun r => r.seq = q

/-- Changes the record of sequence `q` in the steps of its partition. -/
def State.modRec (s : State) (q : Nat) (f : SeqRec → SeqRec) : State :=
  s.setSteps (seqPart q) ((s.stepsOf (seqPart q)).map fun st =>
    { st with recs := st.recs.map fun r => if r.seq = q then f r else r })

/-! ### Preparation (R207, R208, R212) -/

/-- FORMAT byte of a page (R202). -/
def kvFormat (k : Nat) : Nat := kvFmt k + 16 * kvSf k + 64 * bitsOf k 33 2

/-- A fresh page of layer `l` for page `k` of a sequence, put in its table. -/
def State.newPage (s : State) (q l k flags : Nat) : Option Nat × State :=
  let e := s.seq q
  let (i, s) := s.takeSlot e.pool
  match i with
  | none => (none, s)
  | some i =>
    let s := s.setPage e.pool i
      { base := s.objDpa e.pool (s.elemOfs e.pool i)
        scale := if kvSf e.kvl = 2 then 0 else s.objDpa e.pool (s.scaleOfs e.pool i)
        layer := l, flags := flags + (if kvRing e.kvl then 1 else 0), ref := 1, fmt := kvFormat e.kvl
        fver := bitsOf e.kvl 56 8, first := 256 * k }
    (some i, s.tblSet e (e.tidx l k) i)

/-- Copies `n` entries of page slot `src`, from entry `a`, to entry `b` on of page slot `dst`, elements and scales. -/
def State.copyEntries (s : State) (h src a dst b n : Nat) : State :=
  let eb := kvEB (s.poolKvl h)
  let sb := kvSB (s.poolKvl h)
  (s.objCopy h (s.elemOfs h dst + b * eb) (s.elemOfs h src + a * eb) (n * eb)).objCopy h (s.scaleOfs h dst + b * sb)
    (s.scaleOfs h src + a * sb) (n * sb)

/-- The shared tail page `i` of layer `l` is copied before it is written; COW_BUSY is 1 while the copy runs (R208). -/
def State.copyTail (s : State) (q l i : Nat) : State :=
  let e := s.seq q
  let p := seqPart q
  let m := e.len % 256
  let d := s.page e.pool i
  let (j, s) := s.takeCongruent e.pool i
  let (j, s) := match j with
    | some j => (some j, s.inc PRT_KV_COW.COW_CLASP p)
    | none =>
      let (j, s) := s.takeSlot e.pool
      (j, s.inc PRT_KV_COW.COW_MOVER p)
  match j with
  | none => s
  | some j =>
    let new : PageDesc := { d with base := s.objDpa e.pool (s.elemOfs e.pool j)
                                   scale := if kvSf e.kvl = 2 then 0 else s.objDpa e.pool (s.scaleOfs e.pool j)
                                   flags := d.flags % 2, ref := 1, committed := m, written := m }
    let s := s.setPage e.pool j { new with flags := new.flags + 8 }
    let s := s.copyEntries e.pool i 0 j 0 m
    let s := s.setPage e.pool j new
    let s := s.tblSet e (e.tidx l (e.len / 256)) j
    s.setPage e.pool i { d with ref := d.ref - 1 }

/-- A ring page that a snapshot holds is first copied into a pair-congruent free page, which the snapshot then holds in
its place (R422). -/
def State.copyHeld (s : State) (h i : Nat) : State :=
  if s.holds h i then
    match s.takeCongruent h i with
    | (some j, s) =>
      let s := s.copyEntries h i 0 j 0 256
      { s with snaps := s.snaps.map fun (e : Nat × List Snap) => (e.1, e.2.map fun g =>
                 { g with held := g.held.map fun k => if k = heldKey h i then heldKey h j else k })
               snapFree := s.snapFree ++ [heldKey h j] }
    | (none, s) => s
  else s

/-- Pages of a ring sequence that a step of `n` nodes turns to a new round while a snapshot holds them, and whose copy
finds no pair-congruent page: the preparation waits (R422). -/
def State.ringWaits (s : State) (q n : Nat) : Bool :=
  let e := s.seq q
  kvRing e.kvl && (List.range (kvLayers e.kvl)).any fun l =>
    (List.range' (e.len / 256) ((e.len + n - 1) / 256 + 1 - e.len / 256)).any fun k =>
      match s.pageOf e l k with
      | some i => s.holds e.pool i && decide ((s.page e.pool i).first ≠ 256 * k)
          && (s.takeCongruent e.pool i).1.isNone
      | none => false

/-- Preparation of page `k` of layer `l` for a step of `n` nodes. -/
def State.preparePage (s : State) (q n l k : Nat) : State :=
  let e := s.seq q
  let (s, i) := match s.pageOf e l k with
    | none => let r := s.newPage q l k 0; (r.2, r.1)
    | some i =>
      if k = e.len / 256 ∧ e.len % 256 ≠ 0 ∧ (s.page e.pool i).ref > 1 then
        let s := s.copyTail q l i
        (s, s.pageOf e l k)
      else (if (s.page e.pool i).first ≠ 256 * k then s.copyHeld e.pool i else s, some i)
  match i with
  | none => s
  | some i =>
    let d := s.page e.pool i
    let s := if kvRing e.kvl then s.modSeq q fun e => { e with saved := e.saved ++ [(i, d.first, d.committed, d.written)] } else s
    s.setPage e.pool i { d with first := 256 * k, committed := e.len - 256 * k
                                written := min 256 (e.len + n - 256 * k) }

/-- Preparation of a sequence whose step has `n` nodes, layers in ascending order (R207). -/
def State.prepareSeq (s : State) (q n : Nat) : State :=
  let e := s.seq q
  let s := s.setSeq q { e with wrote := [], saved := [] }
  (List.range (kvLayers e.kvl)).foldl (fun s l =>
    (List.range' (e.len / 256) ((e.len + n - 1) / 256 + 1 - e.len / 256)).foldl (fun s k => s.preparePage q n l k) s) s

/-- Pages a step of `n` nodes needs for a sequence, copies included (R207). -/
def State.pagesNeeded (s : State) (q n : Nat) : Nat :=
  let e := s.seq q
  ((List.range (kvLayers e.kvl)).map fun l =>
    ((List.range' (e.len / 256) ((e.len + n - 1) / 256 + 1 - e.len / 256)).filter fun k =>
      match s.pageOf e l k with
      | none => true
      | some i => decide (k = e.len / 256 ∧ e.len % 256 ≠ 0 ∧ (s.page e.pool i).ref > 1)).length).sum

/-- Discards the tentative entries of a sequence whose step has `n` nodes (R210). -/
def State.discardSeq (s : State) (q n : Nat) : State :=
  let e := s.seq q
  let s := if kvRing e.kvl then
      e.saved.foldl (fun s (i, f, c, w) =>
        s.setPage e.pool i { s.page e.pool i with first := f, committed := c, written := w }) s
    else
      (List.range (kvLayers e.kvl)).foldl (fun s l =>
        (List.range' (e.len / 256) ((e.len + n - 1) / 256 + 1 - e.len / 256)).foldl (fun s k =>
          match s.pageOf e l k with
          | none => s
          | some i =>
            if 256 * k ≥ e.len then (s.dropPage e.pool i).tblSet e (e.tidx l k) noPage
            else
              let d := s.page e.pool i
              s.setPage e.pool i { d with written := d.committed }) s) s
  s.modSeq q fun e => { e with wrote := [], saved := [] }

/-- Discards the entries of every prepared and uncommitted sequence of a step. -/
def State.discardStep (s : State) (st : StepRec) : State :=
  st.recs.foldl (fun s r => if r.prepared ∧ !r.committed then s.discardSeq r.seq r.n else s) s

/-! ### Appending (R205) -/

/-- Length of an element chunk (R205). -/
def chunkBytes (k chunk : Nat) : Nat := min (kvEB k) (2048 * (chunk + 1)) - 2048 * chunk

/-- What a KV append entry meets: it is refused, it waits for preparation, or it is written. -/
inductive Append where
  | refused | waits
  | done (s : State)

/-- One row of a TSCAT that a KV append entry names (R205). -/
def State.append (s : State) (ctx entry : Nat) (row : List Byte) : Append :=
  let part := bitsOf entry 62 1
  let node := bitsOf entry 56 6
  let chunk := bitsOf entry 52 4
  let layer := bitsOf entry 44 8
  let q := bitsOf entry 26 18
  let e := s.seq q
  let key := ((layer * 64 + node) * 2 + part) * 16 + chunk
  match s.stepOf q with
  | none => .refused
  | some (_, r) =>
    let chunks := (kvEB e.kvl + 2047) / 2048
    if e.state = .closed ∨ e.ctx ≠ ctx ∨ entry % 2 ^ 26 ≠ 0 ∨ layer ≥ kvLayers e.kvl ∨ node ≥ r.n
        ∨ (part = 1 ∧ kvSf e.kvl = 2) ∨ (part = 0 ∧ chunk ≥ chunks) ∨ (part = 1 ∧ chunk ≠ 0)
        ∨ row.length ≠ (if part = 0 then chunkBytes e.kvl chunk else roundTo (kvSB e.kvl) 64)
        ∨ key ∈ e.wrote then .refused
    else if !r.prepared then .waits
    else
      let pos := e.len + node
      match s.pageOf e layer (pos / 256) with
      | none => .waits
      | some i =>
        let s := if part = 0 then
            s.objWrite e.pool (s.elemOfs e.pool i + pos % 256 * kvEB e.kvl + 2048 * chunk) row
          else s.objWrite e.pool (s.scaleOfs e.pool i + pos % 256 * kvSB e.kvl) (row.take (kvSB e.kvl))
        .done (s.setSeq q { e with wrote := key :: e.wrote })

/-- The tentative slot of node `i` in a layer is complete (R206). -/
def SeqEnt.slotComplete (e : SeqEnt) (layer i : Nat) : Bool :=
  ((List.range ((kvEB e.kvl + 2047) / 2048)).all fun c => e.wrote.contains (((layer * 64 + i) * 2) * 16 + c))
    && (decide (kvSf e.kvl = 2) || e.wrote.contains (((layer * 64 + i) * 2 + 1) * 16))

/-! ### Commit (R209) -/

/-- Applies a commit list to a sequence whose step has `n` nodes: entries move, LEN grows, counts and free lists follow. -/
def State.commitSeq (s : State) (q n : Nat) (path : List Nat) : State :=
  let e := s.seq q
  let len := e.len + path.length
  let s := (List.range (kvLayers e.kvl)).foldl (fun s l =>
    let s := (path.mapIdx fun i c => (i, c)).foldl (fun s ic =>
      if ic.2 = ic.1 then s else
        let a := e.len + ic.2
        let b := e.len + ic.1
        match s.pageOf e l (a / 256), s.pageOf e l (b / 256) with
        | some i, some j => s.copyEntries e.pool i (a % 256) j (b % 256) 1
        | _, _ => s) s
    (List.range' (e.len / 256) ((e.len + n - 1) / 256 + 1 - e.len / 256)).foldl (fun s k =>
      match s.pageOf e l k with
      | none => s
      | some i =>
        if 256 * k ≥ len ∧ !kvRing e.kvl then (s.dropPage e.pool i).tblSet e (e.tidx l k) noPage
        else s.setPage e.pool i { s.page e.pool i with committed := min 256 (len - 256 * k), written := min 256 (len - 256 * k) }) s) s
  s.setSeq q { e with len := len, wrote := [], saved := [] }

end Sys2Proof.Machine
end

