-- ==== Sys2Proof/Machine/Steps.lean ====
section
/-! DEFINITION. How a step ends: its result records and completion entry, the discard of its tentative entries, and the
sequence closes and exports that wait for it (R61, R210, R211, R228, R230, R373, R377). -/

namespace Sys2Proof.Machine

/-- The 96-byte result record of a sequence (R373): `acc` is the 128-byte ACCEPT result of a released sequence. -/
def State.resultRec (s : State) (q sstatus : Nat) (acc : Option (List Byte)) : List Byte :=
  let at' := fun ofs n => match acc with
    | some a => (a.drop ofs).take n
    | none => if ofs = 8 then List.replicate n (0xFF : Byte) else List.replicate n 0
  leBytes q 4 ++ leBytes sstatus 1 ++ at' 4 1 ++ at' 5 1 ++ ((at' 0 1).map fun b => b &&& 15)
    ++ leBytes (s.seqs.get {} q).len 4 ++ leBytes 0 4 ++ at' 8 16 ++ at' 24 64

/-- Writes the result record of record `i` of a step (R373). -/
def State.writeResult (s : State) (r : StepRec) (i q sstatus : Nat) (acc : Option (List Byte)) : State :=
  s.writeSpace r.ctx (maskBit r.aspace 1) (r.resAddr + 96 * i) (s.resultRec q sstatus acc)

/-- UNORDERED and REPLAYED (R377). -/
def StepRec.flags (r : StepRec) : Nat := (if r.unordered then 2 else 0) + (if r.replayed then 4 else 0)

/-- A step ends without releasing a token (R373, R374, R377): result records only of the sequences at fault, those with a
status; `at_` is the index of the first of them. -/
def State.stepRefused (s : State) (r : StepRec) (status at_ : Nat) : State :=
  let s := if r.adapter then s else
    (r.recs.mapIdx fun i e => (i, e)).foldl (fun s e =>
      if e.2.sstatus = 0 then s else s.writeResult r e.1 e.2.seq e.2.sstatus none) s
  s.complete r.ctx r.id { tag := r.tag, opcode := if r.adapter then 0x10 else 0x01, status := status, flags := r.flags,
                          info := if r.adapter then 0 else r.nseq % 65536 + at_ % 65536 * 65536, notify := r.notify }

/-- A step of which every sequence has committed completes OK (R25, R373, R377); an ADAPTER_STEP at tick `tick` (R374). -/
def State.stepDone (s : State) (r : StepRec) (tick : Nat) : State :=
  let s := if r.adapter then s else
    (r.recs.mapIdx fun i e => (i, e)).foldl (fun s e => s.writeResult r e.1 e.2.seq 0 e.2.accepted) s
  let tokens := (r.recs.map fun e => match e.accepted with | some a => leNat ((a.drop 5).take 1) | none => 0).sum
  s.complete r.ctx r.id { tag := r.tag, opcode := if r.adapter then 0x10 else 0x01, status := 0, flags := r.flags,
                          info := if r.adapter then 0 else r.nseq % 65536 * 65537, tick := some tick,
                          result := if r.adapter then 0 else tokens, notify := r.notify }

/-- Completes a descriptor that was held. -/
def State.completeLater (s : State) (l : Later) (status info result : Nat) : State :=
  s.complete l.ring l.pos { tag := l.tag, opcode := l.opcode, status := status, info := info, result := result, notify := l.notify }

/-! ### The records of a step (R232) -/

/-- Indices of the records for which `f` holds. -/
def badRecs (l : List SeqRec) (f : SeqRec → Bool) : List Nat :=
  ((l.mapIdx fun i e => (i, e)).filter fun e => f e.2).map Prod.fst

/-- Records of a step: those retained, or the ones in its buffer (R232). -/
def State.recsOf (s : State) (r : StepRec) : Option (List SeqRec) :=
  if r.recs ≠ [] then some r.recs
  else (s.readSpace r.ctx (maskBit r.aspace 0) r.recAddr (640 * r.nseq)).map fun bs =>
    (List.range r.nseq).map fun i => { bytes := (bs.drop (640 * i)).take 640 }

/-- Completes a step refused at admission, with the records at fault marked. -/
def State.refuseStep (s : State) (r : StepRec) (recs : List SeqRec) (status at_ : Nat) (bad : List Nat) : State :=
  s.stepRefused { r with recs := recs.mapIdx fun i e => if i ∈ bad then { e with sstatus := status } else e } status at_

/-! ### Exports (R228, R230) -/

/-- PAGE_STRIDE (R228). -/
def xferStride (k : Nat) : Nat := roundTo (256 * kvEB k + 256 * kvSB k) 64
def xferMagic : Nat := 0x4B565047

/-- One step of CRC-32C (Castagnoli) over a byte, reflected. -/
def crcByte (c : Nat) (b : Byte) : Nat :=
  (List.range 8).foldl (fun c _ => if c % 2 = 1 then c / 2 ^^^ 0x82F63B78 else c / 2) (c ^^^ b.toNat)

/-- CRC-32C of bytes. -/
def crc32c (bs : List Byte) : Nat := bs.foldl crcByte 0xFFFFFFFF ^^^ 0xFFFFFFFF

/-- Bytes of an object with zeros in place of poisoned ones (R417). -/
def State.cleanBytes (s : State) (h ofs n : Nat) : List Byte :=
  match s.findObj h with
  | some o =>
    (s.ovaBad (h / 2 ^ 20) (o.ova + ofs) n).foldl (fun bs q => bs.take q.1 ++ List.replicate q.2 0 ++ bs.drop (q.1 + q.2)) (s.objBytes h ofs n)
  | none => List.replicate n 0

/-- Entries `a` to `b - 1` of page `pg` of a sequence that its slot `i` still holds: all of the page's own round; of the
round before the one that the slot's page has turned to, those at and after its last reserved entry (R212, R230). -/
def State.standing (s : State) (e : SeqEnt) (i pg : Nat) : Nat × Nat :=
  let d := s.page e.pool i
  let n := min 256 (e.len - 256 * pg)
  if d.first = 256 * pg then (0, n)
  else if kvRing e.kvl ∧ d.first = 256 * (pg + kvR e.kvl) then (min n d.written, n)
  else (0, 0)

/-- The bytes of an export of a sequence as it stands (R228, R230). -/
def State.exportBytes (s : State) (q : Nat) : List Byte :=
  let e := s.seq q
  let k := e.kvl
  let np := (e.len + 255) / 256
  let body := (List.range (kvLayers k)).flatMap fun l =>
    (List.range np).flatMap fun pg =>
      let rec_ := match s.pageOf e l pg with
        | none => []
        | some i =>
          let r := s.standing e i pg
          let part := fun ofs sz => List.replicate (r.1 * sz) (0 : Byte) ++ s.cleanBytes e.pool (ofs + r.1 * sz) ((r.2 - r.1) * sz)
            ++ List.replicate ((256 - r.2) * sz) 0
          part (s.elemOfs e.pool i) (kvEB k) ++ part (s.scaleOfs e.pool i) (kvSB k)
      (rec_ ++ List.replicate (xferStride k) 0).take (xferStride k)
  leBytes xferMagic 4 ++ leBytes e.len 4 ++ leBytes k 8 ++ leBytes (xferStride k) 8 ++ leBytes (crc32c body) 4
    ++ List.replicate 36 0 ++ body

/-- Bytes an export of a sequence must write (R230). -/
def SeqEnt.exportNeed (e : SeqEnt) : Nat := 64 + kvLayers e.kvl * ((e.len + 255) / 256) * xferStride e.kvl

/-- The exports of a sequence that wait for a boundary take its committed entries now (R230). -/
def State.captureExports (s : State) (q : Nat) : State :=
  let e := s.seq q
  if e.exporting.all (·.ready) then s
  else
    let bs := s.exportBytes q
    let short := e.exporting.filter fun x => !x.ready && decide (x.bytes < bs.length)
    let s := s.setSeq q { e with exporting := (e.exporting.filter fun x => x.ready || decide (bs.length ≤ x.bytes)).map fun x =>
      if x.ready then x else { x with ready := true, data := bs } }
    short.foldl (fun s x => (s.inc PRT_KV_XFER.XFER_REJ (seqPart q)).completeLater x.done 0x12 0 0) s

/-! ### Closes (R211) -/

/-- The steps that wait for admission and name the sequence, which has closed, complete STATE (R211). -/
def State.refuseWaiting (s : State) (x q : Nat) : State :=
  let p := seqPart q
  let bad := fun r : StepRec => if r.ctx = x then badRecs ((s.recsOf r).getD []) (fun e => e.seq = q) else []
  let all := s.waiting.get [] p
  (all.filter fun r => bad r ≠ []).foldl (fun t r => t.refuseStep r ((s.recsOf r).getD []) 0x03 ((bad r).headD 0) (bad r))
    { s with waiting := s.waiting.set [] p (all.filter fun r => bad r = []) }

/-- A SEQ_CLOSE takes effect if no step of the sequence is admitted (R211): exports that wait take what is committed, the
sequence is released, and the waiting steps that name it complete. -/
def State.applyClose (s : State) (q : Nat) : State :=
  match (s.seq q).closing with
  | some l =>
    if s.seqBusy q ∨ (s.seq q).state = .importing then s
    else (((s.captureExports q).releaseSeq q).refuseWaiting (s.seq q).ctx q).completeLater l 0 0 0
  | none => s

/-- The SEQ_CLOSEs of a partition that can take effect now (R211). -/
def State.applyCloses (s : State) (p : Nat) : State :=
  ((s.seqs.map Prod.fst).filter fun q => seqPart q = p).foldl State.applyClose s

/-- Ends every step of partition `p` that has not committed, waiting ones too if `all` (R61, R210, R406). -/
def State.endSteps (s : State) (p status : Nat) (all : Bool) : State :=
  let live := s.stepsOf p
  let s := live.foldl (fun s r => s.discardStep r) s
  let ends := live ++ s.replays.get [] p ++ (if all then s.waiting.get [] p else [])
  let s := { s with steps := s.steps.set [] p [], replays := s.replays.set [] p [] }
  let s := if all then { s with waiting := s.waiting.set [] p [] } else s
  (ends.foldl (fun s r => s.stepRefused r status 0) s).applyCloses p

end Sys2Proof.Machine
end

