-- ==== Sys2Proof/Machine/Transport.lean ====
section
/-! DEFINITION. Sending frames to other devices: routes, credits, sequence numbers, span queue pairs (R386 to R392,
R394). -/

namespace Sys2Proof.Machine

/-- Link states (R384). -/
def lkDisabled : Nat := 0
def lkDetect : Nat := 1
def lkTrain : Nat := 2
def lkConfig : Nat := 3
def lkActive : Nat := 4
def lkRetrain : Nat := 5
def lkFailed : Nat := 6
def lkCableErr : Nat := 7
def lkIncompat : Nat := 8

def State.link (s : State) (l : Nat) : Link := s.links.get {} l
def State.setLink (s : State) (l : Nat) (x : Link) : State := { s with links := s.links.set {} l x }
def State.modLink (s : State) (l : Nat) (f : Link → Link) : State := s.setLink l (f (s.link l))
def State.qp (s : State) (q : Nat) : Qp := s.qps.get {} q
def State.modQp (s : State) (q : Nat) (f : Qp → Qp) : State := { s with qps := s.qps.set {} q (f (s.qp q)) }

/-- Payload units of a frame (R387). -/
def TxFrame.units (f : TxFrame) : Nat := (f.payload.length + 63) / 64

/-- Credits a frame takes: its payload units, at least one. -/
def TxFrame.cost (f : TxFrame) : Nat := max 1 f.units

/-- Sends the frames of a link that hold credits, each channel in order (R388), with their sequence numbers (R386). -/
def State.pumpLink (s : State) (l : Nat) : List TxFrame → List Nat → State
  | [], _ => s
  | f :: fs, stuck =>
    let x := s.link l
    let c := x.credits.getD f.vc 0
    if s.fld ZXL_LNK_STATUS.STATE l ≠ lkActive ∨ f.vc ∈ stuck ∨ c < f.cost then
      (s.modLink l fun x => { x with waiting := x.waiting ++ [f] }).pumpLink l fs (f.vc :: stuck)
    else
      let f := { f with seq := x.txSeq }
      ((s.setLink l { x with credits := listSet x.credits f.vc (c - f.cost), txSeq := (x.txSeq + 1) % 4096,
                             unacked := x.unacked ++ [f] }).send (.frame l f)).pumpLink l fs stuck

/-- Sends what a link can send now. -/
def State.flushLink (s : State) (l : Nat) : State :=
  let w := (s.link l).waiting
  (s.modLink l fun x => { x with waiting := [] }).pumpLink l w []

/-- Queues a frame on a link behind earlier ones. -/
def State.sendLink (s : State) (l : Nat) (f : TxFrame) : State :=
  (s.modLink l fun x => { x with waiting := x.waiting ++ [f] }).flushLink l

/-- This device's SDID. -/
def State.sdid (s : State) : Nat := s.fld ZXL_SPAN.SDID 0

/-- The span QP of a peer and channel (R394). -/
def State.spanQp (s : State) (sdid vc : Nat) : Option Nat :=
  (List.range 8192).find? fun q =>
    s.fld ETH_QP_CFG.VALID q = 1 ∧ s.fld ETH_QP_CFG.KIND q = 3 ∧ s.fld ETH_QP_CFG.PEER_SDID q = sdid
      ∧ s.fld ETH_QP_CFG.VC q = vc

/-- The route to a device (R392): its link, or none for Ethernet. -/
def State.route (s : State) (board bdid : Nat) : Option Nat :=
  let b := s.fld ZXL_BOARD.BDID 0
  if board = s.fld ZXL_BOARD.BOARD_ID 0 then (if bdid = b then none else some ((bdid ^^^ b) - 1))
  else if s.fld ZXL_LNK_STATUS.STATE 7 ∈ [lkActive, lkRetrain] ∧ s.fld ZXL_LNK_STATUS.PEER_BOARD 7 = board then some 7
  else none

/-- Sends a frame to a member of a trail, by the fixed routes of R392. -/
def State.sendMember (s : State) (m : Member) (f : TxFrame) : State :=
  match s.route m.board m.bdid with
  | some l => s.sendLink l f
  | none =>
    match s.spanQp m.sdid f.vc with
    | some q =>
      let psn := (s.qp q).txPsn
      (s.modQp q fun x => { x with txPsn := (psn + 1) % 2 ^ 24, unacked := x.unacked ++ [psn] }).send (.spanFrame q f)
    | none => s

/-- The other members of a trail: index and entry. -/
def Inst.others (x : Inst) (me : Nat) : List (Nat × Member) :=
  if x.image.scope = 0 then [] else (x.image.members.mapIdx fun i m => (i, m)).filter fun e => e.1 ≠ me

/-- Sends a frame to every other member of instance `i`. -/
def State.sendOthers (s : State) (i : Nat) (f : TxFrame) : State :=
  ((s.inst i).others (s.memberIdx i)).foldl (fun s e => s.sendMember e.2 { f with dst := e.1, src := s.memberIdx i }) s

/-- Sends a control message to every other member of instance `i`. -/
def State.tellMembers (s : State) (i : Nat) (m : CtrlMsg) : State :=
  s.sendOthers i { typ := 0x09, vc := 0, dst := 0, msg := some m }

/-- The Zapiex link whose peer carries an SDID. -/
def State.linkTo (s : State) (sdid : Nat) : Option Nat :=
  (List.range 8).find? fun l => s.fld ZXL_LNK_STATUS.STATE l ∈ [lkActive, lkRetrain] ∧ ((s.link l).caps.map (·.sdid.toNat)) = some sdid

/-- Sends a control message, with data, to the device of an SDID: as a member of a trail that lists it, else over the link
it is the peer of, else over a span QP. -/
def State.tellDevice (s : State) (sdid : Nat) (m : CtrlMsg) (bs : List Byte) : State :=
  let f : TxFrame := { typ := 0x09, vc := 0, dst := 0xFF, msg := some m, payload := bs }
  let all := s.insts.flatMap fun (e : Nat × Inst) => if e.2.image.scope = 0 then [] else e.2.image.members.mapIdx fun j d => (j, d)
  match all.find? fun x => x.2.sdid = sdid, s.linkTo sdid with
  | some x, _ => s.sendMember x.2 { f with dst := x.1 }
  | none, some l => s.sendLink l f
  | none, none => s.sendMember { sdid := sdid, bdid := 0, role := 0, board := 256, mask := 0 } f

/-- Sends a frame of no virtual channel: it carries the next sequence number, takes no credits and is not replayed. -/
def State.sendCtl (s : State) (l typ arg : Nat) : State :=
  if s.fld ZXL_LNK_STATUS.STATE l = lkActive then
    s.send (.frame l { typ := typ, vc := 3, dst := 0xFF, arg := arg, seq := (s.link l).txSeq })
  else s

end Sys2Proof.Machine
end

