-- ==== Sys2Proof/Machine/Faults.lean ====
section
/-! DEFINITION. The fault collector (17): events, their class, log, routes, FAULT_N, the fatal state; containment of
steps and the announcement of trail stops, which events cause. -/

namespace Sys2Proof.Machine

/-! ### Stops and contained steps -/

/-- The stop an instance keeps of one announced and one it has: the earliest boundary applies (R61); at one boundary the
operation that R53 performs first, but cause 0x08 takes precedence over 0x01 (R344). DESIGN CHOICE (log 100): no rule orders
other causes at one boundary. Boundary, cause, issuer. -/
def Inst.keepStop (x : Inst) (e cause : Nat) (by_ : Nat × Nat) : Nat × Nat × Nat × Nat :=
  match x.stopAt with
  | none => (e, cause, by_)
  | some (e0, c0) =>
    if e < e0 then (e, cause, by_)
    else if e0 < e then (e0, c0, x.stopBy)
    else if (c0 = 1 ∧ cause = 8) ∨ (!decide (c0 = 8 ∧ cause = 1) && opBefore (e, by_) (e0, x.stopBy)) then (e, cause, by_)
    else (e0, c0, x.stopBy)

/-- Records a stop of instance `i` at boundary `e` with a cause, issued by `by_` (SDID, operation number). An instance
whose start tick has come reads STOPPING from then on (R61); one that is ARMED for a later tick stays ARMED until then
(log 100). -/
def State.noteStop (s : State) (i e cause : Nat) (by_ : Nat × Nat) : State :=
  let new := (s.inst i).keepStop e cause by_
  let s := s.modInst i fun x => { x with stopAt := some (new.1, new.2.1), stopBy := new.2.2 }
  let s := if s.iState i = iRunning ∨ s.iState i = iStandby ∨ (s.iState i = iArmed ∧ (s.inst i).begun) then s.setIState i iStopping
    else s
  if s.iState i = iStopping then s.setReg .RSQ_TRL_TICKS i (BitVec.ofNat 64 new.1) else s

/-- The first boundary of instance `i` at least one lead time ahead (R61). -/
def State.leadBoundary (s : State) (i : Nat) : Nat :=
  let x := s.inst i
  x.boundaryFrom (s.now + s.lead x.image.scope)

/-- The instance runs or waits to run a trail that a stop concerns. -/
def State.trailActive (s : State) (i : Nat) : Bool :=
  s.iState i ∈ [iArmed, iRunning, iStopping, iStandby]

/-- The number of the next global operation this device issues (R53). -/
def State.nextOp (s : State) : State := { s with opSeq := s.opSeq + 1 }

/-- Announces a stop of instance `i` at boundary `e` to the other members and records it here (R61, R44, R52). -/
def State.announceStopAt (s : State) (i e cause : Nat) : State :=
  if s.trailActive i then
    let s := s.nextOp
    (s.noteStop i e cause (s.sdid, s.opSeq)).tellMembers i
      (.trailStop (BitVec.ofNat 64 (s.inst i).image.trailId) e (BitVec.ofNat 8 cause) (BitVec.ofNat 8 s.sdid) s.opSeq)
  else s

def State.announceStop (s : State) (i cause : Nat) : State := s.announceStopAt i (s.leadBoundary i) cause

/-- The steps of partition `p` that schedule ring `k` carries complete at once with POISON (R417). -/
def State.poisonSteps (s : State) (p k : Nat) : State :=
  let mine := (s.stepsOf p).filter fun r => r.ring = k
  let s := mine.foldl (fun s r => s.discardStep r) s
  let s := s.setSteps p ((s.stepsOf p).filter fun r => r.ring ≠ k)
  mine.foldl (fun s r => s.stepRefused { r with recs := r.recs.map fun e => { e with sstatus := 0x0E } } 0x0E 0) s

/-- The partitions whose steps slots `js` carry: those with a participant in one of them (R112, R416). -/
def Image.carriers (im : Image) (js : List Nat) : List Nat :=
  (maskParts im.groupMask).filter fun p => js.any fun j =>
    match im.slots[j]? with
    | some sl => ((im.parts.drop sl.first).take sl.cnt).any fun e => partOf e.lcid = p
    | none => false

/-- The slots an event of instance `i` concerns: the one named, else those open, else slot 0 (R112). -/
def Inst.slotsNow (x : Inst) (slot : Option Nat) : List Nat :=
  match slot with
  | some j => [j]
  | none => if x.openSlots = [] then [0] else x.openSlots.map Prod.fst

/-- Marks every step that a slot of instance `i` carries in the current schedule ring as contained (R78, R112); with
`poison`, reached by poison that no golden copy repairs, they complete at once (R417). -/
def State.containSteps (s : State) (i : Nat) (slot : Option Nat) (poison : Bool) : State :=
  let x := s.inst i
  (x.image.carriers (x.slotsNow slot)).foldl (fun s p =>
    if poison then s.poisonSteps p (x.schedAt s.now)
    else s.setSteps p ((s.stepsOf p).map fun r => if r.ring = x.schedAt s.now then { r with contained := true } else r)) s

/-- Some step is carried by a slot of instance `i` in the current schedule ring. -/
def State.carriesSteps (s : State) (i : Nat) (slot : Option Nat) : Bool :=
  let x := s.inst i
  (x.image.carriers (x.slotsNow slot)).any fun p => (s.stepsOf p).any fun r => r.ring = x.schedAt s.now

/-! ### Events -/

/-- An event as a unit reports it (R401, R407). -/
structure Evt where
  /-- Source class and instance (R402). -/
  cls : Nat
  ins : Nat
  evt : Nat
  loc : Nat := 0
  value : Nat := 0
  ctx : Nat := 0xFFFF
  trail : Nat := 0xFF
  retries : Nat := 0
  cb : Bool := false
  inj : Bool := false
  retire : Bool := false
  steps : Bool := false
  wrAddr : Nat := 0
  wrBytes : Nat := 0
  /-- The partition the raising unit belongs to. -/
  part : Option Nat := none
deriving DecidableEq, Repr

/-- Source ID (R12). -/
def Evt.source (e : Evt) : Nat := e.cls * 256 + e.ins

/-- Class in force of a pair (R404). -/
def State.evtClass (s : State) (cls evt : Nat) : Nat := s.fld FLT_SEV_CFG.SEV (cls * 16 + evt)

/-- The 64-byte record (R407). -/
def Evt.record (e : Evt) (seq now cls : Nat) (steps : Bool) : List Byte :=
  leBytes seq 4 ++ leBytes e.source 2 ++ leBytes e.evt 1
    ++ leBytes (cls + (if e.cb then 4 else 0) + (if e.inj then 8 else 0) + (if e.retire then 16 else 0)
        + (if steps then 32 else 0)) 1
    ++ leBytes now 8 ++ leBytes e.loc 8 ++ leBytes e.value 8 ++ leBytes e.ctx 2 ++ leBytes e.trail 1
    ++ leBytes e.retries 1 ++ leBytes 0 4 ++ leBytes e.wrAddr 8 ++ leBytes e.wrBytes 4 ++ leBytes 0 12

/-- Free entries of the log (R407). -/
def State.logFree (s : State) : Nat :=
  1024 - min 1024 ((s.fld FLT_STATUS.LOG_WR 0 + 2 ^ 32 - s.fld FLT_CTL.LOG_RD 0) % 2 ^ 32)

/-- Writes a record if the log has room for its class, else counts LOST (R407). -/
def State.logRecord (s : State) (cls : Nat) (bs : List Byte) : State :=
  if s.logFree ≥ (if cls = 0 then 64 else 1) then
    let c := s.fld FLT_STATUS.LOG_WR 0
    let s := { s with flt := { s.flt with log := s.flt.log.set [] (c % 1024) bs } }
    s.setFld FLT_STATUS.LOG_WR 0 (c + 1)
  else s.inc FLT_STATUS.LOST 0

/-- A route entry matches an event of a class (R409). -/
def State.routeMatches (s : State) (e : Evt) (cls i : Nat) : Bool :=
  s.fld FLT_ROUTE.VALID i = 1
    && decide ((e.source ^^^ s.fld FLT_ROUTE.VAL i) &&& s.fld FLT_ROUTE.MASK i = 0)
    && (decide (s.fld FLT_ROUTE.EVT i = e.evt) || decide (s.fld FLT_ROUTE.EVT i = 0))
    && decide (s.fld FLT_ROUTE.MIN_CLASS i ≤ cls)

/-- The trail instances of an event's partition group; all active ones for a unit of no partition. -/
def State.evtInsts (s : State) (e : Evt) : List Nat :=
  match e.part with
  | some p => if s.inGroup p then [s.instOf p] else []
  | none => (List.range 16).filter s.trailActive

/-- Sends a fault record to every other member of an instance. -/
def State.faultFrames (s : State) (i : Nat) (bs : List Byte) (retired : Bool) : State :=
  s.sendOthers i { typ := 0x0A, vc := 0, dst := 0, payload := bs, retired := retired }

/-- Routes an event to the destinations of the lowest matching entry (R409). -/
def State.routeEvent (s : State) (e : Evt) (cls : Nat) (bs : List Byte) : State :=
  match (List.range 16).filter (s.routeMatches e cls) with
  | [] => s
  | i :: more =>
    let s := if more = [] then s else s.inc FLT_CNT.MULTI_HIT 0
    let s := if s.fld FLT_ROUTE.DEST_PF0 i = 1 ∧ s.fld FLT_CTL.IRQ_EN 0 = 1 then
        s.send (.msix 0 (s.fld FLT_CTL.VECTOR 0)) else s
    let s := if s.fld FLT_ROUTE.DEST_PLDM i = 1 then s.send (.pldm bs) else s
    if s.fld FLT_ROUTE.DEST_FRAME i = 1 then (s.evtInsts e).foldl (fun s j => s.faultFrames j bs false) s else s

/-- The FAULT_N pulse of the first event of at least THRESH while ARM = 1 (R410). -/
def State.pulseFaultN (s : State) (cls : Nat) : State :=
  if s.fld FLT_PIN_CTL.ARM 0 = 1 ∧ s.fld FLT_PIN_CTL.PULSE 0 = 0 ∧ s.fld FLT_PIN_CTL.THRESH 0 ≤ cls then
    let s := (s.setFld FLT_PIN_CTL.ARM 0 0).setFld FLT_PIN_CTL.PULSE 0 1
    { s with flt := { s.flt with pinLow := true } }
  else s

/-- The fatal state, entered at the first FATL event (R406). -/
def State.enterFatal (s : State) (bs : List Byte) : State :=
  if s.fld FLT_STATUS.FATAL 0 = 1 then s else
    let s := s.setFld FLT_STATUS.FATAL 0 1
    let s := (List.range 16).foldl (fun s i =>
      if s.trailActive i then (s.faultFrames i bs true).noteStop i (s.leadBoundary i) 7 (s.sdid, s.opSeq) else s) s
    (List.range 16).foldl (fun s p => s.endSteps p 0x0C true) s

/-- The fault collector takes an event (R401 to R410). -/
def State.raise (s : State) (e : Evt) : State :=
  let cls := s.evtClass e.cls e.evt
  let raised := cls = 1 ∧ evtDefault e.evt = 0
  let carried := match e.part with
    | some p => decide raised && s.inGroup p && s.carriesSteps (s.instOf p) none
    | none => false
  let s := match e.part with
    | some p => if raised ∧ s.inGroup p then s.containSteps (s.instOf p) none false else s
    | none => s
  let s := match cls with
    | 0 => s.inc FLT_CNT.CORR_CNT 0
    | 1 => s.inc FLT_CNT.CONT_CNT 0
    | _ => s.inc FLT_CNT.FATL_CNT 0
  let bs := e.record (s.fld FLT_STATUS.LOG_WR 0) s.now cls (e.steps || carried)
  let s := s.logRecord cls bs
  let s := s.routeEvent e cls bs
  let s := s.pulseFaultN cls
  if cls = 2 then s.enterFatal bs else s

/-! ### Leaky buckets and injection -/

/-- Bucket numbers: resource kind × 2^32 + resource. -/
def bkCore (c : Nat) : Nat := c
def bkRow (stack q bank row : Nat) : Nat := 2 ^ 32 + ((stack * 64 + q) * 64 + bank) * 16384 + row
def bkDie (tower die : Nat) : Nat := 3 * 2 ^ 32 + tower * 16 + die
def bkEth (port grp : Nat) : Nat := 5 * 2 ^ 32 + port * 2 + grp

/-- Adds an event of a resource to its bucket (R412): an injected one only with LEAK. The flag says that the bucket
reached THRESH: the resource is permanently faulty. -/
def State.bucketAdd (s : State) (key : Nat) (inj : Bool) : State × Bool :=
  if inj ∧ !s.flt.injLeak then (s, false)
  else
    let l := s.flt.buckets.get 0 key + 1
    ({ s with flt := { s.flt with buckets := s.flt.buckets.set 0 key l } }, decide (l ≥ s.fld FLT_LEAK.THRESH 0))

/-- Number of one bits of `v` below bit `n`. -/
def popcount (v n : Nat) : Nat := ((List.range n).filter (maskBit v)).length

/-- An armed injection meets an access of a checker (R420): source, address and the checker's check-bit width. The
answer is `none` without a hit, else whether the checker reports a UE; the injection's count falls. -/
def State.injHit (s : State) (source addr width : Nat) (write : Bool) : Option Bool × State :=
  if s.fld FLT_INJ_CTL.ACTIVE 0 = 1 ∧ s.flt.injSource = source ∧ s.flt.injMode = write
      ∧ (s.flt.injAddr = 0 ∨ s.flt.injAddr = addr) then
    let r := s.fld FLT_INJ_CTL.REMAIN 0 - 1
    let s := s.setFld FLT_INJ_CTL.REMAIN 0 r
    let s := if r = 0 then s.setFld FLT_INJ_CTL.ACTIVE 0 0 else s
    let n := popcount s.flt.injMask width
    if n = 0 then (none, s) else (some (decide (n > 1)), s)
  else (none, s)

/-- FEC checks a codeword of a link (`base` 0x70) or an Ethernet port (0x80), whose source IDs are (base + number) × 16 + lane:
what an armed injection does to it (R420). -/
def State.fecHit (s : State) (base n : Nat) : Option Bool × State :=
  if s.flt.injSource / 16 = base + n then s.injHit s.flt.injSource 0 64 false else (none, s)

/-- The security event of a write that meets a closed lock (R8). -/
def State.lockEvent (s : State) (p : Nat) : State := s.raise { cls := 0xC, ins := 0, evt := 0x9, part := some p }

end Sys2Proof.Machine
end

