-- ==== Sys2Proof/Machine/CheckCode.lean ====
section
/-! DEFINITION. The check code of the Trunk stacks: what a read of a sector finds, row repair, poison and its golden copies
(R270, R294 to R300, R411, R412, R416 to R418). -/

namespace Sys2Proof.Machine

/-! ### Places and events -/

/-- The frame a row of a bank belongs to, for rows of the software frames. -/
def rowFrame (b r : Nat) : Nat := r * 64 + (b ^^^ (r % 64))

/-- An event of a stack at a place (R402, R408). -/
def trunkEvt (st q b r sec evt : Nat) : Evt :=
  { cls := 4, ins := st * 16 + q / 4, evt := evt, loc := st + q * 16 + b * 1024 + r * 65536 + sec * 2 ^ 30 }

/-! ### Golden copies (R270, R416) -/

/-- The object of a context at an OVA. -/
def State.objAt (s : State) (ctx ova : Nat) : Option Obj :=
  (s.ctx ctx).objs.find? fun o => o.ova ≤ ova ∧ ova < o.ova + o.bytes

/-- Data at an OVA has a golden copy that reads clean (R270, R416). -/
def State.goldenAt (s : State) (ctx ova : Nat) : Bool :=
  match s.objAt ctx ova with
  | some o => o.backed && !s.poisonedAt (o.golden.getD ((ova - o.ova) / 65536) 0) 65536
  | none => false

/-! ### Row repair (R299) -/

/-- Frame `f` of a stack is withdrawn from the free pool, or when it is unmapped. -/
def State.withdrawFrame (s : State) (st f : Nat) : State :=
  let s := s.inc TRK_REPAIR.FRAMES_WD st
  if f ≥ swFrames then s else (s.modStack st fun k => { k with withdraw := k.withdraw.add f 1 }).dropWithdrawn st

/-- A row is remapped to the spare row of its bank, else of the other bank of its pair, else its frame is withdrawn. -/
def State.remapRow (s : State) (st q b r : Nat) : State :=
  let used := ((s.stack st).remaps.filter fun m => m.q = q).map (·.spare)
  match [b, b ^^^ 1].find? fun x => x ∉ used with
  | none => s.withdrawFrame st (rowFrame b r)
  | some x =>
    let n := s.fld TRK_REPAIR.SPARE_FREE st
    ((s.modStack st fun k => { k with remaps := { q := q, bank := b, row := r, spare := x, copying := true } :: k.remaps }).inc
      TRK_REPAIR.REMAP_CNT st).setFld TRK_REPAIR.SPARE_FREE st (n - 1)

/-- An error of a row counts in its bucket (R412): the controller keeps the 256 rows that reported last, and a row it drops
loses its count. A row whose bucket is full is remapped. -/
def State.rowError (s : State) (st q b r : Nat) (inj : Bool) : State :=
  let key := bkRow st q b r
  let rows := key :: (s.stack st).recentRows.filter (· ≠ key)
  let s := (rows.drop 256).foldl (fun (s : State) k => { s with flt := { s.flt with buckets := s.flt.buckets.erase k } }) s
  let s := s.modStack st fun k => { k with recentRows := rows.take 256 }
  let t := s.bucketAdd key inj
  let done := (t.1.stack st).remaps.any fun m => m.q = q ∧ m.bank = b ∧ m.row = r
  if t.2 && !done then (t.1.raise { trunkEvt st q b r 0 0x5 with retire := true }).remapRow st q b r else t.1

/-! ### Check code (R294 to R297, R411, R418, R419) -/

/-- Areas of the reserved range: the translation map, the mask area, the page tables, the spare rows. -/
def mapArea : Nat := 0xF80000000
def maskArea : Nat := 0xFC0000000
def tableArea : Nat := 0xFC4000000
def spareArea : Nat := 0xFFFC00000

/-- Where a tower's translation map lies: stack, first offset and end (R258, R428). -/
def State.mapRange (s : State) (t : Nat) : Nat × Nat × Nat :=
  match (s.tower t).mapHost with
  | none => (t, mapArea, maskArea)
  | some h =>
    let k := ((List.range t).filter fun u => (s.tower u).mapHost = some h).length
    (h, 0xF00000000 - k * 2 ^ 30, 0xF40000000 - k * 2 ^ 30)

/-- The tower whose map holds an offset of a stack. -/
def State.mapAt (s : State) (st o : Nat) : Option Nat :=
  (List.range 16).find? fun t => (s.mapRange t).1 = st ∧ (s.mapRange t).2.1 ≤ o ∧ o < (s.mapRange t).2.2

/-- What one read of a sector shows its checker: an uncorrectable error, a correctable one (`some checkOnly`), or none; and
whether it was injected. -/
inductive Decoded where
  | ue (inj : Bool)
  | fixed (checkOnly inj : Bool)
  | fine
deriving DecidableEq, Repr

def State.decodeOnce (s : State) (st q dpa : Nat) (seen : Seen) : Decoded × State :=
  let h := s.injHit (0x400 + st * 16 + q / 4) dpa 32 false
  match h.1, s.tmarks.get .clean (dpa / 32), seen with
  | some true, _, _ => (.ue true, h.2)
  | some false, _, _ => (.fixed true true, h.2)
  | none, .ue, _ => (.ue false, h.2)
  | none, .ce, _ => (.fixed false false, h.2)
  | none, .cb, _ => (.fixed true false, h.2)
  | none, _, .unfixable => (.ue false, h.2)
  | none, _, .fixable c => (.fixed c false, h.2)
  | none, _, _ => (.fine, h.2)

/-- The first attempt and up to three re-reads (R411): the outcome and the number of retries. -/
def State.decodeAll (s : State) (st q dpa : Nat) : Nat → List Seen → Nat → Decoded × Nat × State
  | 0, _, n => let r := s.decodeOnce st q dpa .unfixable; (r.1, n, r.2)
  | fuel + 1, seen, n =>
    let r := s.decodeOnce st q dpa (seen.headD .clean)
    match r.1 with
    | .ue i => if fuel = 0 then (.ue i, n, r.2) else r.2.decodeAll st q dpa fuel seen.tail (n + 1)
    | d => (d, n, r.2)

/-- Contexts that map a frame, with the object it belongs to. -/
def State.frameOwners (s : State) (frame : Nat) : List (Nat × Obj) :=
  s.ctxs.flatMap fun (e : Nat × Ctx) => (e.2.objs.filter fun o => frame ∈ s.objFrames e.1 o).map fun o => (e.1, o)

/-- Poison with no golden copy is told to every context that maps the object (R379, R417). -/
def State.tellPoison (s : State) (dpa : Nat) : State :=
  (s.frameOwners (dpa / 65536)).foldl (fun s (e : Nat × Obj) =>
    let page := (s.objPages e.1 e.2).find? fun p => p.2.frame ≤ dpa / 65536 ∧ dpa / 65536 < p.2.frame + (if p.2.big then 32 else 1)
    let ova := (page.map fun p => (p.1 + (dpa / 65536 - p.2.frame)) * 65536).getD 0
    if s.goldenAt e.1 ova then s else s.eventTo e.1 0x8 e.2.handle []) s

def State.setMark (s : State) (dpa : Nat) (m : Mark) : State := { s with tmarks := s.tmarks.set .clean (dpa / 32) m }

/-- A sector is found uncorrectable after its retries (R296, R299, R411, R418). -/
def State.sectorLost (s : State) (st dpa : Nat) (inj : Bool) (n : Nat) : State :=
  let o := dpa % 0x1000000000
  let (q, b, r) := s.trunkPlaceNow st o
  let e := { trunkEvt st q b r (trunkSector o) 0x2 with inj := inj, retries := n }
  if tableArea ≤ o ∧ o < spareArea then
    if (s.stack (st ^^^ 1)).mirrorOff then s.raise { e with evt := 0xE }
    else (s.setMark dpa .clean).raise { e with evt := 0x1 }
  else
    let s := ((s.setMark dpa .poison).inc TRK_ECC.UE_CNT st).raise e
    let s := s.rowError st q b r inj
    let s := if (s.stack st).remaps.any (fun m => m.q = q ∧ m.bank = b ∧ m.row = r) then s else s.remapRow st q b r
    match s.mapAt st o with
    | some t => s.modTower t fun x => { x with mapWait := true }
    | none => s.tellPoison dpa

/-- A sector is corrected (R295): counted, reported, queued for a rewrite. -/
def State.sectorFixed (s : State) (st dpa : Nat) (checkOnly inj : Bool) (queue : Bool) : State :=
  let o := dpa % 0x1000000000
  let (q, b, r) := s.trunkPlaceNow st o
  let s := s.inc TRK_ECC.CE_CNT st
  let s := if checkOnly then s.inc TRK_ECC.CB_CNT st else s
  let s := s.raise { trunkEvt st q b r (trunkSector o) 0x1 with cb := checkOnly, inj := inj }
  let s := s.rowError st q b r inj
  if queue ∧ (s.stack st).rewriteQ.length < 64 ∧ dpa / 32 ∉ (s.stack st).rewriteQ then
    s.modStack st fun k => { k with rewriteQ := k.rewriteQ ++ [dpa / 32] }
  else s

/-- Reads and checks the sector at `dpa`. -/
def State.readSector (s : State) (st dpa : Nat) (seen : List Seen) : State :=
  let o := dpa % 0x1000000000
  let (q, b, r) := s.trunkPlaceNow st o
  let e := trunkEvt st q b r (trunkSector o) 0x3
  if s.tmarks.get .clean (dpa / 32) = .poison then (s.inc TRK_ECC.POISON_RD st).raise e
  else
    match s.decodeAll st q dpa 4 seen 0 with
    | (.ue i, n, s) => s.sectorLost st dpa i n
    | (d, n, s) =>
      let s := if n = 0 then s else (s.raise { e with evt := 0x4, retries := n }).rowError st q b r false
      match d with
      | .fixed c i => s.sectorFixed st dpa c i true
      | _ => s

/-! ### What the engines read and write (R21, R261, R294 to R296, R420) -/

/-- A checker looks at the sectors of [dpa, dpa + n): one carries a mark, or an injection is armed. -/
def State.mustCheck (s : State) (dpa n : Nat) : Bool :=
  decide (s.fld FLT_INJ_CTL.ACTIVE 0 = 1) || s.tmarks.any fun (e : Nat × Mark) => decide (e.1 * 32 < dpa + n) && decide (dpa < e.1 * 32 + 32)

/-- The sectors of a range of DPAs, as the DPA of each. -/
def sectorsOf (dpa n : Nat) : List Nat := (List.range' (dpa / 32) ((dpa + n - 1) / 32 + 1 - dpa / 32)).map (· * 32)

/-- An engine of partition `p` reads [dpa, dpa + n) of Trunk, for context `x` where one is known: its sectors are checked and
its blocks charged; what it waits for is timing (log 51). -/
def State.readTrunk (s : State) (p : Nat) (x : Option Nat) (dpa n : Nat) : State :=
  match place dpa with
  | .trunk st _ =>
    let s := if n ≠ 0 ∧ s.mustCheck dpa n then (sectorsOf dpa n).foldl (fun s d => s.readSector st d []) s else s
    s.chargeTrunk p x dpa n
  | _ => s

/-- An engine of partition `p` reads [ova, ova + n) of context `x`: what of it is Trunk is checked and charged. -/
def State.readTrunkOva (s : State) (p x ova n : Nat) : State :=
  (ovaPieces (n / 65536 + 2) ova n).foldl (fun t q =>
    let e := t.pte x q.1
    if e.present && e.tier = .trunk then t.readTrunk p (some x) (e.dpa q.1) q.2 else t) s

/-- A write of whole sectors meets an armed injection (R420). -/
def State.injectWrite (s : State) (dpa n : Nat) : State :=
  if s.fld FLT_INJ_CTL.ACTIVE 0 = 1 then
    match place dpa with
    | .trunk st _ => (sectorsOf dpa n).foldl (fun s d =>
        let q := (s.trunkPlaceNow st (d % 0x1000000000)).1
        let h := s.injHit (0x400 + st * 16 + q / 4) d 32 true
        match h.1 with
        | none => h.2
        | some ue => h.2.setMark d (if ue then .ue else .cb)) s
    | _ => s
  else s

/-- An engine of partition `p` writes bytes of Trunk, for context `x`. -/
def State.writeTrunk (s : State) (p : Nat) (x : Option Nat) (dpa : Nat) (bs : List Byte) : State :=
  ((s.writeDpa dpa bs).injectWrite dpa bs.length).chargeTrunk p x dpa bs.length

end Sys2Proof.Machine
end

