-- ==== Sys2Proof/Machine/CoreOps.lean ====
section
/-! DEFINITION. Operations of a core: thread slots and their exceptions, local Canopy words with their check code,
gather buffers, cells, and the shared rule of issue (04, 05). -/

namespace Sys2Proof.Machine

/-- Bits [hi:lo] of an instruction word. -/
def wbits (w : Word) (hi lo : Nat) : Nat := w.toNat / 2 ^ lo % 2 ^ (hi + 1 - lo)

/-- A number sign-extended from `n` bits to a word. -/
def sext (v n : Nat) : Word := BitVec.ofInt 64 (signedOf v n)

/-! ### Thread slots -/

def State.thr (s : State) (c t : Nat) : Thread := (s.core c).threads.get {} t
def State.setThr (s : State) (c t : Nat) (x : Thread) : State :=
  s.modCore c fun k => { k with threads := k.threads.set {} t x }
def State.modThr (s : State) (c t : Nat) (f : Thread → Thread) : State := s.setThr c t (f (s.thr c t))

def Thread.rs (x : Thread) (i : Nat) : Word := x.s.get 0 i
/-- Writes a register; its new code word is free of error (R114). -/
def Thread.setS (x : Thread) (i : Nat) (v : Word) : Thread := { x with s := x.s.set 0 i v, marks := x.marks.erase i }
def Thread.rv (x : Thread) (i : Nat) : VReg := x.v.get 0 i
def Thread.setV (x : Thread) (i : Nat) (v : VReg) : Thread := { x with v := x.v.set 0 i v, marks := x.marks.erase (32 + i) }
/-- p0 is all ones (R82, R92). -/
def Thread.rp (x : Thread) (i : Nat) : Word := if i = 0 then BitVec.allOnes 64 else x.p.get 0 i
/-- Writes to p0 are ignored (R92). -/
def Thread.setP (x : Thread) (i : Nat) (v : Word) : Thread := if i = 0 then x else { x with p := x.p.set 0 i v, marks := x.marks.erase (48 + i) }

/-- The state of R82: registers zero, p0 all ones, an empty loop stack; base and bound and the exception record stay. -/
def Thread.clearRegs (x : Thread) : Thread := { x with s := [], v := [], p := [], marks := [], loops := [] }

/-- Participants of a slot: (LCID, thread slot) pairs (R57). -/
def Image.participants (im : Image) (slot : Nat) : List (Nat × Nat) :=
  match im.slots[slot]? with
  | none => []
  | some sl => ((im.parts.drop sl.first).take sl.cnt).flatMap fun e =>
      ((List.range 8).filter (maskBit e.mask)).map fun t => (e.lcid, t)

/-- The instance that runs core `c`. -/
def State.coreInst (s : State) (c : Nat) : Nat := s.instOf (partOf c)

/-- The open slot in which thread slot (c, t) takes part; slot 0 before the trail's first slot (R112). -/
def State.curSlot (s : State) (c t : Nat) : Option Nat :=
  let x := s.inst (s.coreInst c)
  (x.openSlots.map Prod.fst).find? fun j => (x.image.participants j).contains (c, t)

/-- A core-class event of a thread slot (R402, R408). -/
def threadEvt (c t fpc evt value : Nat) : Evt :=
  { cls := 0, ins := c / 8, evt := evt, loc := c + t * 2 ^ 16 + fpc % 16384 * 2 ^ 32, value := value, part := some (partOf c) }

def causeIllegal : Nat := 1
def causeIbound : Nat := 2
def causeCbound : Nat := 3
def causeAlign : Nat := 4
def causeLoop : Nat := 5
def causeXlate : Nat := 6
def causeProt : Nat := 7
def causeWindow : Nat := 8
def causeStarve : Nat := 9
def causePoison : Nat := 10
def causeTrap : Nat := 11
def causeStoreEcc : Nat := 12

/-- An exception of thread slot (c, t) (R109, R110, R112): the thread slot stops in TRAPPED with its record written, the
steps of its slot are contained, and the event is recorded. `noGolden` marks POISON on data without a golden copy
(R417). A thread slot that is HALTED, TRAPPED or INACTIVE keeps its state and record; the event is recorded.
DESIGN CHOICE (log 78): a trap of a thread slot that takes part in no open slot counts as one in slot 0, as a trap before
the trail's first slot does; the spec says nothing of one between slots. -/
def State.trapAt (s : State) (c t cause : Nat) (addr : Word) (fpc pc : Nat) (noGolden : Bool) (wrAddr wrBytes : Nat) : State :=
  let x := s.thr c t
  let live := x.state = .running ∨ x.state = .blocked ∨ x.state = .waitTick
  let i := s.coreInst c
  let slot := (s.curSlot c t).getD 0
  let run := s.executing i
  let carried := live ∧ run ∧ s.carriesSteps i (some slot)
  let s := if live then
      s.setThr c t { x with state := .trapped, cause := cause, fpc := fpc, pc := pc, addr := addr, wait := .none,
                            trapCnt := min 65535 (x.trapCnt + 1), trapSlot := some slot }
    else s
  let s := if live ∧ run then s.containSteps i (some slot) noGolden else s
  let s := if cause = causeStarve then s.inc PRT_CNP_WIN.STARVE_CNT c else s
  s.raise { threadEvt c t fpc (if cause = causeTrap then 0xF else 0x8) (cause * 2 ^ 56 + addr.toNat % 2 ^ 56) with
              ctx := (s.boundCtx c).getD 0xFFFF, trail := i, steps := decide carried, wrAddr := wrAddr, wrBytes := wrBytes }

/-- A precise exception: PC = FPC (R110). -/
def State.trap (s : State) (c t cause : Nat) (addr : Word) : State :=
  let pc := (s.thr c t).pc
  s.trapAt c t cause addr pc pc false 0 0

/-- The program counter moves past the instruction. -/
def State.advance (s : State) (c t : Nat) : State := s.modThr c t fun x => { x with pc := x.pc + 1 }

/-- The operations of a core that have not completed: queued, on the array or in the drain unit. -/
def Core.allOps (k : Core) : List Op :=
  k.ops ++ k.lq ++ (k.arr.toList.map (·.op)) ++ (k.drn.toList.map (·.op))

/-! ### Base and bound (R89) -/

/-- Every byte of [ofs, ofs + n) lies below CBOUND, for an offset of 64 bits. -/
def Thread.inBounds (x : Thread) (ofs : Word) (n : Nat) : Bool := ofs.toNat + n ≤ x.cbound

/-! ### Canopy words and their check code (R116, R117, R138, R139) -/

/-- A Canopy-class event of a word: its bank and its place in the bank (R116, R408). -/
def canopyEvt (c word evt : Nat) : Evt :=
  { cls := 1, ins := c / 8, evt := evt, loc := c + word % 32 * 2 ^ 24 + word / 32 % 16384 * 2 ^ 32, part := some (partOf c) }

def State.setCMark (s : State) (c word : Nat) (m : Mark) : State :=
  s.modCore c fun k => { k with cmarks := k.cmarks.set .clean word m }

def State.cMark (s : State) (c word : Nat) : Mark := (s.core c).cmarks.get .clean word

/-- An error event of core `c` adds to its bucket; a core permanently faulty is to be replaced (R412, R413). -/
def State.coreBucket (s : State) (c : Nat) (inj : Bool) : State :=
  let r := s.bucketAdd (bkCore c) inj
  if r.2 then r.1.modCore c fun k => { k with retiring := true } else r.1

/-- Reports a corrected error of a Canopy word and rewrites it (R138, R419). -/
def State.canopyCe (s : State) (c word : Nat) (cb inj : Bool) : State :=
  let s := s.setCMark c word .clean
  let s := s.inc PRT_CNP_ECC.CE_CNT c
  let s := if cb then s.inc PRT_CNP_ECC.CB_CNT c else s
  (s.coreBucket c inj).raise { canopyEvt c word 0x1 with cb := cb, inj := inj }

/-- Marks a Canopy word poisoned and reports it (R139). The word's own data has no golden copy (R417). -/
def State.canopyUe (s : State) (c word : Nat) (inj : Bool) : State :=
  let s := (s.setCMark c word .poison).modCore c fun k => { k with golden := k.golden.erase word }
  let s := s.inc PRT_CNP_ECC.UE_CNT c
  (s.coreBucket c inj).raise { canopyEvt c word 0x2 with inj := inj }

/-- The poison of a Canopy word has no golden copy behind it (R112, R417). -/
def State.noGold (s : State) (c word : Nat) : Bool := !(s.core c).golden.get false word

/-- A local load meets a poisoned word: a precise exception (R109, R139). -/
def State.trapWord (s : State) (c t word : Nat) : State :=
  let pc := (s.thr c t).pc
  s.trapAt c t causePoison (BitVec.ofNat 64 (canopyDpa c (word * 8))) pc pc (s.noGold c word) 0 0

/-- What a stored word's mark becomes by a write (R117, R139): a whole word loses its mark; a partial write reads the word
first, corrects it or finds its error, and keeps poison. A write may meet an injection in MODE 1 (R420). -/
def State.writeMark (s : State) (c word : Nat) (whole : Bool) : State :=
  let s := if whole then s.setCMark c word .clean else
    match s.cMark c word with
    | .ue => s.canopyUe c word false
    | .ce => s.canopyCe c word false false
    | .cb => s.canopyCe c word true false
    | _ => s
  let (hit, s) := s.injHit (0x100 + c / 8) (canopyDpa c (word * 8)) 8 true
  if s.cMark c word = .poison then s else
    match hit with
    | some true => s.setCMark c word .ue
    | some false => s.setCMark c word .cb
    | none => s

/-- Writes back the bytes a gather buffer holds (R124): words it holds whole, other words by a partial write (R117). -/
def State.flushBuf (s : State) (c port : Nat) : State :=
  let b := (s.core c).gbufs.get {} port
  if b.held then
    let have' := fun w => (List.range 8).filter fun j => b.bytes.any fun e => e.1 = w * 8 + j
    let s := (List.range' (b.block * 8) 8).foldl (fun s w =>
      if have' w = [] then s else s.writeMark c w (decide ((have' w).length = 8))) s
    s.modCore c fun k =>
      { k with canopy := b.bytes.foldl (fun m e => setByte m e.1 e.2) k.canopy
               gbufs := k.gbufs.set {} port { copy := b.copy } }
  else s

/-- An operation that used a port's gather buffer ends: the buffer writes back and drops its read copy (R124). -/
def State.endBuf (s : State) (c port : Nat) : State :=
  (s.flushBuf c port).modCore c fun k => { k with gbufs := k.gbufs.set {} port {} }

/-- Any buffer that holds a block of [ofs, ofs + n) writes back first (R124). -/
def State.flushRange (s : State) (c ofs n : Nat) : State :=
  (List.range 3).foldl (fun s port =>
    let b := (s.core c).gbufs.get {} port
    if b.held ∧ b.block * 64 < ofs + n ∧ ofs < b.block * 64 + 64 then s.flushBuf c port else s) s

/-- Read copies of blocks of [ofs, ofs + n) are dropped: a port writes there (R124). -/
def State.dropCopies (s : State) (c ofs n : Nat) : State :=
  (List.range 3).foldl (fun s port =>
    let b := (s.core c).gbufs.get {} port
    if b.copy.any fun k => decide (k * 64 < ofs + n) && decide (ofs < k * 64 + 64) then
      s.modCore c fun k => { k with gbufs := k.gbufs.set {} port { b with copy := none } }
    else s) s

/-- One checked read of a Canopy word (R138, R139, R420): the flag says that the word is poisoned. -/
def State.checkWord (s : State) (c word : Nat) : Bool × State :=
  let (hit, s) := s.injHit (0x100 + c / 8) (canopyDpa c (word * 8)) 8 false
  match s.cMark c word with
  | .poison => (true, s.raise (canopyEvt c word 0x3))
  | .ue => (true, s.canopyUe c word false)
  | m =>
    match hit with
    | some true => (true, s.canopyUe c word true)
    | some false => (false, s.canopyCe c word true true)
    | none =>
      match m with
      | .ce => (false, s.canopyCe c word false false)
      | .cb => (false, s.canopyCe c word true false)
      | _ => (false, s)

/-- Checked read of the words at the given indices: the first poisoned one, if any. -/
def State.checkWords (s : State) (c : Nat) : List Nat → Option Nat × State
  | [] => (none, s)
  | w :: ws =>
    let (bad, s) := s.checkWord c w
    if bad then (some w, s) else s.checkWords c ws

/-- Checked read of every word given: those that are poisoned. -/
def State.checkAll (s : State) (c : Nat) : List Nat → List Nat × State
  | [] => ([], s)
  | w :: ws =>
    let (bad, s) := s.checkWord c w
    let r := s.checkAll c ws
    (if bad then w :: r.1 else r.1, r.2)

/-- Words that hold the bytes of [ofs, ofs + n). -/
def wordsOf (ofs n : Nat) : List Nat := if n = 0 then [] else List.range' (ofs / 8) ((ofs + n - 1) / 8 + 1 - ofs / 8)

/-- Bytes of a core's Canopy. -/
def State.cBytes (s : State) (c ofs n : Nat) : List Byte := getBytes (s.core c).canopy ofs n

/-- Bytes of a core's Canopy as they stand with what the gather buffers hold for them. -/
def State.peek (s : State) (c ofs n : Nat) : List Byte := (s.flushRange c ofs n).cBytes c ofs n

/-- A checked read of Canopy bytes by the local pipeline: the bytes, or the first poisoned word. -/
def State.cRead (s : State) (c ofs n : Nat) : (Option (List Byte) × Nat) × State :=
  let s := s.flushRange c ofs n
  let (bad, s) := s.checkWords c (wordsOf ofs n)
  match bad with
  | some w => ((none, w), s)
  | none => ((some (s.cBytes c ofs n), 0), s)

/-- One block of an engine's read through a port (R124): of a block read in part the whole is fetched and checked, and
later narrow reads of the operation in it are served from the gather buffer. The first poisoned word of those wanted. -/
def State.readBuf (s : State) (c port blk : Nat) (want : List Nat) : Option Nat × State :=
  let b := (s.core c).gbufs.get {} port
  if want.length < 8 ∧ b.copy = some blk then (want.find? fun w => s.cMark c w = .poison, s)
  else
    let r := s.checkAll c (List.range' (blk * 8) 8)
    (want.find? (· ∈ r.1),
     if want.length < 8 then
       r.2.modCore c fun k => { k with gbufs := k.gbufs.set {} port { k.gbufs.get {} port with copy := some blk } }
     else r.2)

/-- The blocks of an engine's read, in order. -/
def State.readBufs (s : State) (c port : Nat) : List (Nat × List Nat) → Option Nat × State
  | [] => (none, s)
  | (blk, want) :: l =>
    let r := s.readBuf c port blk want
    match r.1 with
    | some w => (some w, r.2)
    | none => r.2.readBufs c port l

/-- A checked read of Canopy bytes by an engine through a port: the bytes, or the first poisoned word. -/
def State.portRead (s : State) (c port ofs n : Nat) : (Option (List Byte) × Nat) × State :=
  let s := s.flushRange c ofs n
  let ws := wordsOf ofs n
  let r := s.readBufs c port ((ws.map (· / 8)).dedup.map fun b => (b, ws.filter fun w => w / 8 = b))
  match r.1 with
  | some w => ((none, w), r.2)
  | none => ((some (r.2.cBytes c ofs n), 0), r.2)

/-- Writes Canopy bytes to the banks: a word written whole loses its poison, a partial write keeps it (R117, R139). -/
def State.cWrite (s : State) (c ofs : Nat) (bs : List Byte) : State :=
  let s := (s.flushRange c ofs bs.length).dropCopies c ofs bs.length
  let s := (wordsOf ofs bs.length).foldl (fun s w =>
    s.writeMark c w (decide (ofs ≤ w * 8) && decide (w * 8 + 8 ≤ ofs + bs.length))) s
  s.modCore c fun k => { k with canopy := setBytes k.canopy ofs bs }

/-- One narrow piece of an engine's write, inside one 64-byte block, through the gather buffer of its port (R124). -/
def State.gatherPiece (s : State) (c port ofs : Nat) (bs : List Byte) : State :=
  let b := (s.core c).gbufs.get {} port
  let s := (if b.held ∧ b.block ≠ ofs / 64 then s.flushBuf c port else s).dropCopies c ofs bs.length
  let b := (s.core c).gbufs.get {} port
  let merged := bs.mapIdx (fun j v => (ofs + j, v))
  let bytes := b.bytes.filter (fun e => !(decide (ofs ≤ e.1) && decide (e.1 < ofs + bs.length))) ++ merged
  let s := s.modCore c fun k => { k with gbufs := k.gbufs.set {} port { held := true, block := ofs / 64, bytes := bytes } }
  if bytes.length ≥ 64 then s.flushBuf c port else s

/-- An engine's write through a port: whole 64-byte blocks go to the banks, the rest through the gather buffer. `fuel`
bounds the number of blocks. -/
def State.engWrite (s : State) (c port : Nat) : Nat → Nat → List Byte → State
  | 0, _, _ => s
  | fuel + 1, ofs, bs =>
    if bs = [] then s
    else
      let n := min bs.length (64 - ofs % 64)
      let piece := bs.take n
      let s := if n = 64 then s.cWrite c ofs piece
        else
          let s := (List.range 3).foldl (fun s q =>
            let b := (s.core c).gbufs.get {} q
            if q ≠ port ∧ b.held ∧ b.block = ofs / 64 then s.flushBuf c q else s) s
          s.gatherPiece c port ofs piece
      s.engWrite c port fuel (ofs + n) (bs.drop n)

/-- Ports with a gather buffer: Lattice, out-path, remote. -/
def portLattice : Nat := 0
def portOut : Nat := 1
def portRemote : Nat := 2

/-- An engine's write of Canopy bytes. -/
def State.portWrite (s : State) (c port ofs : Nat) (bs : List Byte) : State :=
  s.engWrite c port (bs.length / 64 + 2) ofs bs

/-! ### Cells (R125) -/

def State.cell (s : State) (c k : Nat) : Cell := (s.core c).cells.get {} k
def State.setCell (s : State) (c k : Nat) (x : Cell) : State :=
  s.modCore c fun q => { q with cells := q.cells.set {} k x }
def Cell.defined (x : Cell) : Bool := x.size ≠ 0
def nullCell : Nat := 0x7FF

/-- Sets a cell's tag. -/
def State.setTag (s : State) (c k : Nat) (full : Bool) : State := s.setCell c k { s.cell c k with full := full }

/-! ### Encoding (R91 to R94) -/

/-- The opcodes of R94. -/
def opcodes : List Nat :=
  [0x00, 0x01, 0x02, 0x03, 0x04, 0x05, 0x06, 0x07, 0x08] ++ List.range' 0x10 12 ++ List.range' 0x20 7 ++ List.range' 0x30 6
    ++ [0x38, 0x39] ++ [0x40, 0x41, 0x42] ++ List.range' 0x50 14 ++ [0x60] ++ [0x68, 0x69, 0x6A] ++ [0x70, 0x71, 0x72]

/-- Opcode, predicate fields of a word (R91). -/
def wOp (w : Word) : Nat := wbits w 63 56
def wPn (w : Word) : Nat := wbits w 55 55
def wPs (w : Word) : Nat := wbits w 54 52

/-- The word's format fields hold no reserved value and no reserved bit (R91 to R97, R100 to R107, R126, R146); the
opcode is one of R94. WTICK's OFS against P is checked apart. -/
def wordOk (w : Word) : Bool :=
  let f := wbits w
  match wOp w with
  | 0x00 | 0x06 => f 51 0 = 0
  | 0x04 => f 51 0 = 0 ∧ wPn w = 0 ∧ wPs w = 0
  | 0x07 => f 51 16 = 0
  | 0x08 => f 51 4 = 0
  | 0x01 => f 43 14 = 0 ∧ f 46 44 = 0 ∧ f 51 47 = 0
  | 0x02 => f 43 14 = 0 ∧ f 46 44 ≤ 5
  | 0x03 => f 45 38 = 0 ∧ wPn w = 0 ∧ wPs w = 0
  | 0x05 => f 45 32 = 0
  | 0x10 | 0x11 | 0x12 | 0x13 | 0x14 | 0x15 | 0x16 | 0x1A => f 35 32 = 0 ∧ (f 36 36 = 0 ∨ f 41 37 = 0)
  | 0x17 | 0x18 | 0x19 => f 35 33 = 0 ∧ (f 36 36 = 0 ∨ f 41 37 = 0)
  | 0x1B => f 51 50 = 0 ∧ f 35 32 ≤ 5 ∧ (f 36 36 = 0 ∨ f 41 37 = 0)
  | 0x20 | 0x21 | 0x22 => f 22 0 = 0 ∧ f 33 23 ≠ 0x7FF
  | 0x23 | 0x24 => f 22 0 = 0 ∧ f 33 23 ≠ 0x7FF ∧ f 36 34 ≤ 1
  | 0x25 | 0x26 => f 22 0 = 0
  | 0x30 => f 28 24 = 0 ∧ f 23 0 % 64 = 0 ∧ f 30 30 = 0
  | 0x31 => f 28 24 = 0 ∧ f 23 0 % 64 = 0 ∧ f 29 29 = 0
  | 0x32 => f 29 29 = 0
  | 0x33 => f 30 30 = 0
  | 0x34 => f 28 24 = 0 ∧ f 23 0 % 64 = 0 ∧ f 23 0 ≤ 65536 ∧ f 30 30 = 0
  | 0x35 => f 28 25 = 0 ∧ f 23 0 % 4 = 0 ∧ f 30 30 = 0
  | 0x38 | 0x39 => f 34 32 = 0 ∧ f 37 35 ≤ 2
  | 0x50 | 0x51 => f 34 32 = 0
  | 0x40 => f 51 34 = 0 ∧ f 18 0 = 0 ∧ f 23 22 ≠ 3 ∧ f 21 20 ≠ 3 ∧ latPairOk (f 31 28) (f 27 24)
  | 0x41 => f 13 0 = 0
  | 0x42 => f 22 0 = 0
  | 0x52 | 0x53 | 0x54 | 0x55 | 0x56 | 0x5C | 0x5D => f 31 0 = 0
  | 0x57 | 0x58 | 0x59 => f 31 0 = 0 ∧ f 35 35 = 0
  | 0x5A | 0x5B => f 31 0 = 0 ∧ f 34 32 ≤ 2
  | 0x60 => f 31 0 = 0
  | 0x68 | 0x69 | 0x6A | 0x70 | 0x71 | 0x72 => f 31 0 = 0 ∧ f 34 32 = 0
  | _ => false

/-- The vector instructions of R92: those that issue whatever their predicate. -/
def isVector (op : Nat) : Bool := op = 0x38 ∨ op = 0x39 ∨ (0x50 ≤ op ∧ op ≤ 0x5D)

/-- The predicate of a word in a thread slot: p[PS] XOR PN (R92). -/
def Thread.pred (x : Thread) (w : Word) : Word := if wPn w = 1 then ~~~ (x.rp (wPs w)) else x.rp (wPs w)

/-- A WTICK with M = 1 must name an offset below the ring period (R97). -/
def State.wtickOk (s : State) (c : Nat) (w : Word) : Bool :=
  !(decide (wOp w = 0x05) && decide (wbits w 46 46 = 1)) || decide (wbits w 23 0 < (s.inst (s.coreInst c)).image.period)

/-- Registers an instruction reads (R91 to R107), by the numbers of `Thread.marks`: its predicate, and its operands where
it executes. -/
def wReads (w : Word) : List Nat :=
  let f := wbits w
  let a := f 51 47
  let b := f 46 42
  let opd2 := if f 36 36 = 1 then [] else [f 41 37]
  (if wPs w = 0 then [] else [48 + wPs w]) ++
  match wOp w with
  | 0x02 => [a]
  | 0x03 => if f 46 46 = 1 then [] else [a]
  | 0x05 => if f 46 46 = 0 then [a] else []
  | 0x10 | 0x11 | 0x12 | 0x13 | 0x14 | 0x15 | 0x16 | 0x17 | 0x1B => b :: opd2
  | 0x18 => if f 32 32 = 1 then [a] else []
  | 0x19 => if f 32 32 = 1 then [] else [b]
  | 0x1A => [b, f 41 37]
  | 0x23 | 0x24 => if f 36 34 = 0 then [] else [a, b]
  | 0x25 => [a, b, f 41 37]
  | 0x30 | 0x31 => [a]
  | 0x32 | 0x33 => [b]
  | 0x34 | 0x35 => [a, b]
  | 0x38 => f 47 43 :: (if f 37 35 = 0 then [] else [f 42 38])
  | 0x39 => [32 + f 51 48, f 47 43] ++ (if f 37 35 = 0 then [] else [f 42 38])
  | 0x50 => [f 47 43]
  | 0x51 => [32 + f 51 48, f 47 43]
  | 0x41 | 0x42 | 0x60 | 0x68 | 0x69 | 0x6A | 0x70 | 0x71 | 0x72 => [a]
  | 0x52 | 0x53 | 0x55 | 0x56 => [32 + f 47 44, 32 + f 43 40]
  | 0x54 => [32 + f 47 44, 32 + f 43 40, 32 + f 39 36]
  | 0x57 | 0x58 | 0x59 | 0x5A | 0x5B | 0x5C => [32 + f 47 44]
  | 0x5D => [32 + f 47 44, 32 + f 43 40] ++ (if f 34 32 = 0 then [] else [48 + f 34 32])
  | _ => []

/-- A corrected error of the register files or the instruction store (R114, R412). -/
def State.storeCe (s : State) (c t pc : Nat) (cb inj : Bool) : State :=
  (s.coreBucket c inj).raise { threadEvt c t pc 0x1 0 with cb := cb, inj := inj }

/-- An uncorrectable error in the fetched word or the thread's registers (R114): the thread traps with STORE_ECC, the index
or the register's number recorded; a second one within 24 h of network time retires the core (R413). -/
def State.storeEcc (s : State) (c t at_ : Nat) (inj : Bool) : State :=
  let s := s.coreBucket c inj
  let last := s.flt.storeEcc.get 0 c
  let again := last ≠ 0 ∧ s.ntu.elapsed + 1 - last ≤ 86400000000
  let s := if again then s.modCore c fun k => { k with retiring := true } else s
  let s := { s with flt := { s.flt with storeEcc := s.flt.storeEcc.set 0 c (s.ntu.elapsed + 1) } }
  s.trap c t causeStoreEcc (BitVec.ofNat 64 at_)

/-- What a checked word of the register files or the instruction store shows: `some true` an uncorrectable error. -/
def seenBad (m : Mark) (hit : Option Bool) : Bool :=
  match m, hit with
  | .ue, _ => true
  | .poison, _ => true
  | _, some true => true
  | _, _ => false

/-- The fetch of the word at a thread slot's program counter passes its check code (R114); a corrected word is rewritten.
The flag says that the thread slot has trapped. -/
def State.fetchCheck (s : State) (c t : Nat) : Bool × State :=
  let x := s.thr c t
  let i := x.ibase + x.pc
  let m := (s.core c).imarks.get .clean i
  let h := s.injHit (c / 8) i 8 false
  if seenBad m h.1 then (true, h.2.storeEcc c t x.pc (decide (m ≠ .ue) && decide (m ≠ .poison)))
  else if m = .clean ∧ h.1 = none then (false, h.2)
  else (false, (h.2.modCore c fun k => { k with imarks := k.imarks.erase i }).storeCe c t x.pc (decide (m ≠ .ce)) (decide (m = .clean)))

/-- The registers an instruction reads pass their check code, in order (R114). An injection meets a register only where it
names no instruction index (R420). The flag says that the thread slot has trapped. -/
def State.readCheck (s : State) (c t : Nat) : List Nat → Bool × State
  | [] => (false, s)
  | r :: rs =>
    let x := s.thr c t
    let m := x.marks.get .clean r
    let h := if s.flt.injAddr = 0 then s.injHit (c / 8) 0 8 false else (none, s)
    if seenBad m h.1 then (true, h.2.storeEcc c t r (decide (m ≠ .ue) && decide (m ≠ .poison)))
    else if m = .clean ∧ h.1 = none then h.2.readCheck c t rs
    else
      ((h.2.modThr c t fun x => { x with marks := x.marks.erase r }).storeCe c t x.pc (decide (m ≠ .ce)) (decide (m = .clean))).readCheck c t rs

/-- The shared rule of issue (R82, R89, R91, R92, R114): a RUNNING thread slot fetches the word at its program counter.
A fetch at or above IBOUND, a damaged word and a word that breaks its encoding trap, whatever instruction was to issue; a
word of another instruction than `op` leaves the state as it is; a damaged register that the instruction reads traps; a
predicate that is off only moves the program counter; otherwise `body` runs on the word. -/
def State.issue (s : State) (op c t : Nat) (body : Word → State → State) : State :=
  let x := s.thr c t
  if x.state ≠ .running ∨ s.warming then s
  else if x.pc ≥ x.ibound then s.trap c t causeIbound (BitVec.ofNat 64 x.pc)
  else
    let w := (s.core c).istore.get 0 (x.ibase + x.pc)
    let h := s.fetchCheck c t
    if h.1 then h.2
    else if ¬ opcodes.contains (wOp w) then h.2.trap c t causeIllegal w
    else if wOp w ≠ op then s
    else if ¬ (wordOk w && h.2.wtickOk c w) then h.2.trap c t causeIllegal w
    else
      let off := !isVector op && decide ((x.pred w).toNat % 2 = 0)
      let r := h.2.readCheck c t (if off then (if wPs w = 0 then [] else [48 + wPs w]) else wReads w)
      if r.1 then r.2
      else if off then r.2.advance c t
      else body w r.2

end Sys2Proof.Machine
end

