-- ==== Sys2Proof/Machine/Engines.lean ====
section
/-! DEFINITION. The queues of a core's engines: entering a queue, claims on cells, engine faults, and 64-byte block access
to an OVA (R86, R102, R110, R128, R131 to R134, R264). -/

namespace Sys2Proof.Machine

/-! ### Operations -/

def Op.op (o : Op) : Nat := wOp o.word
/-- The opcodes of the movement queue, of the Lattice queue; the rest is the service queue. -/
def isMove (op : Nat) : Bool := 0x30 ≤ op ∧ op ≤ 0x35
def isLat (op : Nat) : Bool := op = 0x40 ∨ op = 0x41 ∨ op = 0x42 ∨ op = 0x60
def isRemote (op : Nat) : Bool := op = 0x34 ∨ op = 0x35

/-- The CELL field of a word by format. -/
def wCell (w : Word) : Nat := if isMove (wOp w) then wbits w 41 31 else wbits w 46 36

/-- PF of a word by format. -/
def wPf (w : Word) : Bool := if isMove (wOp w) then wbits w 29 29 = 1 else wbits w 35 35 = 1

/-- The claim an operation makes on a cell of its own core: `some true` for TF = 1, `some false` for PF = 1. PF = 1 of
RPUT and RADD names the landing cell of the target window instead (R135). An operation with the NOP word is a TICK_PUT of
a gate, which fills its cell (R57). -/
def Op.flag (o : Op) : Option Bool :=
  match o.op with
  | 0x30 | 0x33 => if wPf o.word then some false else none
  | 0x31 | 0x32 => if wbits o.word 30 30 = 1 then some true else none
  | 0x41 => if wbits o.word 35 35 = 1 then some true else none
  | 0x00 => some false
  | 0x42 | 0x68 | 0x69 | 0x6A | 0x70 | 0x71 | 0x72 => if wPf o.word then some false else none
  | _ => none

/-- Operation `id` of a core. -/
def Core.findOp (k : Core) (id : Nat) : Option Op := k.allOps.find? fun o => o.id = id

/-- Changes operation `id` wherever it stands. -/
def Core.modOp (k : Core) (id : Nat) (f : Op → Op) : Core :=
  let g := fun o : Op => if o.id = id then f o else o
  { k with ops := k.ops.map g, lq := k.lq.map g, arr := k.arr.map fun r => { r with op := g r.op },
           drn := k.drn.map fun r => { r with op := g r.op } }

def State.modOp (s : State) (c id : Nat) (f : Op → Op) : State := s.modCore c fun k => k.modOp id f

/-- The WIN_TBL entry that a scheduled transfer has, and whether its sub-slot is yet to open (R64). -/
def State.winOf (s : State) (c : Nat) (o : Op) : Option WinEnt :=
  o.win.bind fun i => (s.inst (s.coreInst c)).image.wins[i]?

/-- An RPUT or RADD that WIN_TBL lists is held until its sub-slot is open (R64). -/
def State.heldByWin (s : State) (c : Nat) (o : Op) : Bool :=
  match s.winOf c o with
  | none => false
  | some e =>
    match (s.inst (s.coreInst c)).openSlots.find e.slot with
    | some k => k < e.sub
    | none => true

/-- Work on an operation may have begun: its claim is granted, or it needs none and is not held. -/
def State.opBegun (s : State) (c : Nat) (o : Op) : Bool :=
  o.started || (decide (o.flag = none) && !s.heldByWin c o)

/-- The earlier operations of the same thread slot in the same queue have begun (R108). -/
def State.inTurn (s : State) (c : Nat) (o : Op) : Bool :=
  o.reply.isSome || (s.core c).ops.all fun e => !(decide (e.t = o.t) && decide (e.id < o.id) && decide (isMove e.op = isMove o.op)) || s.opBegun c e

/-- Operations of a core whose turn has come begin to wait, where they wait at all (R130). -/
def State.noteTurns (s : State) (c : Nat) : State :=
  let ops := (s.core c).ops.map fun o => if !o.turn && s.inTurn c o then { o with turn := true, since := s.ntu.elapsed } else o
  s.modCore c fun k => { k with ops := ops }

/-! ### Clears (R141 to R143) -/

/-- No operation of the core is unfinished, and none of another core that was admitted into it (R143). -/
def State.coreQuiet (s : State) (c : Nat) : Bool :=
  (s.core c).ops.isEmpty && (s.core c).arr.isNone && (s.core c).drn.isNone
    && s.cores.all fun (e : Nat × Core) => e.2.ops.all fun o => (o.adm.map (·.1)) ≠ some c

/-- A clear that waits starts once every operation of the core and every access admitted into it has completed (R113,
R143): its windows close and CLEAR_BUSY is 1 until CLEAR_END. -/
def State.clearIfQuiet (s : State) (c : Nat) : State :=
  if (s.core c).wantClear ∧ s.coreQuiet c then
    let s := s.modCore c fun k => { k with
      wantClear := false, wins := k.wins.map fun (e : Nat × Window) => (e.1, { e.2 with opened := false }) }
    (s.setFld PRT_CNP_STATUS.WIN_OPEN c 0).setFld PRT_CNP_STATUS.CLEAR_BUSY c 1
  else s

/-- A clear of core `c` is to run; `killed` says that the thread slots' registers go with it (R113). -/
def State.startClear (s : State) (c : Nat) (killed : Bool) : State :=
  (s.modCore c fun k => { k with wantClear := true, killed := k.killed || killed }).clearIfQuiet c

/-- A clear of core `c` runs or waits to start. -/
def State.clearPending (s : State) (c : Nat) : Bool := decide (s.fld PRT_CNP_STATUS.CLEAR_BUSY c = 1) || (s.core c).wantClear

/-- An operation leaves its core: it is completed and acknowledged. -/
def State.dropOp (s : State) (c id : Nat) : State :=
  ((s.modCore c fun k => { k with ops := k.ops.filter (·.id ≠ id) }).noteTurns c).clearIfQuiet c

/-! ### Entering a queue (R86) -/

/-- The WIN_TBL entry under which a thread slot's transfer is scheduled (R64, R173), of those that name its source and its
target (`d` the descriptor, `n` the bytes): in the slot it issues in the one whose sub-slot is open or opens next, else the
first of that slot, else the first. -/
def State.winEntry (s : State) (c t : Nat) (d : Word) (n : Nat) : Option Nat :=
  let i := s.coreInst c
  let x := s.inst i
  let hits := (List.range x.image.wins.length).filter fun k => x.image.wins[k]?.any fun e =>
    decide (e.srcLcid = c) && decide (e.srcMember = s.memberIdx i) && decide (e.member = wbits d 55 48)
      && (if wbits d 63 63 = 1 then e.trunk && decide (e.base ≤ wbits d 47 0) && decide (wbits d 47 0 + n ≤ e.base + e.bound)
          else !e.trunk && decide (e.lcid = wbits d 47 39) && decide (e.win = wbits d 38 36))
  let at_ := fun p : WinEnt → Bool => hits.find? fun k => x.image.wins[k]?.any p
  let j := s.curSlot c t
  let sub := j.map fun j => x.openSlots.get 0 j
  ((at_ fun e => decide (j = some e.slot) && sub.any fun k => decide (k ≤ e.sub)).orElse
    fun _ => at_ fun e => decide (j = some e.slot)).orElse fun _ => hits.head?

/-- The open slot and sub-slot a thread slot issues in: slot × 16 + sub-slot. -/
def State.curSub (s : State) (c t : Nat) : Option Nat :=
  (s.curSlot c t).map fun j => j * 16 + (s.inst (s.coreInst c)).openSlots.get 0 j

/-- The configuration an LCFG word gives (R107). -/
def lcfgOf (w : Word) : LCfg :=
  { wfmt := wbits w 31 28, afmt := wbits w 27 24, gsz := wbits w 23 22, sfmt := wbits w 21 20, sr := wbits w 19 19 = 1 }

/-- The configuration slot `cs` as an LMAC issued now will find it: that of the last LCFG of the slot in the queue before it
(R147). -/
def Core.lcfgAhead (k : Core) (cs : Nat) : LCfg :=
  match (k.lq.filter fun o => decide (o.op = 0x40) && decide (wbits o.word 33 32 = cs)).getLast? with
  | some o => lcfgOf o.word
  | none => k.lcfg.get {} cs

/-- Bytes of the activation block of an LMAC (R149). -/
def lmacBytes (cfg : LCfg) (w : Word) : Nat :=
  (wbits w 30 23 + 1) * ((wbits w 22 14 + 1) * gSize cfg.gsz * elemBits cfg.afmt / 8)

/-- Precise checks of a Q-class instruction at issue: cause and recorded value (R89, R103, R109, R149). An extent that is not
known at issue is checked by the engine. -/
def Core.qCheck (k : Core) (x : Thread) (w : Word) : Option (Nat × Word) :=
  let a := x.rs (wbits w 51 47)
  let b := x.rs (wbits w 46 42)
  match wOp w with
  | 0x32 | 0x33 => if wbits w 23 0 ≠ 0 ∧ !x.inBounds b (8 * wbits w 23 0) then some (causeCbound, b) else none
  | 0x34 | 0x35 => if wbits w 23 0 ≠ 0 ∧ !x.inBounds b (wbits w 23 0) then some (causeCbound, b) else none
  | 0x41 =>
    if a.toNat % 64 ≠ 0 then some (causeAlign, a)
    else if !x.inBounds a (lmacBytes (k.lcfgAhead (wbits w 32 31)) w) then some (causeCbound, a)
    else none
  | 0x60 | 0x68 | 0x69 | 0x6A | 0x70 | 0x71 | 0x72 => if !x.inBounds a 64 then some (causeCbound, a) else none
  | _ => none

/-- The queue of a word has no free entry for a thread slot (R86): 8 per core for the Lattice, 16 and 4 per thread slot. -/
def Core.queueFull (k : Core) (t op : Nat) : Bool :=
  if isLat op then k.lq.length ≥ 8
  else if isMove op then (k.ops.filter fun o => o.t = t ∧ isMove o.op).length ≥ 16
  else (k.ops.filter fun o => o.t = t ∧ !isMove o.op).length ≥ 4

/-- Marks the steps carried by the slot thread slot (c, t) issues in, in the current schedule ring, as unordered, and counts
(R173). -/
def State.markUnordered (s : State) (c t : Nat) : State :=
  let p := partOf c
  let s := (s.setFld PRT_RADD_STATUS.RADD_UNORDERED p 1).inc PRT_RADD_STATUS.UNORD_CNT p
  let x := s.inst (s.coreInst c)
  (x.image.carriers [(s.curSlot c t).getD 0]).foldl (fun s p =>
    s.setSteps p ((s.stepsOf p).map fun r =>
      if r.ring = x.schedAt s.now then { r with unordered := true } else r)) s

/-- The executors of the Lattice take the entries at the head of its queue (R169): an LMAC goes to an idle array with its
slot's configuration (R147), an LDRAIN to an idle drain unit with a copy of its out-path slot (R184). LCFG and OCFG wait
for their own event. `fuel` bounds the entries taken. -/
def Core.pump (k : Core) (elapsed : Nat) : Nat → Core
  | 0 => k
  | fuel + 1 =>
    match k.lq with
    | o :: rest =>
      if o.op = 0x41 ∧ k.arr = none then
        { k with lq := rest, arr := some { op := { o with since := elapsed, turn := true }, cfg := k.lcfg.get {} (wbits o.word 32 31) } }.pump elapsed fuel
      else if o.op = 0x42 ∧ k.drn = none then
        let os := k.oslots.get {} (wbits o.word 33 31)
        { k with lq := rest, drn := some { op := { o with since := elapsed, turn := true }, cfg := {}, cfgRec := os.cfgRec, cfgValid := os.valid } }.pump elapsed fuel
      else k
    | [] => k

/-- A Q-class instruction enters its queue, or leaves its thread slot BLOCKED while the queue is full (R86). -/
def State.enqueue (s : State) (c t : Nat) (w : Word) : State :=
  let x := s.thr c t
  let k := s.core c
  let op := wOp w
  if k.queueFull t op then s.setThr c t { x with state := .blocked, wait := .queue, since := s.ntu.elapsed }
  else
    match k.qCheck x w with
    | some (cause, addr) => (s.setThr c t { x with state := .running, wait := .none }).trap c t cause addr
    | none =>
      let a := x.rs (wbits w 51 47)
      let n := if wbits w 23 0 = 0 then (s.cell c (wCell w)).size else wbits w 23 0
      let win := if isRemote op then s.winEntry c t a n else none
      let o : Op := { id := k.nextOp, arrival := s.arrivals, t := t, word := w, a := a, b := x.rs (wbits w 46 42), fpc := x.pc, cbase := x.cbase,
                      cbound := x.cbound, ctx := (s.boundCtx c).getD 0, sub := if isMove op then s.curSub c t else none,
                      since := s.ntu.elapsed, win := win }
      let s := { s.setThr c t { x with state := .running, wait := .none, pc := x.pc + 1 } with arrivals := s.arrivals + 1 }
      let s := s.modCore c fun k =>
        if isLat op then { k with lq := k.lq ++ [o], nextOp := k.nextOp + 1 }.pump s.ntu.elapsed 8
        else { k with ops := k.ops ++ [o], nextOp := k.nextOp + 1 }
      let s := s.noteTurns c
      if op = 0x35 ∧ win = none then s.markUnordered c t else s

/-- A thread blocked on a full queue issues its instruction once an entry frees (R86). -/
def execQueueEntryFree (c : Lcid) (t : TSlot) (s : State) : Host.Outcome State Fault Refusal :=
  .next (
    let x := s.thr c t
    if x.state = .blocked ∧ x.wait = .queue then s.enqueue c t ((s.core c).istore.get 0 (x.ibase + x.pc)) else s)

/-! ### Engine faults (R110) -/

/-- What an engine's work meets. -/
structure Fail where
  cause : Nat
  addr : Word
  wrAddr : Nat := 0
  wrBytes : Nat := 0
  noGolden : Bool := false
deriving DecidableEq, Repr

/-- An engine has an imprecise exception to report. -/
def State.engFault (s : State) (c : Nat) (o : Op) (f : Fail) : State :=
  s.modCore c fun k => { k with faults := k.faults ++
    [{ t := o.t, cause := f.cause, addr := f.addr, fpc := o.fpc, wrAddr := f.wrAddr, wrBytes := f.wrBytes, noGolden := f.noGolden }] }

/-- An engine reports an imprecise exception; the thread slot traps before its next issue (R110). -/
def execEngineFaultReport (c : Lcid) (s : State) : Host.Outcome State Fault Refusal :=
  .next (
    match (s.core c).faults with
    | [] => s
    | f :: rest =>
      let s := s.modCore c fun k => { k with faults := rest }
      s.trapAt c f.t f.cause f.addr f.fpc (s.thr c f.t).pc f.noGolden f.wrAddr f.wrBytes)

/-! ### Claims (R102, R128) -/

/-- A claim may be granted: TF on a full and unclaimed cell, PF on an empty, unclaimed and defined one. -/
def Cell.claimable (x : Cell) (tf : Bool) : Bool :=
  !x.claimed && (if tf then x.full else !x.full && x.defined)

/-- The claiming operation ends: TF empties the cell, PF fills it. -/
def State.finishCell (s : State) (c k : Nat) (tf : Bool) : State :=
  s.setCell c k { s.cell c k with full := !tf, claimed := false }

/-- A claim is given up; the tag stays. -/
def State.abandonCell (s : State) (c k : Nat) : State := s.setCell c k { s.cell c k with claimed := false }

/-- An operation that stops without completing gives up the claims it holds. -/
def State.abandonOp (s : State) (c : Nat) (o : Op) : State :=
  if !o.started then s else
    match o.flag, o.adm with
    | some _, _ => s.abandonCell c (wCell o.word)
    | none, some (tc, _, some cell) => s.abandonCell tc cell
    | _, _ => s

/-- The gather buffers an operation used write back when it ends (R124). An access admitted into another core leaves it
quiet. -/
def State.flushOp (s : State) (c : Nat) (o : Op) : State :=
  match o.adm with
  | some (tc, _, _) => ((s.endBuf tc portRemote).endBuf c portRemote).clearIfQuiet tc
  | none => s.endBuf c portRemote

/-- An operation ends with an engine fault. -/
def State.failOp (s : State) (c : Nat) (o : Op) (f : Fail) : State :=
  (((s.abandonOp c o).engFault c o f).dropOp c o.id).flushOp c o

/-- An operation completes: its cell is emptied or filled, and it leaves its queue. -/
def State.endOp (s : State) (c : Nat) (o : Op) : State :=
  let s := match o.flag, o.adm with
    | some tf, _ => s.finishCell c (wCell o.word) tf
    | none, some (tc, _, some cell) => s.finishCell tc cell false
    | _, _ => s
  (s.dropOp c o.id).flushOp c o

/-- The slot and sub-slot of an operation, slot × 16 + sub-slot: those of its WIN_TBL entry, else those it was issued in
(R64). -/
def State.opSub (s : State) (c : Nat) (o : Op) : Option Nat :=
  match s.winOf c o with
  | some e => some (e.slot * 16 + e.sub)
  | none => o.sub

/-! ### Order of requests (R17, R172) -/

/-- Dies a request between two compute dies passes, on the fixed routes of R17. -/
def dieRoute (src dst : Nat) : List Nat :=
  if (src = 0 ∧ dst = 3) ∨ (src = 3 ∧ dst = 0) then [src, 1, dst]
  else if (src = 1 ∧ dst = 2) ∨ (src = 2 ∧ dst = 1) then [src, 0, dst]
  else if src = dst then [src] else [src, dst]

/-- What a transfer is sent to: the member, and on this device the core (0 to 511), stack (from 512) or tower (from 544). -/
def State.target (s : State) (c : Nat) (o : Op) : Nat × Nat :=
  let m := wbits o.a 55 48
  let ova := wbits o.a 47 0
  (m,
    if wbits o.a 63 63 = 0 then wbits o.a 47 39
    else if m ≠ s.memberIdx (s.coreInst c) then 1024
    else
      match place ((s.pte o.ctx ova).dpa ova) with
      | .canopy tc _ => tc
      | .trunk st _ => 512 + st
      | .clasp st _ => 512 + st
      | .root t _ => 544 + t
      | .none => 1024)

/-- The requests of one source reach one target in issue order, since their route does not change (R17, R172): what its core
issued earlier to the same target has arrived or been sent, but for what WIN_TBL still holds at the source. -/
def State.arrives (s : State) (c : Nat) (o : Op) : Bool :=
  (s.core c).ops.all fun e =>
    !(isRemote e.op && decide (e.id < o.id) && e.reply.isNone && decide (s.target c e = s.target c o) && !s.heldByWin c e)
      || e.sent || e.remote || e.adm.isSome

/-- A transfer of core `c` that was admitted earlier and waits for its landing cell will write bytes of
[ofs, ofs + n) of core `tc` (R172). -/
def State.landsOn (s : State) (c id tc ofs n : Nat) : Bool :=
  (s.core c).ops.any fun e => decide (e.id < id) && e.reply.isNone && e.adm.any fun a =>
    decide (a.1 = tc) && decide (a.2.1 < ofs + n) && decide (ofs < a.2.1 + e.data.length)

/-- A waiting engine operation is granted the claim on its cell when the tag allows (R128). For a remote transfer that was
admitted with PF = 1 the cell is the landing cell (R135). An operation on the array or in the drain unit claims there. -/
def execEngineClaimGrant (c : Lcid) (op : Nat) (s : State) : Host.Outcome State Fault Refusal :=
  .next (
    match (s.core c).findOp op with
    | none => s
    | some o =>
      let queued := (s.core c).lq.any (·.id = op)
      if o.started ∨ queued ∨ !s.inTurn c o then s
      else
        match o.flag, o.adm with
        | some tf, _ =>
          let k := wCell o.word
          let x := s.cell c k
          if x.claimable tf then
            ((s.setCell c k { x with claimed := true }).modOp c op fun o =>
              { o with started := true, base := x.base, size := x.size }).noteTurns c
          else s
        | none, some (tc, _, some k) =>
          let x := s.cell tc k
          if x.claimable false then
            ((s.setCell tc k { x with claimed := true }).modOp c op fun o => { o with started := true }).noteTurns c
          else s
        | _, _ => s)

/-! ### Block access (R264) -/

/-- A window admits a source (R132, R133). -/
def Window.admits (x : Window) (member lcid : Nat) : Bool :=
  let m := wbits x.src 63 56
  x.opened && (decide (m = 0xFF) || decide (m = member)) && decide ((lcid ^^^ wbits x.src 55 47) &&& wbits x.src 46 38 = 0)

/-- The window an access by address matches (R133, R134): the lowest of those that hold all its bytes and admit the source;
none where the core is bound to another context than `ctx`. A refusal and a multiple match are counted. -/
def State.matchWin (s : State) (tc ctx member lcid ofs n : Nat) : Option Window × State :=
  let hits := ((List.range 8).map fun w => (s.core tc).wins.get {} w).filter fun x =>
    x.admits member lcid && decide (x.base ≤ ofs) && decide (ofs + n ≤ x.base + x.bound)
      && decide (s.boundCtx tc = some ctx) && decide (s.fld PRT_CNP_STATUS.CLEAR_BUSY tc = 0)
  match hits with
  | [] => (none, s.inc PRT_CNP_WIN.REFUSED tc)
  | [x] => (some x, s)
  | x :: _ => (some x, s.inc PRT_CNP_WIN.MULTI_HIT tc)

/-- Joins a piece of Canopy to the one before it where it continues it. -/
def joinSeg (l : List (Nat × Nat × Nat)) (x : Nat × Nat × Nat) : List (Nat × Nat × Nat) :=
  match l with
  | (tc, ofs, n) :: r => if tc = x.1 ∧ ofs + n = x.2.1 then (tc, ofs, n + x.2.2) :: r else x :: l
  | [] => [x]

/-- The ranges of Canopy, (core, offset, bytes), that [ova, ova + n) of a context resolves to. -/
def State.canopySegs (s : State) (ctx ova n : Nat) : List (Nat × Nat × Nat) :=
  ((ovaPieces (n / 65536 + 2) ova n).foldl (fun l p =>
    let e := s.pte ctx p.1
    match place (e.dpa p.1) with
    | .canopy tc ofs => if e.present then joinSeg l (tc, ofs, p.2) else l
    | _ => l) []).reverse

/-- An access by address passes the windows of every core whose Canopy it touches, each once, before any byte of it is
performed (R131, R133, R134). -/
def State.admitOva (s : State) (c ctx ova n : Nat) : Bool × State :=
  (s.canopySegs ctx ova n).foldl (fun r g =>
    if r.1 then
      let m := r.2.matchWin g.1 ctx (s.memberIdx (s.coreInst c)) c g.2.1 g.2.2
      (m.1.isSome, m.2)
    else r) (true, s)

/-- A block read: its bytes; a wait for the restore of a golden copy, for the clasp, a tower or a grant (R416); or the cause that stops it and whether data
without a golden copy is at fault. -/
inductive BlockR where
  | ok (bs : List Byte)
  | wait
  | bad (cause : Nat) (noGolden : Bool)
deriving DecidableEq, Repr

/-- The pieces of [ova, ova + n) that lie in one page each. -/
def pagePieces (ova n : Nat) : List (Nat × Nat) :=
  let m := 65536 - ova % 65536
  if n ≤ m then [(ova, n)] else [(ova, m), (ova + m, n - m)]

/-- Reads one piece of a block of an admitted access of context `ctx`, for partition `p` (R21): a Root page waits for its
tower and for a grant, a Trunk page is charged. -/
def State.readPiece (s : State) (p ctx ova n : Nat) : BlockR × State :=
  let e := s.pte ctx ova
  if !e.present then (.bad causeXlate false, s)
  else
    match place (e.dpa ova) with
    | .canopy tc ofs =>
      let r := s.portRead tc portRemote ofs n
      match r.1.1 with
      | some bs => (.ok bs, r.2)
      | none => (.bad causePoison (r.2.noGold tc r.1.2), r.2)
    | _ =>
      match s.rootBlock p (e.dpa ova) with
      | none => (.wait, s)
      | some s =>
        if s.claspHolds s.arrivals (e.dpa ova) n ∨ s.marked .poison (e.dpa ova) n ∧ s.goldenAt ctx ova then (.wait, s)
        else
          let s := s.readTrunk p (some ctx) (e.dpa ova) n
          if s.poisonedAt (e.dpa ova) n then (.bad causePoison (!s.goldenAt ctx ova), s)
          else (.ok (s.readDpa (e.dpa ova) n), s)

/-- Reads pieces in order. -/
def State.readPieces (s : State) (p ctx : Nat) : List (Nat × Nat) → BlockR × State
  | [] => (.ok [], s)
  | (a, n) :: ps =>
    let r := s.readPiece p ctx a n
    match r.1 with
    | .ok bs =>
      let q := r.2.readPieces p ctx ps
      match q.1 with
      | .ok cs => (.ok (bs ++ cs), q.2)
      | x => (x, q.2)
    | x => (x, r.2)

/-- Reads a block of `n` bytes, at most 64, at an OVA. -/
def State.readBlock (s : State) (p ctx ova n : Nat) : BlockR × State := s.readPieces p ctx (pagePieces ova n)

/-- What a write of a piece meets: nothing, or a cause. Writes need W = 1. -/
def State.writeCause (s : State) (ctx ova : Nat) : Option Nat :=
  let e := s.pte ctx ova
  if !e.present then some causeXlate else if !e.w then some causeProt else none

/-- The first page of a range of OVAs, counted from 1, whose tile a migration copies: a write to it waits (R275). -/
def State.migPage (s : State) (ctx ova n : Nat) : Option Nat :=
  ((ovaPieces (n / 65536 + 2) ova n).findIdx? fun q => (s.pte ctx q.1).mig).map (· + 1)

/-- Clasp work accepted earlier has still to act on the sectors of a range of OVAs: a write waits for it (R315). -/
def State.claspOn (s : State) (ctx ova n : Nat) : Bool :=
  (ovaPieces (n / 65536 + 2) ova n).any fun q =>
    let e := s.pte ctx q.1
    e.present && s.claspHolds s.arrivals (e.dpa q.1) q.2

def State.migBlocks (s : State) (ctx ova n : Nat) : Bool := (s.migPage ctx ova n).isSome

/-- Writes one piece of a block of an admitted access, for partition `p`. -/
def State.writePiece (s : State) (p ctx ova : Nat) (bs : List Byte) : Option Nat × State :=
  match s.writeCause ctx ova with
  | some x => (some x, s)
  | none =>
    let e := s.pte ctx ova
    match place (e.dpa ova) with
    | .canopy tc ofs => (none, s.portWrite tc portRemote ofs bs)
    | _ => (none, s.writeTrunk p (some ctx) (e.dpa ova) bs)

/-- Writes a block at an OVA: nothing of it is written if any piece is refused. -/
def State.writeBlock (s : State) (p ctx ova : Nat) (bs : List Byte) : Option Nat × State :=
  match (pagePieces ova bs.length).findSome? fun q => s.writeCause ctx q.1 with
  | some x => (some x, s)
  | none =>
    (pagePieces ova bs.length).foldl (fun r q =>
      match r.1 with
      | some x => (some x, r.2)
      | none => r.2.writePiece p ctx q.1 ((bs.drop (q.1 - ova)).take q.2)) (none, s)

end Sys2Proof.Machine
end

