-- ==== Sys2Proof/Machine/Movement.lean ====
section
/-! DEFINITION. Movement instructions and the completion of their transfers (R103, R133 to R135, R171 to R174, R205,
R389). -/

namespace Sys2Proof.Machine

/-- TLOAD (R103). -/
def execTload (c : Lcid) (t : TSlot) (s : State) : Host.Outcome State Fault Refusal :=
  .next (s.issue 0x30 c t fun w s => s.enqueue c t w)
/-- TSTORE (R103). -/
def execTstore (c : Lcid) (t : TSlot) (s : State) : Host.Outcome State Fault Refusal :=
  .next (s.issue 0x31 c t fun w s => s.enqueue c t w)
/-- TSCAT (R103, R205). -/
def execTscat (c : Lcid) (t : TSlot) (s : State) : Host.Outcome State Fault Refusal :=
  .next (s.issue 0x32 c t fun w s => s.enqueue c t w)
/-- TGATH (R103). -/
def execTgath (c : Lcid) (t : TSlot) (s : State) : Host.Outcome State Fault Refusal :=
  .next (s.issue 0x33 c t fun w s => s.enqueue c t w)
/-- RPUT (R103). -/
def execRput (c : Lcid) (t : TSlot) (s : State) : Host.Outcome State Fault Refusal :=
  .next (s.issue 0x34 c t fun w s => s.enqueue c t w)
/-- RADD (R103, R171, R173). -/
def execRadd (c : Lcid) (t : TSlot) (s : State) : Host.Outcome State Fault Refusal :=
  .next (s.issue 0x35 c t fun w s => s.enqueue c t w)

/-! ### Cells and lengths -/

/-- Base and size of an operation's cell, fixed when it starts (R126). -/
def State.opCell (s : State) (c : Nat) (o : Op) : Nat × Nat :=
  if o.started then (o.base, o.size)
  else
    let x := s.cell c (wCell o.word)
    (x.base, x.size)

/-- The operation starts, if it has not: it keeps its cell's base and size from now on (R126). -/
def State.startOp (s : State) (c : Nat) (o : Op) : Op × State :=
  let b := s.opCell c o
  let o' := { o with started := true, base := b.1, size := b.2 }
  (o', s.modOp c o.id fun _ => o')

/-- LEN of an operation: 0 means the size of its cell. -/
def State.opLen (s : State) (c : Nat) (o : Op) : Nat :=
  if wbits o.word 23 0 = 0 then (s.opCell c o).2 else wbits o.word 23 0

/-- CBOUND: the operation's bytes would extend past its cell; the offset of the first such byte is recorded (R128). -/
def pastCell (o : Op) (base size : Nat) : Fail :=
  { cause := causeCbound, addr := BitVec.ofNat 64 (base + size) - BitVec.ofNat 64 o.cbase }

/-- How far a transfer has come: it goes on, it waits at its `done` (R206, R275), or it fails. -/
inductive Moved where
  | done
  | waits
  | bad (f : Fail)
deriving DecidableEq, Repr

/-- The operation waits where it stands, at `done`, having written from address `first` on; each wait is counted once by
`f`. -/
def State.holdOp (s : State) (c : Nat) (o : Op) (done first : Nat) (f : State → State) : State :=
  let s := if o.held ∧ done = o.done then s else f s
  s.modOp c o.id fun o => { o with done := done, first := first, held := true, admitted := true, kvWait := none }

/-- The operation waits, at `done`, for preparation or a tentative slot of sequence `q`: KV_WAITS counts the wait, which is
an engine's tag wait (R130, R206, R207). -/
def State.kvHold (s : State) (c : Nat) (o : Op) (done first q : Nat) : State :=
  if o.kvWait.isSome ∧ done = o.done then s
  else
    (s.inc PRT_KV_ATT.KV_WAITS (partOf c)).modOp c o.id fun o =>
      { o with done := done, first := first, held := true, admitted := true, kvWait := some (s.ntu.elapsed, q) }

/-- The operation waits, at `done`, for a block at an OVA of its context: for the restore of a golden copy, for a grant, or
for its tower, which is an engine's tag wait while the tower is UNMOUNTED or OFF (R130, R335). A wait for tower `t` is kept
under the number 2^18 + t. -/
def State.rootHold (s : State) (c : Nat) (o : Op) (done first ova : Nat) : State :=
  match s.towerDown ((s.pte o.ctx ova).dpa ova) with
  | none => s.holdOp c o done first id
  | some t =>
    if o.kvWait.isSome ∧ done = o.done then s
    else s.modOp c o.id fun o => { o with done := done, first := first, held := true, admitted := true,
                                          kvWait := some (s.ntu.elapsed, 2 ^ 18 + t) }

/-- An access by address of a movement operation is admitted by the windows it passes, once (R131, R133). -/
def State.admitOp (s : State) (c : Nat) (o : Op) (ova n : Nat) : Option Fail × State :=
  if o.admitted then (none, s)
  else
    let r := s.admitOva c o.ctx ova n
    (if r.1 then none else some { cause := causeWindow, addr := BitVec.ofNat 64 ova }, r.2)

/-! ### TLOAD and TSTORE, block by block from block `j` -/

def State.loadBlocks (s : State) (c : Nat) (o : Op) (base : Nat) : Nat → Nat → Moved × State
  | 0, _ => (.done, s)
  | fuel + 1, j =>
    let ova := o.a.toNat + 64 * j
    let r := s.readBlock (partOf c) o.ctx ova 64
    match r.1 with
    | .bad x g => (.bad { cause := x, addr := BitVec.ofNat 64 ova, wrAddr := canopyDpa c base, wrBytes := 64 * j, noGolden := g }, r.2)
    | .wait => (.waits, r.2.rootHold c o j 0 ova)
    | .ok bs => (r.2.portWrite c portRemote (base + 64 * j) bs).loadBlocks c o base fuel (j + 1)

def State.storeBlocks (s : State) (c : Nat) (o : Op) (base : Nat) : Nat → Nat → Moved × State
  | 0, _ => (.done, s)
  | fuel + 1, j =>
    let ova := o.a.toNat + 64 * j
    if s.claspOn o.ctx ova 64 then (.waits, s.holdOp c o j 0 id)
    else if s.migBlocks o.ctx ova 64 then
      (.waits, s.holdOp c o j 0 fun s => s.inc PRT_XL_MIG.MIG_WAITS (partOf c))
    else
      let r := s.portRead c portRemote (base + 64 * j) 64
      match r.1.1 with
      | none => (.bad { cause := causePoison, addr := BitVec.ofNat 64 (canopyDpa c (r.1.2 * 8)), wrAddr := o.a.toNat
                        wrBytes := 64 * j, noGolden := r.2.noGold c r.1.2 }, r.2)
      | some bs =>
        match r.2.writeBlock (partOf c) o.ctx ova bs with
        | (some x, s) => (.bad { cause := x, addr := BitVec.ofNat 64 ova, wrAddr := o.a.toNat, wrBytes := 64 * j }, s)
        | (none, s) => s.storeBlocks c o base fuel (j + 1)

/-! ### TSCAT and TGATH, row by row (R103, R205) -/

/-- Writes one row at a plain OVA, in blocks of 64 bytes. -/
def State.rowOut (s : State) (p ctx : Nat) : Nat → Nat → List Byte → Option (Nat × Nat) × State
  | 0, _, _ => (none, s)
  | fuel + 1, ova, bs =>
    match s.writeBlock p ctx ova (bs.take 64) with
    | (some x, s) => (some (x, ova), s)
    | (none, s) => s.rowOut p ctx fuel (ova + 64) (bs.drop 64)

/-- Reads one row at a plain OVA, in blocks of 64 bytes. -/
def State.rowIn (s : State) (p ctx : Nat) : Nat → Nat → (List Byte × Option (BlockR × Nat)) × State
  | 0, _ => (([], none), s)
  | fuel + 1, ova =>
    let r := s.readBlock p ctx ova 64
    match r.1 with
    | .bad x g => (([], some (.bad x g, ova)), r.2)
    | .wait => (([], some (.wait, ova)), r.2)
    | .ok bs =>
      let q := r.2.rowIn p ctx fuel (ova + 64)
      ((bs ++ q.1.1, q.1.2), q.2)

/-- Reads a list entry of 8 bytes at the operation's local offset s[B]. -/
def State.listEntry (s : State) (c : Nat) (o : Op) (r : Nat) : (Option Nat × Nat) × State :=
  let q := s.portRead c portRemote (o.cbase + o.b.toNat + 8 * r) 8
  ((q.1.1.map leNat, q.1.2), q.2)

/-- TSCAT from row `r`; `o.first` is the address of the first row written, once there is one (R110). -/
def State.scatRows (s : State) (c : Nat) (base units : Nat) : Nat → Nat → Op → Moved × State
  | 0, _, _ => (.done, s)
  | fuel + 1, r, o =>
    let rs := 64 * units
    let f : Fail := { cause := causePoison, addr := 0, wrAddr := o.first, wrBytes := r * rs }
    let poison := fun (q : State) (w : Nat) => (Moved.bad { f with addr := BitVec.ofNat 64 (canopyDpa c (w * 8)), noGolden := q.noGold c w }, q)
    let e := s.listEntry c o r
    match e.1.1 with
    | none => poison e.2 e.1.2
    | some ent =>
      let o := { o with first := if r = 0 then ent else o.first }
      let row := e.2.portRead c portRemote (base + r * rs) rs
      match row.1.1 with
      | none => poison row.2 row.1.2
      | some bs =>
        if ent ≥ 2 ^ 63 then
          match row.2.append o.ctx ent bs with
          | .refused => (.bad { f with cause := causeProt, addr := BitVec.ofNat 64 ent }, row.2)
          | .waits => (.waits, row.2.kvHold c o r o.first (bitsOf ent 26 18))
          | .done s => s.scatRows c base units fuel (r + 1) o
        else if ent ≥ 2 ^ 48 then (.bad { f with cause := causeXlate, addr := BitVec.ofNat 64 ent }, row.2)
        else if row.2.claspOn o.ctx ent rs then (.waits, row.2.holdOp c o r o.first id)
        else if row.2.migBlocks o.ctx ent rs then
          (.waits, row.2.holdOp c o r o.first fun s => s.inc PRT_XL_MIG.MIG_WAITS (partOf c))
        else
          match row.2.admitOva c o.ctx ent rs with
          | (false, s) => (.bad { f with cause := causeWindow, addr := BitVec.ofNat 64 ent }, s)
          | (true, s) =>
            match s.rowOut (partOf c) o.ctx units ent bs with
            | (some (x, ova), s) =>
              (.bad { f with cause := x, addr := BitVec.ofNat 64 ova, wrAddr := o.first, wrBytes := r * rs + (ova - ent) }, s)
            | (none, s) => s.scatRows c base units fuel (r + 1) o

def State.gathRows (s : State) (c : Nat) (o : Op) (base units : Nat) : Nat → Nat → Moved × State
  | 0, _ => (.done, s)
  | fuel + 1, r =>
    let e := s.listEntry c o r
    let f : Fail := { cause := causeXlate, addr := 0, wrAddr := canopyDpa c base, wrBytes := r * 64 * units }
    match e.1.1 with
    | none =>
      (.bad { f with cause := causePoison, addr := BitVec.ofNat 64 (canopyDpa c (e.1.2 * 8)), noGolden := e.2.noGold c e.1.2 }, e.2)
    | some ent =>
      if ent ≥ 2 ^ 48 then (.bad { f with addr := BitVec.ofNat 64 ent }, e.2)
      else
        match e.2.admitOva c o.ctx ent (64 * units) with
        | (false, s) => (.bad { f with cause := causeWindow, addr := BitVec.ofNat 64 ent }, s)
        | (true, s) =>
        match s.rowIn (partOf c) o.ctx units ent with
        | ((_, some (.bad x g, ova)), s) => (.bad { f with cause := x, addr := BitVec.ofNat 64 ova, noGolden := g }, s)
        | ((_, some (_, ova)), s) => (.waits, s.rootHold c o r 0 ova)
        | ((bs, none), s) => (s.portWrite c portRemote (base + r * 64 * units) bs).gathRows c o base units fuel (r + 1)

/-! ### RPUT and RADD -/

/-- Element-wise addition of RADD: FP32 half to even, or INT32 with wrap-around (R103, R171). -/
def addElems (int : Bool) : Nat → List Byte → List Byte → List Byte
  | 0, _, _ => []
  | n + 1, a, b =>
    let x := BitVec.ofNat 32 (leNat (a.take 4))
    let y := BitVec.ofNat 32 (leNat (b.take 4))
    leBytes ((if int then x + y else f32add x y).toNat) 4 ++ addElems int n (a.drop 4) (b.drop 4)

/-- Some of [ova, ova + n) is poisoned and has a golden copy: a read of it waits for the restore (R416). -/
def State.goldenWait (s : State) (ctx ova n : Nat) : Bool :=
  (ovaPieces (n / 65536 + 2) ova n).any fun p =>
    let e := s.pte ctx p.1
    e.present && decide (e.tier ≠ .canopy) && s.marked .poison (e.dpa p.1) p.2 && s.goldenAt ctx p.1

/-- Writes or adds the blocks of an admitted transfer at an OVA of context `ctx`, in ascending address order; a block that
is refused or reads poison is left as it is, and the blocks before it stand (R171, R172, R174). -/
def State.trunkBlocks (s : State) (p ctx : Nat) (add : Option Bool) : Nat → Nat → Nat → List Byte → Option Fail × State
  | 0, _, _, _ => (none, s)
  | fuel + 1, ova, done, bs =>
    if bs = [] then (none, s)
    else
      let blk := bs.take 64
      let f : Fail := { cause := causeXlate, addr := BitVec.ofNat 64 (ova + done), wrAddr := ova, wrBytes := done }
      let go := fun (s : State) (v : List Byte) =>
        match s.writeBlock p ctx (ova + done) v with
        | (some x, s) => (some { f with cause := x }, s)
        | (none, s) => (none, s)
      let r : Option Fail × State :=
        match add with
        | none => go s blk
        | some int =>
          match (pagePieces (ova + done) blk.length).findSome? fun q => s.writeCause ctx q.1 with
          | some x => (some { f with cause := x }, s)
          | none =>
            let q := s.readBlock p ctx (ova + done) blk.length
            match q.1 with
            | .bad x g => (some { f with cause := x, noGolden := g }, q.2)
            | .wait => (some { f with cause := causePoison, noGolden := true }, q.2)
            | .ok old => go q.2 (addElems int (blk.length / 4) old blk)
      match r with
      | (some f, s) => (some f, s)
      | (none, s) => s.trunkBlocks p ctx add fuel ova (done + 64) (bs.drop 64)

/-- Writes or adds the blocks of a transfer to Canopy bytes of core `tc`, through its remote port; a block with a poisoned
word is left as it is, and the blocks before it stand (R171, R172, R174). -/
def State.canopyBlocks (s : State) (tc : Nat) (add : Option Bool) : Nat → Nat → Nat → List Byte → Option Fail × State
  | 0, _, _, _ => (none, s)
  | fuel + 1, ofs, done, bs =>
    if bs = [] then (none, s)
    else
      let blk := bs.take 64
      match add with
      | none => (s.portWrite tc portRemote (ofs + done) blk).canopyBlocks tc add fuel ofs (done + 64) (bs.drop 64)
      | some int =>
        let q := s.portRead tc portRemote (ofs + done) blk.length
        match q.1.1 with
        | none => (some { cause := causePoison, addr := BitVec.ofNat 64 (canopyDpa tc (q.1.2 * 8)), wrAddr := canopyDpa tc ofs
                          wrBytes := done, noGolden := q.2.noGold tc q.1.2 }, q.2)
        | some old =>
          (q.2.portWrite tc portRemote (ofs + done) (addElems int (blk.length / 4) old blk)).canopyBlocks tc add fuel ofs (done + 64) (bs.drop 64)

/-- What an RPUT or RADD adds: nothing, FP32 (`false`) or INT32 (`true`). -/
def Op.adds (o : Op) : Option Bool := if o.op = 0x35 then some (wbits o.word 24 24 = 1) else none

/-- The source engine's refusals before anything is sent: extent, descriptor, member (R103, R135). -/
def State.remoteCheck (s : State) (c : Nat) (o : Op) : Option Fail :=
  let n := s.opLen c o
  let d := o.a
  let i := s.coreInst c
  let kind1 := wbits d 63 63 = 1
  if o.b.toNat + n > o.cbound then some { cause := causeCbound, addr := o.b }
  else if (kind1 ∧ wbits d 62 56 ≠ 0) ∨ (¬ kind1 ∧ (wbits d 62 56 ≠ 0 ∨ wbits d 35 21 ≠ 0)) then some { cause := causeProt, addr := d }
  else if wbits d 55 48 ≠ s.memberIdx i ∧ ((s.inst i).image.scope = 0 ∨ wbits d 55 48 ≥ (s.inst i).image.members.length) then
    some { cause := causeProt, addr := d }
  else none

/-- The bytes an RPUT or RADD reads at its source. -/
def State.remoteData (s : State) (c : Nat) (o : Op) : Except Fail (List Byte) × State :=
  let r := s.portRead c portRemote (o.cbase + o.b.toNat) (s.opLen c o)
  match r.1.1 with
  | some bs => (.ok bs, r.2)
  | none => (.error { cause := causePoison, addr := BitVec.ofNat 64 (canopyDpa c (r.1.2 * 8)), noGolden := r.2.noGold c r.1.2 }, r.2)

/-- The frames of a transfer to another device, in ascending address order (R389). -/
def remoteFrames (f : TxFrame) : Nat → Nat → List Byte → List TxFrame
  | 0, _, _ => []
  | fuel + 1, arg, bs =>
    if bs = [] then [] else
      { f with arg := arg, payload := bs.take 512, last := decide (bs.length ≤ 512) } :: remoteFrames f fuel (arg + 512) (bs.drop 512)

/-- Sends an RPUT or RADD to another device; its RESP will acknowledge it (R389). -/
def State.sendRemote (s : State) (c : Nat) (o : Op) (bs : List Byte) : State :=
  let i := s.coreInst c
  let f : TxFrame :=
    { typ := match o.adds with | none => 0x04 | some false => 0x05 | some true => 0x06
      vc := 1, dst := wbits o.a 55 48, src := s.memberIdx i, epoch := s.fld VF_CTX_STATUS.EPOCH o.ctx
      tag := c * 2 ^ 23 + o.id % 2 ^ 23, land := wPf o.word }
  match (s.inst i).image.members[wbits o.a 55 48]? with
  | none => s
  | some m =>
    ((remoteFrames f (bs.length / 512 + 1) o.a.toNat bs).foldl (fun s f => s.sendMember m f) s).modOp c o.id
      fun o => { o with remote := true, since := s.ntu.elapsed }

/-- Answers a transfer of member `m` of instance `i` with a RESP (R389). -/
def State.respond (s : State) (i m tag status : Nat) : State :=
  match (s.inst i).image.members[m]? with
  | some e => s.sendMember e { typ := 0x07, vc := 0, dst := m, src := s.memberIdx i, arg := status + tag * 256 }
  | none => s

/-- A transfer of another device that holds its landing cell's claim writes its data, fills the cell and is answered
(R135, R389). -/
def State.landIn (s : State) (c : Nat) (o : Op) (m tag : Nat) : State :=
  match o.started, o.adm with
  | true, some (tc, ofs, some cell) =>
    match s.canopyBlocks tc o.adds (o.data.length / 64 + 1) ofs 0 o.data with
    | (some _, s) => (((s.abandonCell tc cell).dropOp c o.id).endBuf tc portRemote).respond (s.coreInst c) m tag 3
    | (none, s) => (s.endOp c o).respond (s.coreInst c) m tag 0
  | _, _ => s

/-- A kind-1 transfer of this device's own member with PF = 1 (R134, R135): its bytes must lie in one range of Canopy and
match a window with a landing cell; it then waits for that cell. -/
def State.landOva (s : State) (c : Nat) (o : Op) (ova : Nat) (bs : List Byte) : State :=
  let refused := fun s : State => s.failOp c o { cause := causeWindow, addr := o.a }
  match s.canopySegs o.ctx ova bs.length with
  | [(tc, ofs, n)] =>
    if n ≠ bs.length then refused s
    else if s.landsOn c o.id tc ofs n then s
    else
      let m := s.matchWin tc o.ctx (s.memberIdx (s.coreInst c)) c ofs n
      match m.1 with
      | none => refused m.2
      | some x =>
        match x.land with
        | none => refused (m.2.inc PRT_CNP_WIN.REFUSED tc)
        | some cell => m.2.modOp c o.id fun o => { o with adm := some (tc, ofs, some cell), data := bs, since := s.ntu.elapsed }
  | _ => refused s

/-- A kind-1 transfer of this device's own member reaches its memory (R131, R134, R171 to R174): an RADD to Root is refused
whole; Canopy is reached through its windows. -/
def State.moveOva (s : State) (c : Nat) (o : Op) (ova : Nat) (bs : List Byte) : State :=
  if o.op = 0x35 ∧ (ovaPieces (bs.length / 65536 + 2) ova bs.length).any fun p =>
      (s.pte o.ctx p.1).present && decide ((s.pte o.ctx p.1).tier = .root) then
    s.failOp c o { cause := causeProt, addr := BitVec.ofNat 64 ova }
  else if (s.canopySegs o.ctx ova bs.length).any fun g => s.landsOn c o.id g.1 g.2.1 g.2.2 then s
  else
    match s.admitOva c o.ctx ova bs.length with
    | (false, s) => s.failOp c o { cause := causeWindow, addr := o.a }
    | (true, s) =>
      match s.trunkBlocks (partOf c) o.ctx o.adds (bs.length / 64 + 1) ova 0 bs with
      | (some f, s) => s.failOp c o f
      | (none, s) => s.endOp c o

/-- An RPUT or RADD goes on as far as its own engine takes it. -/
def State.moveRemote (s : State) (c : Nat) (o : Op) : State :=
  match o.reply with
  | some (m, tag) => s.landIn c o m tag
  | none =>
  if o.sent then s.dropOp c o.id
  else if o.remote ∨ s.heldByWin c o ∨ (o.adm.isNone ∧ !s.arrives c o) then s
  else
    match o.adm with
    | some (tc, ofs, some _) =>
      if !o.started then s
      else
        match s.canopyBlocks tc o.adds (o.data.length / 64 + 1) ofs 0 o.data with
        | (some f, s) => s.failOp c o f
        | (none, s) => s.endOp c o
    | some _ => s
    | none =>
      match s.remoteCheck c o with
      | some f => s.failOp c o f
      | none =>
        let own := wbits o.a 55 48 = s.memberIdx (s.coreInst c)
        let ova := wbits o.a 47 0
        if own ∧ wbits o.a 63 63 = 0 then s
        else if own ∧ s.migBlocks o.ctx ova (s.opLen c o) then
          s.holdOp c o ((s.migPage o.ctx ova (s.opLen c o)).getD 0) 0 fun s => s.inc PRT_XL_MIG.MIG_WAITS (partOf c)
        else if own ∧ (s.claspOn o.ctx ova (s.opLen c o) ∨ o.op = 0x35 ∧ s.goldenWait o.ctx ova (s.opLen c o)) then s
        else
          match s.remoteData c o with
          | (.error f, s) => s.failOp c o f
          | (.ok bs, s) =>
            if !own then s.sendRemote c o bs
            else if wPf o.word then s.landOva c o ova bs
            else s.moveOva c o ova bs

/-- A TLOAD, TSTORE, TSCAT or TGATH performs its bytes. DESIGN CHOICE (log 79): the rows of a TSCAT or TGATH with LEN = 0
are the cell's size divided by the size of a row, rounded down; R103 gives LEN = 0 as the cell's size and counts these in
rows. -/
def State.moveLocal (s : State) (c : Nat) (o : Op) : State :=
  let (base, size) := s.opCell c o
  let units := wbits o.word 28 24 + 1
  let rows := o.op = 0x32 ∨ o.op = 0x33
  let n := if rows then (if wbits o.word 23 0 = 0 then size / (64 * units) else wbits o.word 23 0) else s.opLen c o
  if (if rows then n * 64 * units else n) > size then s.failOp c o (pastCell o base size)
  else if rows ∧ o.b.toNat + 8 * n > o.cbound then s.failOp c o { cause := causeCbound, addr := o.b }
  else
    match if rows then (none, s) else s.admitOp c o o.a.toNat n with
    | (some f, s) => s.failOp c o f
    | (none, s) =>
    let s := if o.done = 0 then s.newRootRequest (partOf c) else s
    let r := match o.op with
      | 0x30 => s.loadBlocks c o base (n / 64 - o.done) o.done
      | 0x31 => s.storeBlocks c o base (n / 64 - o.done) o.done
      | 0x32 => s.scatRows c base units (n - o.done) o.done o
      | _ => s.gathRows c o base units (n - o.done) o.done
    match r.1 with
    | .done => r.2.endOp c o
    | .waits => r.2.endBuf c portRemote
    | .bad f => r.2.failOp c o f

/-- A TICK_PUT that holds its cell's claim writes the current tick at the cell's base and fills the cell (R57, R128). -/
def State.moveTick (s : State) (c : Nat) (o : Op) : State :=
  if o.started then (s.portWrite c portRemote o.base (leBytes s.now 8)).endOp c o else s

/-- A movement operation finishes (R102, R103): its bytes are performed, its cell is emptied or filled and the thread is
acknowledged; a transfer to another device is sent here and ends with its RESP (R389). -/
def execTransferComplete (c : Lcid) (op : Nat) (s : State) : Host.Outcome State Fault Refusal :=
  .next (
    match (s.core c).ops.find? fun o => o.id = op with
    | none => s
    | some o =>
      if o.op = 0x00 then s.moveTick c o
      else if !isMove o.op ∨ !s.inTurn c o then s
      else if isRemote o.op then s.moveRemote c o
      else if o.flag ≠ none ∧ !o.started then s
      else
        let r := s.startOp c o
        r.2.moveLocal c r.1)

/-- The checks of R133 and R135 for a kind-0 transfer of `n` bytes at offset `ofs` of a window: the first byte in Canopy
and the landing cell. -/
def State.admitRemote (s : State) (tc win ofs n member lcid : Nat) (land : Bool) : Option (Nat × Option Nat) :=
  let x := (s.core tc).wins.get {} win
  if x.admits member lcid ∧ ofs + n ≤ x.bound ∧ s.fld PRT_CNP_STATUS.CLEAR_BUSY tc = 0 ∧ (!land ∨ x.land ≠ none) then
    some (x.base + ofs, if land then x.land else none)
  else none

/-- A remote access of operation `op` of core `src` reaches the remote port of core `c`: it is admitted into a window or
refused whole (R133, R135). -/
def execRemoteAccessArrive (c : Lcid) (src : Lcid) (op : Nat) (s : State) : Host.Outcome State Fault Refusal :=
  .next (
    match (s.core src).ops.find? fun o => o.id = op with
    | none => s
    | some o =>
      if !isRemote o.op ∨ !s.inTurn src o ∨ !s.arrives src o ∨ s.heldByWin src o ∨ o.sent ∨ o.remote ∨ o.adm ≠ none
          ∨ wbits o.a 63 63 = 1 ∨ wbits o.a 47 39 ≠ c ∨ wbits o.a 55 48 ≠ s.memberIdx (s.coreInst src) then s
      else
        match s.remoteCheck src o with
        | some f => s.failOp src o f
        | none =>
          if s.landsOn src o.id c (((s.core c).wins.get {} (wbits o.a 38 36)).base + wbits o.a 20 0) (s.opLen src o) then s
          else
          match s.remoteData src o with
          | (.error f, s) => s.failOp src o f
          | (.ok bs, s) =>
            let adm := s.admitRemote c (wbits o.a 38 36) (wbits o.a 20 0) bs.length (s.memberIdx (s.coreInst src)) src (wPf o.word)
            match (if s.boundCtx c = some o.ctx then adm else none) with
            | none => (s.inc PRT_CNP_WIN.REFUSED c).failOp src o { cause := causeWindow, addr := o.a }
            | some (addr, none) =>
              match s.canopyBlocks c o.adds (bs.length / 64 + 1) addr 0 bs with
              | (some f, s) => s.failOp src o f
              | (none, s) => (((s.modOp src op fun o => { o with sent := true }).endBuf c portRemote).endBuf src portRemote).noteTurns src
            | some (addr, some cell) =>
              s.modOp src op fun o => { o with adm := some (c, addr, some cell), data := bs, since := s.ntu.elapsed })

/-- A gather buffer writes its block (R124). -/
def execGatherFlush (c : Lcid) (port : Fin 3) (s : State) : Host.Outcome State Fault Refusal :=
  .next (s.flushBuf c port)

end Sys2Proof.Machine
end

