-- ==== Sys2Proof/Machine/Attention.lean ====
section
/-! DEFINITION. The attention unit: masks, scores, APAGE, AFIN and AREV (R213 to R226). -/

namespace Sys2Proof.Machine

/-- APAGE (R107, R215). -/
def execApage (c : Lcid) (t : TSlot) (s : State) : Host.Outcome State Fault Refusal :=
  .next (s.issue 0x68 c t fun w s => s.enqueue c t w)
/-- AFIN (R107, R220). -/
def execAfin (c : Lcid) (t : TSlot) (s : State) : Host.Outcome State Fault Refusal :=
  .next (s.issue 0x69 c t fun w s => s.enqueue c t w)
/-- AREV (R107, R226). -/
def execArev (c : Lcid) (t : TSlot) (s : State) : Host.Outcome State Fault Refusal :=
  .next (s.issue 0x6A c t fun w s => s.enqueue c t w)

/-! ### Requests of the units -/

/-- A little-endian field of a list of bytes. -/
def leAt (b : List Byte) (ofs n : Nat) : Nat := leNat ((b.drop ofs).take n)
/-- An FP32 field. -/
def leF32 (b : List Byte) (ofs : Nat) : BitVec 32 := BitVec.ofNat 32 (leAt b ofs 4)

def protFail (o : Op) : Fail := { cause := causeProt, addr := o.a }
def boundFail (ofs : Nat) : Fail := { cause := causeCbound, addr := BitVec.ofNat 64 ofs }

/-- A local range lies inside the issuing thread's bound. -/
def Op.within (o : Op) (ofs n : Nat) : Bool := ofs + n ≤ o.cbound

/-- A checked read of local bytes of an operation's thread; of no bytes it is none, wherever its offset points. -/
def State.localRead (s : State) (c : Nat) (o : Op) (ofs n : Nat) : Except Fail (List Byte) × State :=
  if n = 0 then (.ok [], s)
  else if !o.within ofs n then (.error (boundFail ofs), s)
  else
    let r := s.portRead c portRemote (o.cbase + ofs) n
    match r.1.1 with
    | some bs => (.ok bs, r.2)
    | none => (.error { cause := causePoison, addr := BitVec.ofNat 64 (canopyDpa c (r.1.2 * 8)), noGolden := r.2.noGold c r.1.2 }, r.2)

/-- Checked reads of local ranges, in order. -/
def State.localReads (s : State) (c : Nat) (o : Op) : List (Nat × Nat) → Except Fail (List (List Byte)) × State
  | [] => (.ok [], s)
  | x :: xs =>
    match s.localRead c o x.1 x.2 with
    | (.error f, s) => (.error f, s)
    | (.ok bs, s) =>
      match s.localReads c o xs with
      | (.error f, s) => (.error f, s)
      | (.ok l, s) => (.ok (bs :: l), s)

/-! ### Masks (R213, R214) -/

/-- Bytes from one row of a tenant mask to the next. -/
def SeqEnt.mpitch (e : SeqEnt) : Nat := if kvRing e.kvl then 32 * kvR e.kvl else roundTo ((e.cap + 7) / 8) 64

/-- The tenant bit of position `p` for node `j`; a mask that cannot be read admits nothing here (the request has trapped). -/
def State.tenantBit (s : State) (e : SeqEnt) (j p : Nat) : Bool :=
  if e.maskRows = 0 then true
  else
    let row := if e.maskRows = 1 then 0 else j
    let b := if kvRing e.kvl then p % (256 * kvR e.kvl) else p
    match s.readOva e.ctx (e.maskOva + row * e.mpitch + b / 8) 1 with
    | some [x] => maskBit x.toNat (b % 8)
    | _ => false

/-- First storage position of the tail pages of a step: its committed pages below are full. -/
def SeqEnt.tailBase (e : SeqEnt) : Nat := 256 * (e.len / 256)

/-- The tenant row of node `j` over the tail pages of a step: of the tentative slot of node `i` the bit is that of position
LEN + depth(i) (R213, R214). -/
def State.tenantRow (s : State) (e : SeqEnt) (r : SeqRec) (j : Nat) : List Bool :=
  ((List.range' e.tailBase (e.len - e.tailBase)).map fun p => s.tenantBit e j p)
    ++ (List.range r.n).map fun i => s.tenantBit e j (e.len + r.depth i)

/-- Row `j` of a step reaches committed position `p`: in a ring, the window does (R214). -/
def SeqRec.reaches (r : SeqRec) (e : SeqEnt) (j p : Nat) : Bool := !kvRing e.kvl || decide (e.len + r.depth j < p + kvWindow e.kvl)

/-- The bough row of node `j` over the tail pages of a step, with the window of a ring (R214). -/
def SeqRec.boughRow (r : SeqRec) (e : SeqEnt) (j : Nat) : List Bool :=
  ((List.range' e.tailBase (e.len - e.tailBase)).map (r.reaches e j))
    ++ (List.range r.n).map fun i => maskBit (r.anc j) i && (!kvRing e.kvl || decide (r.depth j < r.depth i + kvWindow e.kvl))

/-- The effective bitmap of a step's tail pages, built at admission: the tenant rows are copied into the mask area, the
bough rows written beside them, and ROWAND combines the two (R214, R311). The bitmap is kept with the step's record: where
it lies in the mask area is not stated (log 87). -/
def State.buildMask (s : State) (r : SeqRec) : SeqRec :=
  let e := s.seq r.seq
  { r with mask := (List.range r.n).map fun j => List.zipWith (· && ·) (s.tenantRow e r j) (r.boughRow e j) }

/-- The effective mask of node `j` at storage position `p` (R214): the tenant bits of full pages are read directly. -/
def State.admits (s : State) (e : SeqEnt) (r : SeqRec) (j p : Nat) : Bool :=
  if p < e.tailBase then s.tenantBit e j p && r.reaches e j p else (r.mask.getD j []).getD (p - e.tailBase) false

/-! ### The request of APAGE and AREV (R215) -/

structure AttnReq where
  seq : Nat
  layer : Nat
  rows : Nat
  node0 : Nat
  kvh0 : Nat
  nkvh : Nat
  qpk : Nat
  qfmt : Nat
  sr : Bool
  qsc : Bool
  kappa : BitVec 32
  qOfs : Nat
  qscOfs : Nat
  lo : Nat
  hi : Nat
deriving DecidableEq, Repr

def AttnReq.of (b : List Byte) : AttnReq :=
  { seq := leAt b 0 4, layer := leAt b 4 1, rows := leAt b 5 1 + 1, node0 := leAt b 6 1, kvh0 := leAt b 7 1
    nkvh := leAt b 8 1 + 1, qpk := leAt b 9 1 + 1, qfmt := leAt b 0xA 1, sr := maskBit (leAt b 0xB 1) 0
    qsc := maskBit (leAt b 0xB 1) 1, kappa := leF32 b 0xC, qOfs := leAt b 0x10 4, qscOfs := leAt b 0x14 4
    lo := leAt b 0x18 4, hi := leAt b 0x1C 4 }

/-- Query heads covered; walking past the committed positions. -/
def AttnReq.heads (a : AttnReq) : Nat := a.nkvh * a.qpk
def AttnReq.all (a : AttnReq) : Bool := a.hi = 0xFFFFFFFF

/-- The checks of R215 against the sequence and the record of its admitted step. -/
def AttnReq.ok (a : AttnReq) (b : List Byte) (e : SeqEnt) (r : SeqRec) (ctx : Nat) : Bool :=
  decide (e.state ≠ .closed) && decide (e.ctx = ctx) && decide (a.seq < 2 ^ 18) && decide (leAt b 0xB 1 < 4)
    && decide (a.qfmt = 1 ∨ a.qfmt = 3) && decide (a.layer < kvLayers e.kvl) && decide (a.node0 + a.rows ≤ r.n)
    && decide (a.kvh0 + a.nkvh ≤ kvHeads e.kvl) && decide (a.qpk ≤ 64) && decide (a.qOfs % 64 = 0)
    && decide (a.lo % 256 = 0) && (a.all || decide (a.hi % 256 = 0))

/-- Storage positions of the walk, page by page, ascending (R215, R217). -/
def AttnReq.pages (a : AttnReq) (e : SeqEnt) (n : Nat) : List (List Nat) :=
  let stop := if a.all then e.len + n else min a.hi e.len
  let first := if a.all then min (a.lo / 256) (e.len / 256) else a.lo / 256
  (List.range' first ((stop + 255) / 256 - first)).map fun k =>
    (List.range' (256 * k) 256).filter fun p => decide (p < stop) && (decide (a.lo ≤ p) || decide (e.len ≤ p))

/-! ### Keys and values -/

/-- The D elements of head `g` at a storage position: keys, or values with `val`. -/
def State.kvElems (s : State) (e : SeqEnt) (l p g : Nat) (val : Bool) : List FV :=
  let k := e.kvl
  let hb := kvD k * elemBits (kvFmt k) / 8
  match s.pageOf e l (p / 256) with
  | none => []
  | some i =>
    let bs := s.objBytes e.pool (s.elemOfs e.pool i + p % 256 * kvEB k + ((if val then kvHeads k else 0) + g) * hb) hb
    (List.range (kvD k)).map (runElem (kvFmt k) (fun j => bs.getD j 0) [])

/-- The scale of group `gr` of head `g` at a storage position; 1 without scales. -/
def State.kvScale (s : State) (e : SeqEnt) (l p g gr : Nat) (val : Bool) : FV :=
  let k := e.kvl
  if kvSf k = 2 then .fin false 1 0
  else
    match s.pageOf e l (p / 256) with
    | none => .nan
    | some i =>
      let n := kvD k / kvG k
      decScale (kvSf k) (leNat (s.objBytes e.pool
        (s.scaleOfs e.pool i + p % 256 * kvSB k + ((if val then kvHeads k else 0) + g) * n + gr) 1))

/-- Scale group length along D; 32 without scales (R216). -/
def kvGroup (k : Nat) : Nat := if kvSf k = 2 then 32 else kvG k

/-- The BF16 value an FP32 encoding of BF16 precision stands for. -/
def bf16Of (x : BitVec 32) : FV := bf16.dec (x.toNat / 65536)

/-- A query element as the activation side takes it: BF16 for BF16 keys (R216). -/
def queryElem (kfmt qfmt : Nat) (v : FV) : FV := if kfmt = 1 ∧ qfmt = 3 then bf16Of v.to32 else v

/-- The sum of the score before its row scale (R216): groups of G along D, each promoted with its key scale; and whether a
contribution was not finite (R158). -/
def scoreSum (ks qs : List FV) (scale : Nat → FV) (g : Nat) (b : Int) (nmax : Nat) :
    Nat → Nat → BitVec 32 × Bool → BitVec 32 × Bool
  | 0, _, a => a
  | fuel + 1, gr, a =>
    if ks.length ≤ gr * g then a
    else
      let o := laneGroup ((ks.drop (gr * g)).take g) ((qs.drop (gr * g)).take g) (scale gr) b nmax
      let r := promote none a.1 o.c
      scoreSum ks qs scale g b nmax fuel (gr + 1) (r.1, a.2 || o.nonfin || r.2)

/-- z of row scale `rj`, for the query elements `qs` and head `g` at position `p` (R216), and whether a contribution to its
score was not finite. -/
def State.attnZ (s : State) (e : SeqEnt) (a : AttnReq) (nmax : Nat) (rj : BitVec 32) (qs : List FV) (g p : Nat) :
    BitVec 32 × Bool :=
  let k := e.kvl
  let act := if kvFmt k = 1 then 1 else a.qfmt
  let b : Int := elemSig (kvFmt k) + elemSig act
  let sum := scoreSum (s.kvElems e a.layer p g false) qs (fun gr => s.kvScale e a.layer p g gr false) (kvGroup k) b nmax
    (kvD k) 0 (0, false)
  (f32mul a.kappa (f32mul sum.1 rj), sum.2)

/-! ### The walk (R217, R218) -/

/-- a × 2^k for an integer-valued exponent difference, rounded only when subnormal. A difference below −400 gives zero
whatever the value. -/
def scale2 (a : BitVec 32) (k : Int) : BitVec 32 :=
  match f32 a with
  | .fin n m e => (FV.fin n m (e + k)).to32
  | x => x.to32

/-- The exponent difference of two integer-valued FP32 references, no less than −400. -/
def refDiff (x y : BitVec 32) : Int :=
  let d := (f32 x).dy.sub (f32 y).dy
  if d.m = 0 then 0 else if d.log2 ≥ 10 then -400 else (d.m * pow2 d.e) / (pow2 (-d.e) : Nat)

/-- The ceiling of a finite FP32 value; a zero result is +0. -/
def f32Ceil (x : BitVec 32) : BitVec 32 :=
  match f32 x with
  | .fin n m e =>
    let v : Int := if n then -(m : Int) else m
    if e ≥ 0 then x else f32OfDy ⟨-((-v) / (pow2 (-e) : Nat)), 0⟩
  | _ => x

/-- What a promotion of the attention unit draws from (R218). -/
structure DrawEnv where
  sr : Bool
  seed : BitVec 64
  lcid : Nat
  recNo : Nat
  layer : Nat
deriving DecidableEq, Repr

/-- A promotion: rounded half to even, or stochastically with the draw of R218. -/
def DrawEnv.promote (d : DrawEnv) (kind lane idx : Nat) (a : BitVec 32) (c : FV) : BitVec 32 × Bool :=
  let draw := if d.sr then
      some ((philox (d.seed.toNat % 2 ^ 32, d.seed.toNat / 2 ^ 32)
        (a.toNat, (f32Trunc c.dy).toNat, d.lcid * 2 ^ 23 + d.recNo % 4096 * 2 ^ 11 + lane * 8 + kind,
         d.layer * 2 ^ 24 + idx % 2 ^ 24)).1 % 65536)
    else none
  Machine.promote draw a c

/-- The state of one row and query head (R217). -/
structure AttnAcc where
  m : BitVec 32 := 0xFF800000
  l : BitVec 32 := 0
  acc : List (BitVec 32) := []
  nadm : Nat := 0
  idx : Nat := 0
  nonfin : Bool := false
deriving DecidableEq, Repr

/-- One group of 32 positions: `es` its terms e and value scales times e, as (e, value elements, scales). -/
def AttnAcc.group (st : AttnAcc) (d : DrawEnv) (dim : Nat) (b : Int) (nmax : Nat) (es : List (BitVec 32 × List FV × (Nat → FV))) :
    AttnAcc :=
  let (l, bad) := d.promote 1 0 st.idx st.l (.fin false (Dy.sum (es.map fun x => (f32 x.1).dy)).m.toNat (Dy.sum (es.map fun x => (f32 x.1).dy)).e)
  let lanes := (List.range dim).map fun i =>
    let ws := es.map fun x => bf16Of (f32ToBf16 ((mulFV (f32 x.1) (x.2.2 i)).to32))
    let vs := es.map fun x => x.2.1.getD i .nan
    let o := laneGroup vs ws (.fin false 1 0) b nmax
    let r := d.promote 0 i st.idx (st.acc.getD i 0) o.c
    (r.1, o.nonfin || r.2)
  { st with l := l, acc := lanes.map (·.1), idx := st.idx + 1, nonfin := st.nonfin || bad || lanes.any (·.2) }

/-- One page of the walk: `zs` the admitted positions with a z other than −∞; `val` the value elements and scales of a
position. -/
def AttnAcc.page (st : AttnAcc) (d : DrawEnv) (dim : Nat) (b : Int) (nmax : Nat) (zs : List (Nat × BitVec 32))
    (val : Nat → List FV × (Nat → FV)) : AttnAcc :=
  match zs with
  | [] => st
  | z0 :: rest =>
    let top := f32Ceil (rest.foldl (fun a z => if f32gt z.2 a then z.2 else a) z0.2)
    let first := st.m = 0xFF800000
    let mNew := if first ∨ f32gt top st.m then top else st.m
    let st := if first then { st with m := mNew }
      else if f32gt mNew st.m then
        let k := refDiff st.m mNew
        { st with m := mNew, l := scale2 st.l k, acc := st.acc.map fun a => scale2 a k }
      else st
    (List.range 8).foldl (fun st gr =>
      let g := zs.filter fun z => z.1 % 256 / 32 = gr
      if g = [] then st
      else st.group d dim b nmax (g.map fun z => (f32ToBf16 (exp2ref (f32sub z.2 st.m)), val z.1)))
      { st with nadm := st.nadm + zs.length }

/-! ### What a request reads before it walks -/

/-- A request of APAGE or AREV once its record is read: the sequence, its record and query data. -/
structure AttnIn where
  a : AttnReq
  e : SeqEnt
  r : SeqRec
  q : List Byte
  qsc : List Byte
deriving DecidableEq, Repr

/-- Query elements of row `j` and covered head `h`, and the row's scale. -/
def AttnIn.query (v : AttnIn) (j h : Nat) : List FV :=
  let d := kvD v.e.kvl
  let ofs := (j * v.a.heads + h) * d * (elemBits v.a.qfmt / 8)
  (List.range d).map fun i =>
    queryElem (kvFmt v.e.kvl) v.a.qfmt (runElem v.a.qfmt (fun k => (v.q.drop ofs).getD k 0) [] i)
def AttnIn.rowScale (v : AttnIn) (j : Nat) : BitVec 32 := if v.a.qsc then leF32 v.qsc (4 * j) else 0x3F800000

/-- The positions of page `ps` that row `j` admits, with z and its non-finite flag, in ascending order. -/
def State.attnRowZ (s : State) (v : AttnIn) (nmax j h : Nat) (ps : List Nat) : List (Nat × BitVec 32 × Bool) :=
  let g := v.a.kvh0 + h / v.a.qpk
  let qs := v.query j h
  (ps.filter fun p => s.admits v.e v.r (v.a.node0 + j) p).map fun p => (p, s.attnZ v.e v.a nmax (v.rowScale j) qs g p)

/-- What stands in the way of a request's walk: it waits for preparation or an incomplete slot (R206, R207); or it fails. -/
inductive AttnGate where
  | go (v : AttnIn)
  | waits (q : Nat)
  | bad (f : Fail)

/-- Page numbers that preparing a step of `n` nodes touches (R207). -/
def SeqEnt.toPrepare (e : SeqEnt) (n : Nat) : List Nat := List.range' (e.len / 256) ((e.len + n - 1) / 256 + 1 - e.len / 256)

/-- A page of the walk is still in preparation (R207): one whose place in the table the preparation fills, copies or turns
to a new round. -/
def AttnIn.unprepared (v : AttnIn) : Bool :=
  !v.r.prepared && (v.a.pages v.e v.r.n).any fun ps => ps ≠ [] &&
    (v.e.toPrepare v.r.n).any fun k => v.e.tidx v.a.layer k = v.e.tidx v.a.layer (ps.headD 0 / 256)

/-- Reads and checks an APAGE or AREV request. `extra` is the check of the bytes at 0x20. -/
def State.attnOpen (s : State) (c : Nat) (o : Op) (extra : List Byte → Bool) (rev : Bool) : AttnGate × State :=
  match s.localRead c o o.a.toNat 64 with
  | (.error f, s) => (.bad f, s)
  | (.ok b, s) =>
    let a := AttnReq.of b
    match s.stepOf a.seq with
    | none => (.bad (protFail o), s)
    | some (_, r) =>
      let e := s.seq a.seq
      if !(a.ok b e r o.ctx && extra b) ∨ (rev ∧ a.sr) then (.bad (protFail o), s)
      else
        match s.localReads c o [(a.qOfs, a.rows * a.heads * kvD e.kvl * (elemBits a.qfmt / 8)), (a.qscOfs, if a.qsc then 4 * a.rows else 0)] with
        | (.error f, s) => (.bad f, s)
        | (.ok l, s) =>
          let v : AttnIn := { a := a, e := e, r := r, q := l.getD 0 [], qsc := l.getD 1 [] }
          if e.maskRows ≠ 0 ∧ (s.readOva e.ctx e.maskOva (e.maskRows * e.mpitch)).isNone then
            (.bad { cause := causeXlate, addr := BitVec.ofNat 64 e.maskOva }, s)
          else if e.maskRows ≠ 0 ∧ s.ovaBad e.ctx e.maskOva (e.maskRows * e.mpitch) ≠ [] then
            (.bad { cause := causePoison, addr := BitVec.ofNat 64 e.maskOva, noGolden := true }, s)
          else if v.unprepared ∨ (a.all ∧ (List.range r.n).any fun i => !e.slotComplete a.layer i
              && (List.range a.rows).any fun j => s.admits e r (a.node0 + j) (e.len + i)) then (.waits a.seq, s)
          else (.go v, s)

/-- The page slots that hold an admitted position of some row, and whether they are poisoned. -/
def State.attnPages (s : State) (v : AttnIn) (j : Nat) : List Nat :=
  (v.a.pages v.e v.r.n).filterMap fun ps =>
    if ps.any (s.admits v.e v.r (v.a.node0 + j)) then s.pageOf v.e v.a.layer (ps.headD 0 / 256) else none

/-- Some byte of a page's element area or scale block is poisoned. -/
def State.pageBad (s : State) (h i : Nat) : Bool :=
  let k := s.poolKvl h
  s.poisonedAt (s.objDpa h (s.elemOfs h i)) (256 * kvEB k)
    || (decide (kvSf k ≠ 2) && s.poisonedAt (s.objDpa h (s.scaleOfs h i)) (256 * kvSB k))

/-- The page slots that a request reads. -/
def State.walkPages (s : State) (v : AttnIn) : List Nat := ((List.range v.a.rows).flatMap (s.attnPages v)).dedup

/-- The frames of an object's range of offsets. -/
def State.rangeFrames (s : State) (h ofs n : Nat) : List Nat :=
  (List.range' (ofs / 65536) ((ofs + n - 1) / 65536 + 1 - ofs / 65536)).map fun k => s.objDpa h (k * 65536) / 65536

/-- The Root tiles that a request reads, page by page (R227); with each whether its region is new to its page, which is one
request (R328). -/
def State.walkTiles (s : State) (v : AttnIn) : List (Nat × Bool) :=
  let k := v.e.kvl
  (s.walkPages v).flatMap fun i =>
    let fs := ((s.rangeFrames v.e.pool (s.elemOfs v.e.pool i) (kvEAF k))
      ++ (if kvSf k = 2 then [] else s.rangeFrames v.e.pool (s.scaleOfs v.e.pool i) (kvSAP k))).filter fun f => rootBase ≤ f * 65536
    withFresh 0 fs

/-- Trunk entries that a request reads are charged to its partition: keys, values and scales of the covered heads at the
positions some row admits (R21, log 51). -/
def State.chargeWalk (s : State) (c : Nat) (v : AttnIn) : State :=
  let k := v.e.kvl
  let hb := kvD k * elemBits (kvFmt k) / 8
  let sb := kvD k / kvG k
  (v.a.pages v.e v.r.n).flatten.foldl (fun s p =>
    match s.pageOf v.e v.a.layer (p / 256), s.findObj v.e.pool with
    | some i, some o =>
      if (List.range v.a.rows).any fun j => s.admits v.e v.r (v.a.node0 + j) p then
        [v.a.kvh0, kvHeads k + v.a.kvh0].foldl (fun s h =>
          let s := s.readTrunkOva (partOf c) v.e.ctx (o.ova + s.elemOfs v.e.pool i + p % 256 * kvEB k + h * hb) (v.a.nkvh * hb)
          if kvSf k = 2 then s
          else s.readTrunkOva (partOf c) v.e.ctx (o.ova + s.scaleOfs v.e.pool i + p % 256 * kvSB k + h * sb) (v.a.nkvh * sb)) s
      else s
    | _, _ => s) s

/-- A request's pages are read: its Root tiles are fetched, and its Trunk entries charged; or it waits (`error`) for a grant
or a tower (R227, R335). -/
def State.readWalk (s : State) (c : Nat) (o : Op) (v : AttnIn) : Except State State :=
  let r := s.fetchTiles (partOf c) o.done ((s.walkTiles v).drop o.done)
  match r.1 with
  | (none, _) => .ok ((r.2.chargeWalk c v).incr PRT_KV_ATT.ROOT_PAGES (seqPart v.a.seq)
      ((s.walkPages v).filter fun i => maskBit (s.page v.e.pool i).flags 2).length)
  | (some f, n) =>
    .error (match r.2.towerDown (f * 65536) with
      | none => r.2.holdOp c o n 0 id
      | some t =>
        if o.kvWait.isSome ∧ n = o.done then r.2
        else r.2.modOp c o.id fun o => { o with done := n, held := true, kvWait := some (s.ntu.elapsed, 2 ^ 18 + t) })

/-! ### APAGE (R217, R219) -/

/-- The bytes of a partial record. -/
def partialRec (m l : BitVec 32) (nadm status : Nat) (acc : List (BitVec 32)) : List Byte :=
  leBytes m.toNat 4 ++ leBytes l.toNat 4 ++ leBytes nadm 4 ++ leBytes status 4 ++ acc.flatMap fun a => leBytes a.toNat 4

/-- OVA of the element area of a page slot: the address that a POISON trap reports (R109). -/
def State.pageOva (s : State) (h i : Nat) : Nat := match s.findObj h with | some o => o.ova + s.elemOfs h i | none => 0

/-- The record of row `j` and covered head `h`. L of the one admitted position of R222 is what R217 computes, the term e in
(0.5, 1] (DEDUCED, log 88). A record that met a poisoned page has no stated values: free values. -/
def State.apageRec (s : State) (c : Nat) (o : Op) (v : AttnIn) (j h : Nat) : List Byte :=
  let d := kvD v.e.kvl
  let g := v.a.kvh0 + h / v.a.qpk
  let nmax := s.fld PRT_LAT_CFG.REPLAY_MAX (partOf c)
  let env : DrawEnv := { sr := v.a.sr, seed := (s.ctx o.ctx).seed, lcid := c, recNo := j * v.a.heads + h, layer := v.a.layer }
  let sr := if v.a.sr then 4 else 0
  let nan : BitVec 32 := f32nan
  if (s.attnPages v j).any (s.pageBad v.e.pool) then
    partialRec (Config.freeLane (s.freeCnt + 1)) (Config.freeLane (s.freeCnt + 2)) (Config.freeLane (s.freeCnt + 3)).toNat (8 + sr)
      ((List.range d).map fun i => Config.freeLane (s.freeCnt + 4 + i))
  else
    let pages := (v.a.pages v.e v.r.n).map (s.attnRowZ v nmax j h)
    let nadm := (pages.map fun zs => (zs.filter fun z => (f32 z.2.1).isFin).length).sum
    if pages.any fun zs => zs.any fun z => (f32 z.2.1).isNan || f32 z.2.1 = .inf false || z.2.2 then
      partialRec nan nan nadm (2 + sr) (List.replicate d nan)
    else
      let b : Int := elemSig (kvFmt v.e.kvl) + 8
      let val := fun p => (s.kvElems v.e v.a.layer p g true, fun i => s.kvScale v.e v.a.layer p g (i / kvGroup v.e.kvl) true)
      let st := pages.foldl (fun st zs => st.page env d b nmax ((zs.filter fun z => (f32 z.2.1).isFin).map fun z => (z.1, z.2.1)) val)
        ({ acc := List.replicate d 0 } : AttnAcc)
      if st.nonfin then partialRec nan nan st.nadm (2 + sr) (List.replicate d nan)
      else partialRec st.m st.l st.nadm ((if st.nadm = 0 then 1 else 0) + sr) st.acc

/-- An APAGE on page engine `engine` ends: it writes its partial records and fills its cell, or it waits, or it traps
(R206, R215 to R219). -/
def State.apageRun (s : State) (c : Nat) (o : Op) : State :=
  match s.attnOpen c o (fun b => (b.drop 0x20).all (· = 0)) false with
  | (.bad f, s) => s.failOp c o f
  | (.waits q, s) => s.kvHold c o o.done 0 q
  | (.go v, s) =>
    let (base, size) := s.opCell c o
    let d := kvD v.e.kvl
    let len := v.a.rows * v.a.heads * (16 + 4 * d)
    if len > size then s.failOp c o (pastCell o base size)
    else
      match s.readWalk c o v with
      | .error s => s
      | .ok s =>
      let recs := (List.range v.a.rows).flatMap fun j => (List.range v.a.heads).map fun h => s.apageRec c o v j h
      let bad := (List.range v.a.rows).findSome? fun j => (s.attnPages v j).find? (s.pageBad v.e.pool)
      let p := seqPart v.a.seq
      let s := if bad.isSome then { s with freeCnt := s.freeCnt + 4 + d } else s
      let s := s.incr PRT_KV_CNT.EMPTY_ROWS p (recs.filter fun r => leAt r 0xC 4 % 2 = 1).length
      let s := s.portWrite c portRemote base recs.flatten
      match bad with
      | some i => s.failOp c o { cause := causePoison, addr := BitVec.ofNat 64 (s.pageOva v.e.pool i), noGolden := true }
      | none => (s.inc PRT_KV_ATT.APAGE_CNT p).endOp c o

/-- The APAGE requests of a partition that wait for an engine and may start, with their cores. -/
def State.apageWaiting (s : State) (p : Nat) : List (Nat × Op) :=
  (List.range' (32 * p) 32).flatMap fun c =>
    ((s.core c).ops.filter fun o => o.op = 0x68 ∧ o.engine = none ∧ s.inTurn c o).map fun o => (c, o)

/-- The page engines of a partition in use. -/
def State.apageBusy (s : State) (p : Nat) : List Nat :=
  (List.range' (32 * p) 32).flatMap fun c => ((s.core c).ops.filter fun o => o.op = 0x68).filterMap (·.engine)

/-- The queued APAGE that arrived first goes to the lowest-numbered free page engine (R215). -/
def execApageEngineStart (p : PartId) (s : State) : Host.Outcome State Fault Refusal :=
  .next (
    match (List.range 8).find? (fun k => !(s.apageBusy p).contains k),
        (s.apageWaiting p).foldl (fun b x => match b with
          | none => some x
          | some y => if x.2.arrival < y.2.arrival then some x else some y) none with
    | some k, some (c, o) => s.modOp c o.id fun o => { o with engine := some k, since := s.ntu.elapsed }
    | _, _ => s)

/-- A page engine writes its partial records and fills the result cell (R219). -/
def execApageEnd (p : PartId) (engine : Fin 8) (s : State) : Host.Outcome State Fault Refusal :=
  .next (
    match (List.range' (32 * p.val) 32).findSome? fun c =>
        ((s.core c).ops.find? fun o => decide (o.op = 0x68) && decide (o.engine = some engine.val)).map fun o => (c, o) with
    | none => s
    | some (c, o) => if o.flag ≠ none ∧ !o.started then s else s.apageRun c o)

/-! ### AFIN (R220) -/

/-- A partial record read back. -/
structure Partial where
  m : BitVec 32
  l : BitVec 32
  status : Nat
  acc : List (BitVec 32)
deriving DecidableEq, Repr

def Partial.of (b : List Byte) (d : Nat) : Partial :=
  { m := leF32 b 0, l := leF32 b 4, status := leAt b 0xC 4, acc := (List.range d).map fun i => leF32 b (16 + 4 * i) }

/-- Combines a running record with the record of set `k` (R220). -/
def Partial.combine (x y : Partial) (env : DrawEnv) (k : Nat) : Partial :=
  let st := x.status ||| y.status
  if maskBit st 1 then { x with status := st }
  else
    let m := if f32gt y.m x.m then y.m else x.m
    let kx := refDiff x.m m
    let ky := refDiff y.m m
    let add := fun kind lane a b => (env.promote kind lane k (scale2 a kx) (f32 (scale2 b ky))).1
    { m := m, l := add 3 0 x.l y.l, status := st
      acc := (x.acc.zip y.acc).mapIdx fun i ab => add 2 i ab.1 ab.2 }

/-- a ÷ l rounded once to BF16, half to even, as its FP32 encoding. -/
def bf16Div (a l : BitVec 32) : BitVec 32 :=
  match f32 a, f32 l with
  | .fin x m e, .fin y n d =>
    if m = 0 ∨ n = 0 then f32div a l
    else BitVec.ofNat 32 ((if x != y then 0x80000000 else 0) + min 0x7F80 (magCode bf16 (m * pow2 (e - d)) (n * pow2 (d - e))) * 65536)
  | _, _ => f32div a l

/-- The result of one record: its output bytes, its statistics, its STATUS word. -/
def afinRec (sets : List Partial) (env : DrawEnv) (d : Nat) (bf : Bool) : List Byte × List Byte × Nat :=
  let sr := if env.sr then 4 else 0
  let out := fun (x : BitVec 32) => if bf then leBytes (x.toNat / 65536) 2 else leBytes x.toNat 4
  let live := (sets.mapIdx fun k x => (k, x)).filter fun x => !maskBit x.2.status 0
  match live with
  | [] => ((List.replicate d (0 : BitVec 32)).flatMap out, leBytes 0xFF800000 4 ++ leBytes 0 4,
           1 + sr + (if sets.any fun x => maskBit x.status 3 then 8 else 0))
  | x :: xs =>
    let r := xs.foldl (fun r y => r.combine y.2 env y.1) x.2
    let st := (r.status ||| sr) % 16
    if maskBit r.status 1 then
      ((List.replicate d f32nan).flatMap out, leBytes f32nan.toNat 4 ++ leBytes f32nan.toNat 4, st)
    else (r.acc.flatMap fun a => out (if bf then bf16Div a r.l else f32div a r.l), leBytes r.m.toNat 4 ++ leBytes r.l.toNat 4, st)

/-- AFIN ends (R220). -/
def State.afinRun (s : State) (c : Nat) (o : Op) : State :=
  match s.localRead c o o.a.toNat 64 with
  | (.error f, s) => s.failOp c o f
  | (.ok b, s) =>
    let np := leAt b 0 1 + 1
    let bf := leAt b 1 1 = 1
    let fl := leAt b 2 1
    let dc := leAt b 3 1
    let d := 64 * 2 ^ dc
    let nrec := leAt b 4 2
    let outOfs := leAt b 8 4
    let statOfs := leAt b 0xC 4
    let statWr := maskBit fl 1
    let sz := 16 + 4 * d
    if np > 16 ∨ leAt b 1 1 > 1 ∨ fl > 3 ∨ dc > 2 ∨ nrec = 0 ∨ nrec > 4096 ∨ leAt b 6 2 ≠ 0 ∨ outOfs % 64 ≠ 0
        ∨ (b.drop 0x18).any (· ≠ 0) then s.failOp c o (protFail o)
    else
      let outLen := nrec * d * (if bf then 2 else 4)
      let (base, size) := s.opCell c o
      if !o.within outOfs outLen then s.failOp c o (boundFail outOfs)
      else if statWr ∧ !o.within statOfs (8 * nrec) then s.failOp c o (boundFail statOfs)
      else if 4 * nrec > size then s.failOp c o (pastCell o base size)
      else
        match s.localReads c o ((List.range np).map fun k => (leAt b 0x10 4 + k * leAt b 0x14 4, nrec * sz)) with
        | (.error f, s) => s.failOp c o f
        | (.ok l, s) =>
          let rs := (List.range nrec).map fun k =>
            afinRec (l.map fun set => Partial.of ((set.drop (k * sz)).take sz) d)
              { sr := maskBit fl 0, seed := (s.ctx o.ctx).seed, lcid := c, recNo := k, layer := 0 } d bf
          let s := s.portWrite c portRemote (o.cbase + outOfs) (rs.flatMap (·.1))
          let s := if statWr then s.portWrite c portRemote (o.cbase + statOfs) (rs.flatMap (·.2.1)) else s
          (s.portWrite c portRemote base (rs.flatMap fun r => leBytes r.2.2 4)).endOp c o

/-! ### AREV (R226) -/

/-- A sum taken in order from +0, each addition rounded. -/
def seqSum (xs : List (BitVec 32)) : BitVec 32 := xs.foldl f32add 0

/-- κ × ln 2 rounded once. -/
def kappaLn2 (kappa : BitVec 32) : BitVec 32 :=
  match f32 kappa with
  | .fin n m e => if m = 0 then f32zero n else f32OfQ n (m * pow2 e * ln2Fix) (2 ^ 320 * pow2 (-e))
  | x => x.to32

/-- Gradients as they accumulate: dQ of the current row and head, dK and dV by (covered head, node). -/
structure RevAcc where
  dq : List (BitVec 32) := []
  dk : List (List (BitVec 32)) := []
  dv : List (List (BitVec 32)) := []
deriving DecidableEq, Repr

/-- One admitted position of a row and head. `pr`, `ds` as in R226; `kv`, `vq` the scaled key and query elements. -/
def RevAcc.pos (r : RevAcc) (lam rj pr ds : BitVec 32) (kv qv dO : List (BitVec 32)) (slot : Option Nat) : RevAcc :=
  let dq := (r.dq.zip kv).map fun (x, k) => f32add x (f32mul (f32mul lam rj) (f32mul ds k))
  match slot with
  | none => { r with dq := dq }
  | some i =>
    { dq := dq
      dv := listMod r.dv i fun l => (l.zip dO).map fun (x, d) => f32add x (f32mul pr d)
      dk := listMod r.dk i fun l => (l.zip qv).map fun (x, q) => f32add x (f32mul (f32mul lam ds) q) }

/-- AREV ends: dQ in its cell, dK and dV at their offset (R226). -/
def State.arevRun (s : State) (c : Nat) (o : Op) : State :=
  match s.attnOpen c o (fun b => leAt b 0x30 1 ≤ 1 && (b.drop 0x31).all (· = 0)) true with
  | (.bad f, s) => s.failOp c o f
  | (.waits q, s) => s.kvHold c o o.done 0 q
  | (.go v, s) =>
    match s.localRead c o o.a.toNat 64 with
    | (.error f, s) => s.failOp c o f
    | (.ok b, s) =>
      let d := kvD v.e.kvl
      let nrec := v.a.rows * v.a.heads
      let n := v.r.n
      let dkv := leAt b 0x30 1 = 1
      let dkvOfs := leAt b 0x2C 4
      let (base, size) := s.opCell c o
      if dkv ∧ !o.within dkvOfs (v.a.nkvh * n * 2 * d * 4) then s.failOp c o (boundFail dkvOfs)
      else if nrec * d * 4 > size then s.failOp c o (pastCell o base size)
      else
        match s.localReads c o [(leAt b 0x20 4, nrec * d * 4), (leAt b 0x24 4, nrec * d * 4), (leAt b 0x28 4, nrec * 8)] with
        | (.error f, s) => s.failOp c o f
        | (.ok l, s) =>
          match s.readWalk c o v with
          | .error s => s
          | .ok s =>
          match (List.range v.a.rows).findSome? fun j => (s.attnPages v j).find? (s.pageBad v.e.pool) with
          | some i => s.failOp c o { cause := causePoison, addr := BitVec.ofNat 64 (s.pageOva v.e.pool i), noGolden := true }
          | none =>
            let nmax := s.fld PRT_LAT_CFG.REPLAY_MAX (partOf c)
            let lam := kappaLn2 v.a.kappa
            let zero := List.replicate d (0 : BitVec 32)
            let grp := kvGroup v.e.kvl
            let scaled := fun p g val => (s.kvElems v.e v.a.layer p g val).mapIdx fun i x =>
              (mulFV x (s.kvScale v.e v.a.layer p g (i / grp) val)).to32
            let r := (List.range v.a.rows).foldl (fun (dqs, r) j =>
              (List.range v.a.heads).foldl (fun (dqs, (r : RevAcc)) h =>
                let k := j * v.a.heads + h
                let g := v.a.kvh0 + h / v.a.qpk
                let dO := (List.range d).map fun i => leF32 (l.getD 0 []) ((k * d + i) * 4)
                let out := (List.range d).map fun i => leF32 (l.getD 1 []) ((k * d + i) * 4)
                let m := leF32 (l.getD 2 []) (8 * k)
                let ll := leF32 (l.getD 2 []) (8 * k + 4)
                if m = 0xFF800000 then (dqs ++ [zero], r)
                else
                  let delta := seqSum ((dO.zip out).map fun (x, y) => f32mul x y)
                  let rj := v.rowScale j
                  let qv := (v.query j h).map fun q => (mulFV q (f32 rj)).to32
                  let zs := (v.a.pages v.e n).flatMap (s.attnRowZ v nmax j h)
                  let r := zs.foldl (fun (r : RevAcc) z =>
                    let kv := scaled z.1 g false
                    let pr := f32div (exp2ref (f32sub z.2.1 m)) ll
                    let dp := seqSum ((dO.zip (scaled z.1 g true)).map fun (x, y) => f32mul x y)
                    let ds := f32mul pr (f32sub dp delta)
                    r.pos lam rj pr ds kv qv dO
                      (if dkv ∧ z.1 ≥ v.e.len then some (h / v.a.qpk * n + (z.1 - v.e.len)) else none)) { r with dq := zero }
                  (dqs ++ [r.dq], r)) (dqs, r))
              (([] : List (List (BitVec 32))), ({ dk := List.replicate (v.a.nkvh * n) zero, dv := List.replicate (v.a.nkvh * n) zero } : RevAcc))
            let by4 := fun (x : List (BitVec 32)) => x.flatMap fun a => leBytes a.toNat 4
            let s := if dkv then
                s.portWrite c portRemote (o.cbase + dkvOfs) ((r.2.dk.zip r.2.dv).flatMap fun (k, w) => by4 k ++ by4 w)
              else s
            (s.portWrite c portRemote base (r.1.flatMap by4)).endOp c o

end Sys2Proof.Machine
end

