-- ==== Sys2Proof/Machine/KvUnit.lean ====
section
/-! DEFINITION. What the KV unit does after a boundary: preparation, commit, and the ends of imports and exports (R207,
R209, R211, R228 to R230). -/

namespace Sys2Proof.Machine

/-! ### Preparation (R207) -/

/-- The records of admitted steps still to be prepared, in admission-list order: by bucket, then in order of admission. -/
def State.toPrepare (s : State) (p : Nat) : List SeqRec :=
  let l := (s.stepsOf p).flatMap fun st => st.recs.filter fun r => !r.prepared
  (List.range 16).flatMap fun b => l.filter fun r => r.bucket = b

/-- The KV unit prepares the sequences of the admitted steps of its partition (R207). -/
def execKvPrepare (p : PartId) (s : State) : Host.Outcome State Fault Refusal :=
  .next ((s.toPrepare p).foldl (fun s r =>
    if s.ringWaits r.seq r.n then s
    else (s.prepareSeq r.seq r.n).modRec r.seq fun r => { r with prepared := true }) s)

/-! ### Commit (R209, R211, R249) -/

/-- An APAGE or AREV that names the sequence has not ended (R211). -/
def State.attnOut (s : State) (q : Nat) : Bool :=
  s.cores.any fun e => e.2.ops.any fun o =>
    (decide (o.op = 0x68) || decide (o.op = 0x6A)) && decide ((AttnReq.of (s.peek e.1 (o.cbase + o.a.toNat) 64)).seq = q)

/-- A step may commit: every sequence has been accepted, nothing contains it, and no attention of its sequences is under
way. Commits are held until the whole step is accepted, so that a replay releases no token twice (R26). -/
def State.mayCommit (s : State) (r : StepRec) : Bool :=
  !r.adapter && !r.contained && r.recs.all fun e => e.accepted.isSome && e.prepared && !s.attnOut e.seq

/-- Nodes of a committed path (R248). -/
def acceptPath (a : List Byte) : List Nat := ((a.drop 8).take (leNat ((a.drop 4).take 1))).map BitVec.toNat

/-- The commit list of a step is kept for the standby devices that the trail mirrors to (R75): handle and committed
length of each sequence. -/
def State.keepCommits (s : State) (p : Nat) (st : StepRec) : State :=
  let i := s.instOf p
  let bs := st.recs.flatMap fun r => leBytes r.seq 4 ++ leBytes (s.seq r.seq).len 4
  s.modInst i fun x =>
    { x with commits := x.commits ++ ((x.image.xdevs.map (·.peer)).dedup.map fun m => (m, st.ctx, st.id, bs)) }

/-- The first step of a partition that may commit does, at its commit tick (R25, R209). -/
def execKvCommit (p : PartId) (s : State) : Host.Outcome State Fault Refusal :=
  .next (
    match (s.stepsOf p).find? s.mayCommit with
    | none => s
    | some st =>
      let s := st.recs.foldl (fun s r => s.commitSeq r.seq r.n (acceptPath (r.accepted.getD []))) s
      let s := s.setSteps p ((s.stepsOf p).filter fun x => !(decide (x.id = st.id) && decide (x.ctx = st.ctx)))
      (s.keepCommits p st).stepDone { st with commitTick := s.now } s.now)

/-! ### Transfers (R228 to R230) -/

/-- First page that a transfer copies: all for RING = 0, the last R for a ring (R229). -/
def xferFirst (k np : Nat) : Nat := if kvRing k then np - kvR k else 0

/-- The table of a new sequence takes page slots of its pool, with no page in any entry (R203, R460). -/
def State.takeTable (s : State) (q : Nat) : State :=
  let e := s.seq q
  let per := 256 * kvEB e.kvl
  let s := (List.range e.tblSlots).foldl (fun s j =>
    match s.takeSlot e.pool with
    | (none, s) => s
    | (some i, s) =>
      let s := s.setPage e.pool i { base := s.objDpa e.pool (s.elemOfs e.pool i), flags := 32, first := j * per }
      s.modSeq q fun e => { e with tslots := e.tslots ++ [i] }) s
  (List.range (kvLayers e.kvl * e.nslot)).foldl (fun s idx => s.tblSet (s.seq q) idx noPage) s

/-- Takes fresh pages, with IMPORTED set, for the records of a transfer of `len` positions (R229). -/
def State.freshPages (s : State) (q len : Nat) : State :=
  let k := (s.seq q).kvl
  let np := (len + 255) / 256
  (List.range (kvLayers k)).foldl (fun s l =>
    (List.range' (xferFirst k np) (np - xferFirst k np)).foldl (fun s pg => (s.newPage q l pg 16).2) s) s

/-- Copies the records of transfer bytes into the pages of a sequence, and sets its length (R229). -/
def State.landPages (s : State) (q : Nat) (data : List Byte) : State :=
  let e := s.seq q
  let len := leNat ((data.drop 4).take 4)
  let np := (len + 255) / 256
  let k := e.kvl
  let s := (List.range (kvLayers k)).foldl (fun s l =>
    (List.range' (xferFirst k np) (np - xferFirst k np)).foldl (fun s pg =>
      match s.pageOf e l pg with
      | none => s
      | some i =>
        let n := min 256 (len - 256 * pg)
        let o := 64 + (l * np + pg) * xferStride k
        let s := s.objWrite e.pool (s.elemOfs e.pool i) ((data.drop o).take (n * kvEB k))
        let s := s.objWrite e.pool (s.scaleOfs e.pool i) ((data.drop (o + 256 * kvEB k)).take (n * kvSB k))
        s.setPage e.pool i { s.page e.pool i with committed := n, written := n }) s) s
  s.modSeq q fun e => { e with len := len }

/-- A copy ends: the records go into the fresh pages, and the sequence returns to OPEN (R229). -/
def execKvImportCopyEnd (seq : Fin 262144) (s : State) : Host.Outcome State Fault Refusal :=
  .next (
    let e := s.seq seq
    match e.importing with
    | none => s
    | some x =>
      let s := s.landPages seq x.data
      let s := s.modSeq seq fun e => { e with state := .opened, importing := none }
      let s := s.inc PRT_KV_XFER.IMPORTS (seqPart seq)
      let s := s.completeLater x.done 0 0 x.bytes
      if s.inGroup (seqPart seq) ∧ s.iState (s.instOf (seqPart seq)) = iRunning then s else s.applyClose seq)

/-- An export writes its buffer and completes (R230). -/
def execKvExportEnd (seq : Fin 262144) (s : State) : Host.Outcome State Fault Refusal :=
  .next (
    let e := s.seq seq
    match e.exporting.find? (·.ready) with
    | none => s
    | some x =>
      let s := s.setSeq seq { e with exporting := e.exporting.erase x }
      let s := s.writeSpace x.done.ring x.dev x.addr x.data
      (s.inc PRT_KV_XFER.EXPORTS (seqPart seq)).completeLater x.done 0 0 x.data.length)

end Sys2Proof.Machine
end

