-- ==== Sys2Proof/Machine/Rings.lean ====
section
/-! DEFINITION. Submission rings, doorbells, reading and starting of descriptors, moderation of interrupts (R361 to R371,
R380). -/

namespace Sys2Proof.Machine

/-- Bytes `ofs` to `ofs + n - 1` of an entry, as a number. -/
def Desc.le (d : Desc) (ofs n : Nat) : Nat := leNat ((d.bytes.drop ofs).take n)
def Desc.opcode (d : Desc) : Nat := d.le 0 1
def Desc.flags (d : Desc) : Nat := d.le 1 1
def Desc.tag (d : Desc) : Nat := d.le 4 4
def Desc.notify (d : Desc) : Bool := d.flags % 2 = 1

/-- What is left of a descriptor of ring `x` until it completes. -/
def Desc.later (d : Desc) (x : Nat) : Later := ⟨x, d.pos, d.tag, d.opcode, d.notify⟩

/-- Completes a descriptor with a status. -/
def State.finish (s : State) (x : Nat) (d : Desc) (status : Nat) : State := s.completeLater (d.later x) status 0 0

/-- The body bytes outside `used`, a list of (offset, length), are 0, and so are the header's reserved fields; `flags` is
the mask of FLAGS bits in use (R9, R370). -/
def Desc.clean (d : Desc) (flags : Nat) (used : List (Nat × Nat)) : Bool :=
  decide (d.flags &&& (255 - flags) = 0) && decide (d.le 2 2 = 0)
    && (List.range 56).all fun i => (used.any fun u => u.1 ≤ i + 8 ∧ i + 8 < u.1 + u.2) || decide (d.le (i + 8) 1 = 0)

/-- The opcode is accepted on the ring and version (R371). -/
def opcodeOk (admin : Bool) (version op : Nat) : Bool :=
  if admin then op ∈ [0x0B, 0x0D, 0x0E, 0x0F, 0x11]
  else (1 ≤ op ∧ op ≤ 0x0A) ∨ op ∈ [0x0C, 0x0E, 0x0F] ∨ (op = 0x10 ∧ version = 2)

/-- AQP version of a ring's context. -/
def State.aqpVersion (s : State) (x : Nat) : Nat :=
  if x = adminCtx then s.fld HIF_ADM_CFG.VERSION 0 else s.fld VF_CTX_CFG.VERSION x

/-- The fatal state (R406). -/
def State.fatal (s : State) : Bool := s.fld FLT_STATUS.FATAL 0 = 1

/-! ### Reading entries (R363, R369) -/

/-- Reads up to `n` further entries of a submission ring. An entry with an opcode that is not accepted completes OPCODE, or
STATE in the fatal state (R406). -/
def State.fetch (s : State) (x : Nat) : Nat → State
  | 0 => s
  | n + 1 =>
    let c := s.ctx x
    let head := s.sqHead x
    if !s.ringLive x || decide (head = c.sqTail) || decide (c.open_.length ≥ 1024) then s
    else
      match s.readSpace x c.sq.dev (c.sq.entryAddr head 64) 64 with
      | none => s
      | some bs =>
        let at_ := (c.tails.find? fun t => (t.1 + 2 ^ 32 - head) % 2 ^ 32 ≠ 0).map Prod.snd
        let d : Desc := { pos := head, bytes := bs, arrived := at_.getD 0 }
        let head' := (head + 1) % 2 ^ 32
        let s := (s.setSqHead x head').modCtx x fun c => { c with
          open_ := c.open_ ++ [head], tails := c.tails.filter fun t => t.1 ≠ head' }
        let s := if opcodeOk (decide (x = adminCtx)) (s.aqpVersion x) d.opcode then
            s.modCtx x fun c => { c with started := c.started ++ [d] }
          else s.finish x d (if s.fatal then 0x03 else 0x02)
        s.fetch x n

/-- The device reads further entries of a ring (R369). -/
def execDescriptorFetch (r : RingId) (s : State) : Host.Outcome State Fault Refusal :=
  .next (s.fetch (ringNo r) 1024)

/-- The next descriptor of ring `r` starts, if it is one that `mine` names: descriptors of a ring start in ring order
(R369). In the fatal state it completes STATE (R406). -/
def State.descr (s : State) (r : RingId) (mine : Desc → Bool) (body : Nat → Desc → State → State) : State :=
  let x := ringNo r
  match (s.ctx x).started with
  | [] => s
  | d :: rest =>
    if !mine d then s
    else
      let s := s.modCtx x fun c => { c with started := rest }
      if s.fatal then s.finish x d 0x03 else body x d s

/-- FENCE (R369): completes when every earlier descriptor of the ring has; later ones wait for it. -/
def execFenceDescriptor (r : RingId) (s : State) : Host.Outcome State Fault Refusal :=
  .next (
    match (s.ctx (ringNo r)).started with
    | [] => s
    | f :: _ =>
      if (s.ctx (ringNo r)).open_.head? = some f.pos then
        s.descr r (fun d => d.opcode = 0x0E) fun x d s => s.finish x d (if d.clean 1 [] then 0 else 1)
      else s)

/-- NOP completes on reading (R376). -/
def execNopDescriptor (r : RingId) (s : State) : Host.Outcome State Fault Refusal :=
  .next (s.descr r (fun d => d.opcode = 0x0F) fun x d s => s.finish x d (if d.clean 1 [] then 0 else 1))

/-! ### Doorbells (R24, R363, R367, R368) -/

/-- Host stores that are visible before the command (R361). -/
def State.hostStores (s : State) (x : Nat) (mem : HostStores) : State :=
  { s with host := mem.foldl (fun m e => setByte m (s.hostKey x e.1) e.2) s.host }

/-- A doorbell write is ignored (R368). -/
def State.dropDb (s : State) (x : Nat) : State := if x = adminCtx then s else s.inc VF_CTX_CNT.DB_DROPS x

/-- A tail or head error (R368, R379). -/
def State.ringError (s : State) (x arg v : Nat) : State := (s.dropDb x).eventTo x 0x9 arg (leBytes v 8)

/-- A new submission tail (R368). -/
def State.newTail (s : State) (x v : Nat) : State :=
  if !s.ringLive x then s.dropDb x
  else
    let c := s.ctx x
    if (v + 2 ^ 32 - s.sqHead x) % 2 ^ 32 > c.sq.entries then s.ringError x 0 v
    else if v = c.sqTail then s
    else s.modCtx x fun c => { c with sqTail := v, tails := c.tails ++ [(v, s.now)] }

/-- SQ_TAIL (R368). -/
def execSqTail (r : RingId) (tail : BitVec 32) (mem : HostStores) (s : State) : Host.Outcome State Fault Refusal :=
  .next ((s.hostStores (ringNo r) mem).newTail (ringNo r) tail.toNat)

/-- A new completion head (R368). -/
def State.newCqHead (s : State) (x v : Nat) : State :=
  let c := s.ctx x
  if !s.ringLive x then s.dropDb x
  else if (v + 2 ^ 32 - c.cqHead) % 2 ^ 32 > cqUsed c then s.ringError x 1 v
  else s.modCtx x fun c => { c with cqHead := v }

/-- A write to the header of a device-resident ring: of a submission ring TAIL is read and applied, of a completion ring
HEAD (R367). -/
def State.headerDoorbell (s : State) (x : Nat) : State :=
  let c := s.ctx x
  let s := match c.sq.dev, s.readOva x (c.sq.base + 0x10) 4 with
    | true, some bs => s.newTail x (leNat bs)
    | _, _ => s
  match c.cq.dev, s.readOva x (c.cq.base + 0x14) 4 with
  | true, some bs => s.newCqHead x (leNat bs)
  | _, _ => s

def execRingHeaderDoorbell (r : RingId) (s : State) : Host.Outcome State Fault Refusal :=
  .next (s.headerDoorbell (ringNo r))

/-- Writes completions held for ring space, as far as there is room (R364). -/
def State.spaceResume (s : State) (x : Nat) : Nat → State
  | 0 => s
  | n + 1 =>
    let c := s.ctx x
    match c.held with
    | [] => s
    | e :: rest =>
      if cqUsed c ≥ c.cq.entries then s
      else ((s.modCtx x fun c => { c with held := rest }).putCompletion x e).spaceResume x n

/-- A completion held for ring space is written once the host consumes entries (R364). -/
def execCqSpaceResume (r : RingId) (s : State) : Host.Outcome State Fault Refusal :=
  .next (if s.ringLive (ringNo r) then s.spaceResume (ringNo r) (s.ctx (ringNo r)).held.length else s)

/-- CQ_HEAD (R368). -/
def execCqHead (r : RingId) (head : BitVec 32) (s : State) : Host.Outcome State Fault Refusal :=
  .next (s.newCqHead (ringNo r) head.toNat)

/-- EQ_HEAD (R368). -/
def execEqHead (r : RingId) (head : BitVec 32) (s : State) : Host.Outcome State Fault Refusal :=
  .next (
    let x := ringNo r
    let v := head.toNat
    let c := s.ctx x
    if !s.ringLive x then s.dropDb x
    else if (v + 2 ^ 32 - c.eqHead) % 2 ^ 32 > eqUsed c then s.ringError x 2 v
    else s.modCtx x fun c => { c with eqHead := v })

/-- The oldest completion since the vector last fired has waited MOD_TICKS (R380). -/
def execModTicksExpiry (r : RingId) (s : State) : Host.Outcome State Fault Refusal :=
  .next (
    let x := ringNo r
    let c := s.ctx x
    let t := s.modTicksCfg x
    if s.ringLive x ∧ t ≠ 0 ∧ c.modCnt ≠ 0 ∧ s.irqEn x ∧ !c.cq.dev ∧ s.ntu.elapsed ≥ c.modSince + t then s.fireVector x else s)

end Sys2Proof.Machine
end

