-- ==== Sys2Proof/Machine/ObjOps.lean ====
section
/-! DEFINITION. Frames, tiles, keys, charges and mappings of objects (R258 to R272, R347). -/

namespace Sys2Proof.Machine

/-! ### Free frames and tiles (R258, R259, R269, R284) -/

/-- The free tiles a request may write: none on a READ_ONLY tower (R338). -/
def State.openTiles (s : State) (t : Nat) : Ranges := if s.fld RTF_STATUS.STATE t = 5 then [] else s.tiles t

/-- Takes a run of `n` consecutive members of a tier's unit: which free run is not stated, so any. -/
def State.takeRun (s : State) (root : Bool) (u n : Nat) (aligned : Bool) : Option Nat × State :=
  let r := if root then s.openTiles u else s.frames u
  let c := ((r.runs n aligned).map Prod.snd).sum
  if c = 0 then (none, s)
  else
    let (k, s) := s.draw
    match r.nthRun n aligned (Config.freeChoice k % c) with
    | some f => (some f, if root then s.setTiles u ((s.tiles u).remove f n) else s.setFrames u (r.remove f n))
    | none => (none, s)

/-! ### Tiles that the device's engines write (R330, R331) -/

/-- A Root-class event. -/
def rootEvt (t die tile evt : Nat) : Evt := { cls := 5, ins := t * 16 + die, evt := evt, loc := t + die * 16 + tile * 256 }

/-- `n` tiles are written, by requests or by the layer itself. -/
def State.wear (s : State) (t n : Nat) (layer : Bool) : State :=
  let s := s.modTower t fun x =>
    if layer then { x with lifeTiles := x.lifeTiles + n, relocTiles := x.relocTiles + n }
    else { x with lifeTiles := x.lifeTiles + n, wrTiles := x.wrTiles + n }
  let x := s.tower t
  let s := (s.setFld RTF_WEAR.HOST_WR_GIB t (min RTF_WEAR.HOST_WR_GIB.max (x.wrTiles / 16384))).setFld RTF_WEAR.RELOC_WR_GIB t
    (min RTF_WEAR.RELOC_WR_GIB.max (x.relocTiles / 16384))
  let pct := min RTF_WEAR.WEAR_PCT.max (x.lifeTiles * 100 / (134217728 * 3000))
  let before := s.fld RTF_WEAR.WEAR_PCT t
  let s := s.setFld RTF_WEAR.WEAR_PCT t pct
  if before < 90 ∧ 90 ≤ pct then s.raise { rootEvt t 0 0 0x6 with value := pct } else s

/-- An engine may write a frame: one of a tower is accepted while the tower serves and VHOLD is good (R331, R426). -/
def State.writable (s : State) (frame : Nat) : Bool :=
  match place (frame * 65536) with
  | .root t _ => s.rtServes t && decide (s.fld PWR_STATUS.VHOLD_OK 0 = 1)
  | _ => true

/-- An engine has written a whole tile at a Root frame: it is acknowledged in the write buffer. One that finds the buffer
full has waited for its oldest tile to be programmed (R331; log 92). -/
def State.tileWritten (s : State) (frame : Nat) : State :=
  match place (frame * 65536) with
  | .root t o =>
    let full := (s.tower t).buffer.length ≥ 64
    let s := if full then s.inc RTF_RELOC.BUF_WAITS t else s
    let s := s.modTower t fun x => { x with buffer := (if full then x.buffer.tail else x.buffer) ++ [o / 65536] }
    (s.setFld RTF_STATUS.BUF_TILES t (s.tower t).buffer.length).wear t 1 false
  | _ => s

/-- An engine has written the pages of a range of OVAs of context `x`. -/
def State.pagesWritten (s : State) (x ova n : Nat) : State :=
  (ovaPieces (n / 65536 + 2) ova n).foldl (fun s q => s.tileWritten ((s.pte x q.1).dpa q.1 / 65536)) s

/-- Takes runs of the given lengths: the 64 KiB members in order, or nothing. -/
def State.takeRuns (s : State) (root : Bool) (u : Nat) (aligned : Bool) : List Nat → Option (List Nat) × State
  | [] => (some [], s)
  | n :: ns =>
    match s.takeRun root u n aligned with
    | (none, s) => (none, s)
    | (some f, s) =>
      match s.takeRuns root u aligned ns with
      | (some fs, s) => (some (List.range' f n ++ fs), s)
      | (none, s) => (none, s)

/-- The first frame past a stack's staging area: the end of its software frames, below what a pseudo-channel retirement
withdraws and hosted translation maps take (R282, R302, R428); and its first. -/
def State.stageTop (s : State) (st : Nat) : Nat :=
  let hosted := ((List.range 16).filter fun t => (s.tower t).mapHost = some st).length
  if hosted ≠ 0 then 999424 - 16384 * hosted
  else if s.fld TRK_STATUS.PC_RETIRED st = 1 ∨ s.fld TRK_STATUS.STATE st = 4 then 999424 else swFrames

def State.stageFirst (s : State) (st : Nat) : Nat := s.stageTop st - 16 * s.fld PRT_XL_CFG.STAGE_MIB st

/-- The staging area of a partition covers `n` frames from `first` now: free frames of it leave the free pool (R282). -/
def State.placeStage (s : State) (st first n : Nat) : State :=
  let free := (List.range' first n).filter fun f => (s.frames st).mem f
  let s := s.setFrames st ((s.frames st).remove first n)
  s.modMem st fun m => { m with stageFree := free.foldl (fun (r : Ranges) f => r.add f 1) m.stageFree }

/-- The frames of a stack that wait for ROWINIT are cleared, read as zero and enter the free pool; those inside the
staging area enter it instead (R269, R282, R284). -/
def State.clearFrames (s : State) (st : Nat) : State :=
  let pend := s.pendFrames st
  if pend = [] then s
  else
    let s := pend.foldl (fun s e =>
      let a := trunkDpa st (e.1 * 65536)
      { s with trunk := zeroBytes s.trunk a (e.2 * 65536)
               tmarks := s.tmarks.filter fun m => decide (m.1 * 32 + 32 ≤ a) || decide (a + e.2 * 65536 ≤ m.1 * 32) }) s
    let s := s.setPend st []
    let s := pend.foldl (fun s (e : Nat × Nat) => s.setFrames st ((s.frames st).add e.1 e.2)) s
    let s := s.placeStage st (s.stageFirst st) (s.stageTop st - s.stageFirst st)
    s.dropWithdrawn st

/-! ### Keys (R347) -/

/-- Live keys. -/
def Sec.live (x : Sec) : List Nat := (x.keys.filter fun e => e.2.live).map Prod.fst

/-- A free key ID, any of 1 to 4,095, taken for a context or a group. -/
def State.newKey (s : State) (group : Bool) (owner : Nat) : Option Nat × State :=
  let free := (List.range' 1 4095).filter fun k => !(s.sec.keys.get {} k).live
  if free = [] then (none, s)
  else
    let (k, s) := s.draw
    match free[Config.freeChoice k % free.length]? with
    | some i => (some i, { s with sec := { s.sec with keys := s.sec.keys.set {} i { live := true, group := group, owner := owner } } })
    | none => (none, s)

def State.zeroKey (s : State) (k : Nat) : State := { s with sec := { s.sec with keys := s.sec.keys.set {} k {} } }

/-! ### Objects -/

def Pte.bytes (e : Pte) : Nat := if e.big then 0x200000 else 65536

/-- Bytes charged to a context in a tier (R271): mapped pages, golden copies, the destinations of tiles in copy. -/
def State.charge (s : State) (x : Nat) (t : Tier) : Nat :=
  let objs := (s.ctx x).objs.filter fun o => o.owner = x
  let pages := (objs.map fun o => (((s.objPages x o).filter fun e => e.2.tier = t).map fun e => e.2.bytes).sum).sum
  let golden := if t = .root then (objs.map fun o => 65536 * o.golden.length).sum else 0
  let moving := (s.mems.map fun (e : Nat × MemPart) => (e.2.mig.map fun m =>
    if m.tier = t ∧ (s.findObj m.obj).map (·.owner) = some x then m.copying.length * 65536 else 0).sum).sum
  pages + golden + moving

/-- A new charge keeps to the quota of a tier (R271, R272). -/
def State.quotaOk (s : State) (x : Nat) (t : Tier) (n : Nat) : Bool :=
  n = 0 || decide (s.charge x t + n ≤ (if t = .trunk then (s.ctx x).qTrunk else (s.ctx x).qRoot))

def State.modObj (s : State) (x h : Nat) (f : Obj → Obj) : State :=
  s.modCtx x fun c => { c with objs := c.objs.map fun o => if o.handle = h then f o else o }

/-- The contexts, lowest first, that map the frames of `sid`. -/
def State.mappers (s : State) (sid : Nat) : List Nat :=
  s.ctxList.filter fun x => (s.ctx x).objs.any fun o => o.sid = sid

/-- The lowest object index not in use among the live objects of a context (R421). -/
def State.newHandle (s : State) (x : Nat) : Nat :=
  let used := (s.ctx x).objs.map fun o => o.handle % 2 ^ 20
  x * 2 ^ 20 + ((List.range (used.length + 1)).find? fun v => v ∉ used).getD 0

/-- W of the pages of an object in a tier (R201, R263). -/
def Obj.pteW (o : Obj) (t : Tier) (shared : Bool) : Bool := o.writable && decide (o.kind ≠ 2) && decide (t ≠ .root) && !shared

/-- Enters the pages of an object at 64 KiB frames in OVA order. -/
def State.mapPages (s : State) (x : Nat) (o : Obj) (t : Tier) (shared : Bool) (frames : List Nat) : State :=
  let ep := s.fld VF_CTX_STATUS.EPOCH x
  let base := o.ova / 65536
  let big := o.big && decide (t = .trunk)
  let pte := fun f : Nat => ({ epoch := ep, key := o.key, frame := f, tier := t, big := big, pin := o.pin, shared := shared
                               w := o.pteW t shared, present := true } : Pte)
  s.modCtx x fun c => { c with pages := (frames.mapIdx fun i f => (i, f)).foldl (fun m e =>
    if big ∧ e.1 % 32 ≠ 0 then m else m.set {} (base + e.1) (pte e.2)) c.pages }

/-- One context alone maps the frames of `sid`: its entries are no longer SHARED (R262). -/
def State.unshare (s : State) (sid : Nat) : State :=
  match s.mappers sid with
  | [y] => ((s.ctx y).objs.filter fun q => q.sid = sid).foldl (fun s q =>
      (s.objPages y q).foldl (fun s e => s.setPte y e.1 { e.2 with shared := false }) s) s
  | _ => s

/-- An object is unmapped (R269, R271): its entries go, its frames and tiles are freed when no other context maps them,
else the charge passes to the lowest context that does. -/
def State.unmapObj (s : State) (x : Nat) (o : Obj) : State :=
  let frames := s.objFrames x o
  let s := s.modCtx x fun c => { c with
    objs := c.objs.filter fun q => q.handle ≠ o.handle
    pages := c.pages.filter fun e => !(decide (o.ova / 65536 ≤ e.1) && decide (e.1 < (o.ova + o.bytes) / 65536))
    fills := c.fills.filter fun f => f.obj ≠ o.handle
    killFrames := if s.cState x = cKilling then
        frames.foldl (fun r f => if f * 65536 < claspBase then r.add f 1 else r) c.killFrames else c.killFrames }
  let s := s.setFree o.handle []
  match s.mappers o.sid with
  | [] => (frames ++ o.golden.map (· / 65536)).foldl State.freeDpaFrame s
  | y :: ys =>
    let new := if o.owner = x then y else o.owner
    ((y :: ys).foldl (fun s z => s.modCtx z fun c => { c with objs := c.objs.map fun q =>
      if q.sid = o.sid then { q with owner := new } else q }) s).unshare o.sid

/-- OVA ranges overlap. -/
def rangesMeet (a n b m : Nat) : Bool := decide (a < b + m) && decide (b < a + n)

/-- A range lies in the object region and is aligned and sized (R261, R266). -/
def ovaOk (ova bytes : Nat) (big : Bool) : Bool :=
  let page := if big then 0x200000 else 65536
  decide (0x10000 ≤ ova) && decide (ova + bytes ≤ 0xFFFFFF600000) && decide (ova % page = 0) && decide (bytes % page = 0)
    && decide (0 < bytes)

/-- A 2 MiB boundary of a pool lies inside an element area or a scale block, which takes consecutive frames (R460). -/
def poolJoins (kvl bytes k : Nat) : Bool :=
  let b := k * 0x200000
  let e0 := poolE0 kvl bytes
  let s0 := poolS0 kvl bytes
  (decide (e0 < b ∧ b < s0) && decide ((b - e0) % kvEAF kvl ≠ 0))
    || (decide (kvSAP kvl > 65536) && decide (s0 < b ∧ b < s0 + poolPages kvl bytes * kvSAP kvl) && decide ((b - s0) % kvSAP kvl ≠ 0))

/-- Lengths of the frame runs of a KV pool (R460): element areas, and scale blocks larger than a frame, take consecutive
frames; 2 MiB pages that share one lie side by side. -/
def poolRuns (kvl bytes : Nat) (big : Bool) : List Nat :=
  if big then
    ((List.range (bytes / 0x200000)).foldl (fun (l : List Nat) k =>
      match l with
      | n :: r => if poolJoins kvl bytes k then (n + 32) :: r else 32 :: l
      | [] => [32]) []).reverse
  else
    let n := poolPages kvl bytes
    let desc := poolE0 kvl bytes / 65536
    let scales := if kvSAP kvl ≤ 65536 then List.replicate (roundTo (n * kvSAP kvl) 65536 / 65536) 1
      else List.replicate n (kvSAP kvl / 65536)
    let used := desc + n * (kvEAF kvl / 65536) + scales.sum
    List.replicate desc 1 ++ List.replicate n (kvEAF kvl / 65536) ++ scales ++ List.replicate (bytes / 65536 - used) 1

/-- Every trail of the context's group that is running makes its maps and unmaps wait for a boundary (R269). -/
def State.trailRuns (s : State) (x : Nat) : Bool := s.inGroup (ctxPart x) && s.executing (s.instOf (ctxPart x))

/-- A trail of the partition's group is RUNNING (R211). -/
def State.trailRunning (s : State) (p : Nat) : Bool := s.inGroup p && decide (s.iState (s.instOf p) = iRunning)

/-- Contexts of the partition group of `x`. -/
def State.sameGroup (s : State) (x y : Nat) : Bool :=
  ctxPart x = ctxPart y || (s.inGroup (ctxPart x) && maskBit (s.groupMask (ctxPart x)) (ctxPart y))

/-- The key of an object of context `x`: its own key, made at the first need, or its group's (R347). -/
def State.keyFor (s : State) (x : Nat) (group : Bool) : Option Nat × State :=
  if group then
    match s.sec.groupKey.find (s.groupMask (ctxPart x)) with
    | some k => (some k, s)
    | none => (none, s)
  else if (s.ctx x).key ≠ 0 then (some (s.ctx x).key, s)
  else
    match s.newKey false x with
    | (some k, s) => (some k, s.modCtx x fun c => { c with key := k })
    | (none, s) => (none, s)

end Sys2Proof.Machine
end

