-- ==== Sys2Proof/Machine/Placement.lean ====
section
/-! DEFINITION. The migration engines: which tiles move, in which order, and what they write (R227, R271 to R278). -/

namespace Sys2Proof.Machine

/-! ### Which tiles move (R227, R277, R460) -/

/-- A page that may go to Root: committed whole, no ring, ROOT_OK, no step of a sharer admitted (R227). -/
def State.rootable (s : State) (h i : Nat) : Bool :=
  let d := s.page h i
  let users := s.seqs.filter fun (e : Nat × SeqEnt) => e.2.pool = h ∧ e.2.state ≠ .closed
    ∧ (List.range (kvLayers e.2.kvl * e.2.nslot)).any fun k => s.tblGet e.2 k = i
  decide (d.ref ≥ 1) && decide (d.flags / 32 % 2 = 0) && decide (d.flags % 2 = 0) && decide (d.committed = 256)
    && users.all fun (e : Nat × SeqEnt) => kvRootOk e.2.kvl && !s.seqBusy e.1

/-- The page slots of a pool with a byte in tile `t` of the object; `none` if descriptors lie in it. -/
def State.slotsInTile (s : State) (o : Obj) (t : Nat) : Option (List Nat) :=
  if t * 65536 < poolE0 o.kvl o.bytes then none
  else some ((List.range (poolPages o.kvl o.bytes)).filter fun i =>
    rangesMeet (t * 65536) 65536 (s.elemOfs o.handle i) (kvEAF o.kvl) ||
      (decide (kvSf o.kvl ≠ 2) && rangesMeet (t * 65536) 65536 (s.scaleOfs o.handle i) (kvSAP o.kvl)))

/-- The entry of tile `t` of an object. -/
def State.tilePte (s : State) (x : Nat) (o : Obj) (t : Nat) : Pte := s.pte x (o.ova + t * 65536)

/-- Splits the 2 MiB pages of a range of tiles into pages of 64 KiB (R274). -/
def State.splitPages (s : State) (x : Nat) (o : Obj) (t0 n : Nat) : State :=
  let a := o.ova / 65536
  let one := fun (m : SMap Pte) (e : Nat × Pte) =>
    if e.2.big ∧ rangesMeet e.1 32 (a + t0) n then
      (List.range 32).foldl (fun m k => m.set {} (e.1 + k) { e.2 with big := false, frame := e.2.frame + k }) m
    else m
  s.modCtx x fun c => { c with pages := c.pages.foldl one c.pages }

/-- The entries, in every context that maps them, of tile `t` of an object: context and page number. -/
def State.tileEntries (s : State) (o : Obj) (t : Nat) : List (Nat × Nat) :=
  (s.mappers o.sid).flatMap fun y => ((s.ctx y).objs.filter fun q => q.sid = o.sid).map fun q => (y, q.ova / 65536 + t)

/-- Descriptors of the page slots of a pool in a tile follow the new mapping (R227, R277). -/
def State.refreshSlots (s : State) (o : Obj) (t : Nat) : State :=
  if o.kind ≠ 2 then s else
    ((s.slotsInTile o t).getD []).foldl (fun s i =>
      let d := s.page o.handle i
      if d.ref = 0 then s else
        let x := o.handle / 2 ^ 20
        let root := (List.range (kvEAF o.kvl / 65536)).all fun k => (s.pte x (o.ova + s.elemOfs o.handle i + k * 65536)).tier = .root
        s.setPage o.handle i { d with
          base := s.objDpa o.handle (s.elemOfs o.handle i)
          scale := (if kvSf o.kvl = 2 then 0 else s.objDpa o.handle (s.scaleOfs o.handle i))
          flags := d.flags - d.flags / 4 % 2 * 4 + (if root then 4 else 0) }) s

/-- Tiles of a pool: those of its descriptors, of one element area, before its scale blocks; those of the scale block of
slot `i`; and the slots with a scale block in a tile (R460). -/
def Obj.descTiles (o : Obj) : Nat := poolE0 o.kvl o.bytes / 65536
def Obj.elemTiles (o : Obj) : Nat := kvEAF o.kvl / 65536
def Obj.scaleStart (o : Obj) : Nat := poolS0 o.kvl o.bytes / 65536
def Obj.scaleTiles (o : Obj) (i : Nat) : List Nat :=
  if kvSf o.kvl = 2 then []
  else List.range' ((poolS0 o.kvl o.bytes + i * kvSAP o.kvl) / 65536) (max 1 (kvSAP o.kvl / 65536))
def Obj.scaleSlots (o : Obj) (t : Nat) : List Nat :=
  (List.range (poolPages o.kvl o.bytes)).filter fun i => t ∈ o.scaleTiles i

/-- A page slot lies in Root. -/
def State.slotRoot (s : State) (o : Obj) (i : Nat) : Bool := maskBit (s.page o.handle i).flags 2

/-- The scale block of slot `i` goes with it: it is in the range and not in the tier, and where its tile is shared every other
slot with a scale block there lies in Root already (R227; log 91). -/
def State.scaleGoes (s : State) (o : Obj) (m : MigReq) (i : Nat) : Bool :=
  (o.scaleTiles i).all fun u => decide (u < m.stop) && decide ((s.tilePte m.ctx o u).tier ≠ m.tier) &&
    (decide (m.tier ≠ .root) || (o.scaleSlots u).all fun j => decide (j = i) || s.slotRoot o j)

/-- The runs of tiles that move with tile `t` in one switch, `t` first; none where it stays. A tile of an ordinary object
moves alone. An element area of a KV pool stays whole (R460), and moves to Root only where R227 allows its page; a page that
the range does not hold whole stays (R277; log 91). -/
def State.moveUnit (s : State) (o : Obj) (m : MigReq) (t : Nat) : List (List Nat) :=
  if o.kind ≠ 2 then [[t]]
  else if t < o.descTiles then if m.tier = .root then [] else [[t]]
  else if t < o.scaleStart then
    let i := (t - o.descTiles) / o.elemTiles
    if (t - o.descTiles) % o.elemTiles ≠ 0 ∨ t + o.elemTiles > m.stop ∨ (m.tier = .root ∧ !s.rootable o.handle i) then []
    else List.range' t o.elemTiles :: (if o.scaleTiles i ≠ [] ∧ s.scaleGoes o m i then [o.scaleTiles i] else [])
  else
    match (o.scaleSlots t).head? with
    | none => if m.tier = .root then [] else [[t]]
    | some i =>
      if (o.scaleTiles i).head? ≠ some t ∨ !s.scaleGoes o m i ∨ (m.tier = .root ∧ !s.slotRoot o i) then [] else [o.scaleTiles i]

/-! ### Requests that meet (R278) -/

/-- The tiles a request touches, by the `sid` of their object: first tile and number. -/
def State.placeTouches (s : State) (m : MigReq) : List (Nat × Nat × Nat) :=
  (match s.findObj m.obj with
   | some o => [(o.sid, m.first, m.stop - m.first)]
   | none => [])
  ++ (match m.arrange.bind fun a => s.findObj a.dst with
   | some q => [(q.sid, 0, q.bytes / 65536)]
   | none => [])

/-- A request in progress at the engine of another partition than `p` has a range that overlaps (R278). -/
def State.placeBlocked (s : State) (p : Nat) (m : MigReq) : Bool :=
  s.mems.any fun (e : Nat × MemPart) => decide (e.1 ≠ p) && e.2.mig.any fun n => n.begun &&
    (s.placeTouches n).any fun a => (s.placeTouches m).any fun b => decide (a.1 = b.1) && rangesMeet a.2.1 a.2.2 b.2.1 b.2.2

/-! ### The engine (R272 to R274) -/

/-- A request leaves its engine's front and completes. -/
def State.endPlace (s : State) (p : Nat) (m : MigReq) (status : Nat) : State :=
  (s.modMem p fun q => { q with mig := q.mig.tail }).completeLater m.done status 0 0

/-- Puts the front request of an engine back, changed. -/
def State.putPlace (s : State) (p : Nat) (m : MigReq) : State := s.modMem p fun q => { q with mig := m :: q.mig.tail }

/-- Service of a request begins: the 2 MiB pages of its range are split, in every context that maps them. -/
def State.beginPlace (s : State) (p : Nat) (m : MigReq) (o : Obj) : State :=
  let s := if m.arrange.isSome then s else
    (s.mappers o.sid).foldl (fun s y =>
      ((s.ctx y).objs.filter fun q => q.sid = o.sid).foldl (fun s q => s.splitPages y q m.first (m.stop - m.first)) s) s
  s.putPlace p { m with begun := true }

/-- Changes every entry of tile `t` of an object. -/
def State.modTile (s : State) (o : Obj) (t : Nat) (f : Pte → Pte) : State :=
  (s.tileEntries o t).foldl (fun s y => s.setPte y.1 y.2 (f ((s.ctx y.1).pages.get {} y.2))) s

/-- A tile that stays is passed: one in the target tier already takes PIN (R266, R274). -/
def State.passPlace (s : State) (p : Nat) (m : MigReq) (o : Obj) : State :=
  (if m.pin ∧ (s.tilePte m.ctx o m.next).tier = m.tier then s.modTile o m.next fun e => { e with pin := true } else s).putPlace p
    { m with next := m.next + 1 }

/-- The copy of the tiles of `unit` to the frames `fs` starts: their entries carry MIG. -/
def State.startCopy (s : State) (p : Nat) (m : MigReq) (o : Obj) (unit fs : List Nat) : State :=
  unit.foldl (fun s t => s.modTile o t fun e => { e with mig := true }) (s.putPlace p { m with copying := unit.zip fs, got := 0 })

/-- The engine of a partition starts its next tile: tiles in place are passed, a request whose tiles are done completes, one
with a pinned tile is refused whole, one that meets its quota or finds no room ends (R272, R274, R278). `fuel` bounds the
tiles passed. -/
def State.startTile (s : State) (p : Nat) : Nat → State
  | 0 => s
  | fuel + 1 =>
    match (s.mem p).mig with
    | [] => s
    | m :: _ =>
      if m.copying ≠ [] then s
      else
        match s.findObj m.obj with
        | none => (s.endPlace p m 0x11).startTile p fuel
        | some o =>
          if m.cancelled then (s.endPlace p m 0x11).startTile p fuel
          else if !m.begun then
            if s.placeBlocked p m then s
            else if m.arrange.isNone ∧ (List.range' m.first (m.stop - m.first)).any fun t => (s.tilePte m.ctx o t).pin then
              (s.endPlace p m 0x10).startTile p fuel
            else (s.beginPlace p m o).startTile p fuel
          else if m.arrange.isSome then s
          else if m.next ≥ m.stop then (s.endPlace p m 0).startTile p fuel
          else
            let unit := s.moveUnit o m m.next
            if unit = [] ∨ (s.tilePte m.ctx o m.next).tier = m.tier then (s.passPlace p m o).startTile p fuel
            else if !s.quotaOk o.owner m.tier (65536 * unit.flatten.length) then
              (((s.endPlace p m 0x06).inc PRT_XL_MIG.QUOTA_REFUSED p).eventTo m.ctx 0x5 m.obj []).startTile p fuel
            else
              match s.takeRuns (decide (m.tier = .root)) m.unit false (unit.map List.length) with
              | (none, _) => (s.endPlace p m 0x05).startTile p fuel
              | (some fs, s) =>
                s.startCopy p m o unit.flatten (fs.map fun f => if m.tier = .root then rootFrame m.unit f else trunkFrame m.unit f)

/-- Requests and tiles an engine may pass before it starts one. -/
def State.tileFuel (s : State) (p : Nat) : Nat := ((s.mem p).mig.map fun m => m.stop - m.next + 3).sum + 1

/-- Every engine with nothing in copy goes on: one may have waited for another's request (R278). -/
def State.startTiles (s : State) : State := (List.range 16).foldl (fun s p => s.startTile p (s.tileFuel p)) s

/-- The source frames of the tiles in copy. -/
def State.copySources (s : State) (m : MigReq) : List Nat :=
  match s.findObj m.obj with
  | some o => m.copying.map fun e => (s.tilePte m.ctx o e.1).frame
  | none => []

/-- The source tiles not yet read are read, a grant each where they lie in Root (R264, R332): the request as it then
stands. -/
def State.readSources (s : State) (p : Nat) (m : MigReq) : MigReq × State :=
  let r := s.fetchTiles p m.got ((withFresh m.last (s.copySources m)).drop m.got)
  ({ m with got := r.1.2 }, r.2)

/-- One tile switches (R273, R274): its bytes lie at the new frame, every entry of it names that frame, the old frame or tile is
freed. What was poisoned stays so (R417). -/
def State.switchTile (s : State) (p : Nat) (m : MigReq) (o : Obj) (t f : Nat) : State :=
  let old := (s.tilePte m.ctx o t).frame
  let s := s.readTrunk p (some m.ctx) (old * 65536) 65536
  let s := ((s.moveBytes (old * 65536) (f * 65536) 65536).tileWritten f).chargeTrunk p (some m.ctx) (f * 65536) 65536
  let s := s.modTile o t fun e =>
    { e with frame := f, tier := m.tier, mig := false, pin := e.pin || m.pin, w := o.pteW m.tier e.shared }
  (s.freeDpaFrame old).inc PRT_XL_MIG.TILES_MOVED p

/-- The tiles in copy switch, and the engine may go on; descriptors of page slots follow (R274, R277). -/
def State.switchTiles (s : State) (p : Nat) (m : MigReq) (o : Obj) : State :=
  let last := (s.copySources m).getLast?.getD 0 + 1
  let s := m.copying.foldl (fun s e => s.switchTile p m o e.1 e.2) s
  let s := m.copying.foldl (fun s e => s.refreshSlots o e.1) s
  s.putPlace p { m with next := m.next + 1, copying := [], last := last }

/-- What remains of the requests that `f` names is cancelled; one with no tile in copy completes CANCELLED at once (R278). -/
def State.cancelWhere (s : State) (p : Nat) (f : MigReq → Bool) : State :=
  let l := (s.mem p).mig
  let s := s.modMem p fun q => { q with
    mig := (l.filter fun m => !(f m && decide (m.copying = []))).map fun m => if f m then { m with cancelled := true } else m }
  (l.filter fun m => f m && decide (m.copying = [])).foldl (fun s m => s.completeLater m.done 0x11 0 0) s

end Sys2Proof.Machine
end

