-- ==== Sys2Proof/Machine/Mapping.lean ====
section
/-! DEFINITION. OBJ_MAP and OBJ_UNMAP: what they check, take and give back, and when they take effect (R267 to R271, R278,
R284, R459). -/

namespace Sys2Proof.Machine

/-! ### OBJ_MAP (R267, R268, R270, R459) -/

/-- OBJ_MAP's body (R375). -/
structure MapReq where
  ova : Nat
  bytes : Nat
  kind : Nat
  fl : Nat
  tier : Nat
  unit : Nat
  src : Nat
  kvl : Nat
  fill : Nat
  rname : Nat
deriving DecidableEq, Repr

def Desc.mapReq (d : Desc) : MapReq :=
  { ova := d.le 8 8, bytes := d.le 0x10 8, kind := d.le 0x18 1, fl := d.le 0x19 1, tier := d.le 0x1A 1, unit := d.le 0x1B 1
    src := d.le 0x1C 4, kvl := d.le 0x20 8, fill := d.le 0x28 8, rname := d.le 0x30 8 }

def MapReq.big (r : MapReq) : Bool := maskBit r.fl 0
def MapReq.writable (r : MapReq) : Bool := maskBit r.fl 1
def MapReq.group (r : MapReq) : Bool := maskBit r.fl 2
def MapReq.backed (r : MapReq) : Bool := maskBit r.fl 3
def MapReq.pin (r : MapReq) : Bool := maskBit r.fl 4
def MapReq.share (r : MapReq) : Bool := maskBit r.fl 5
def MapReq.fillDev (r : MapReq) : Bool := maskBit r.fl 6
def MapReq.adopt (r : MapReq) : Bool := maskBit r.fl 7

/-- The unit a descriptor names: 0xFF is the home of the context's partition (R375). -/
def unitOf (x u : Nat) : Nat := if u = 0xFF then ctxPart x else u
def unitOk (u : Nat) : Bool := u < 16 || u = 0xFF

/-- The range meets a live object of the context, one with an accepted unmap among them (R267). -/
def State.ovaTaken (s : State) (x ova bytes : Nat) : Bool := (s.ctx x).objs.any fun o => rangesMeet o.ova o.bytes ova bytes

/-- A live or retained object of the partition carries the name (R267). -/
def State.nameTaken (s : State) (p rname : Nat) : Bool :=
  (s.sec.retained.any fun r => r.part = p ∧ r.rname = rname)
    || s.ctxs.any fun e => e.1 < adminCtx && decide (ctxPart e.1 = p) && e.2.objs.any fun o => o.rname = rname

/-- Status of an OBJ_MAP of a new object that its fields settle, 0 for none (R267, R270, R375, R460). DESIGN CHOICE (log 93):
UNIT may name any stack or tower, one of a partition outside the context's group among them. -/
def State.mapStatus (s : State) (x : Nat) (d : Desc) (r : MapReq) : Nat :=
  if !d.clean 1 [(8, 0x30)] ∨ r.kind > 3 ∨ r.tier > 1 ∨ !unitOk r.unit ∨ !ovaOk r.ova r.bytes r.big ∨ (r.big ∧ r.tier = 1)
      ∨ (r.kind = 1 ∧ r.writable) ∨ (r.backed ∧ !(r.kind = 1 ∧ r.tier = 0)) ∨ r.src ≠ 0 ∨ (r.kind ≠ 2 ∧ r.kvl ≠ 0)
      ∨ r.fill % 64 ≠ 0 ∨ (r.kind = 2 ∧ r.tier = 1) then 0x01
  else if r.kind = 2 ∧ !kvlOk r.kvl then 0x09
  else if r.kind = 2 ∧ poolPages r.kvl r.bytes = 0 then 0x01
  else if s.ovaTaken x r.ova r.bytes ∨ (r.rname ≠ 0 ∧ s.nameTaken (ctxPart x) r.rname) then 0x03
  else if r.group ∧ !s.inGroup (ctxPart x) then 0x27
  else if r.fill ≠ 0 ∧ r.fillDev ∧ (s.readOva x r.fill r.bytes).isNone then 0x01
  else if !s.quotaOk x (if r.tier = 0 then .trunk else .root) r.bytes ∨ (r.backed ∧ !s.quotaOk x .root r.bytes) then 0x06
  else 0

/-- Takes the frames or tiles of a new object and of its golden copy. -/
def State.takeObject (s : State) (x : Nat) (r : MapReq) : Option (List Nat × List Nat) × State :=
  let u := unitOf x r.unit
  let lens := if r.kind = 2 then poolRuns r.kvl r.bytes r.big
    else if r.big then List.replicate (r.bytes / 0x200000) 32 else List.replicate (r.bytes / 65536) 1
  match s.takeRuns (decide (r.tier = 1)) u r.big lens with
  | (none, s) => (none, s)
  | (some fs, s) =>
    let frames := fs.map fun f => if r.tier = 1 then rootFrame u f else trunkFrame u f
    if r.backed then
      match s.takeRuns true (ctxPart x) false (List.replicate (r.bytes / 65536) 1) with
      | (some ts, s) => (some (frames, ts.map fun t => rootFrame (ctxPart x) t * 65536), s)
      | (none, s) => (none, s)
    else (some (frames, []), s)

/-- Adds a live object and maps its pages. -/
def State.addObj (s : State) (x : Nat) (o : Obj) (t : Tier) (shared : Bool) (frames : List Nat) : State :=
  (s.modCtx x fun c => { c with objs := c.objs ++ [o] }).mapPages x o t shared frames

/-- Frames of the unit wait to be cleared: an OBJ_MAP that finds too few free frames waits for them (R284). -/
def State.framesComing (s : State) (x : Nat) (r : MapReq) : Bool := decide (s.pendFrames (unitOf x r.unit) ≠ [])

/-- OBJ_MAP of a new object takes effect (R267), or waits for frames (`true`). -/
def State.mapNew (s : State) (x : Nat) (d : Desc) : Bool × State :=
  let r := d.mapReq
  let st := s.mapStatus x d r
  if st ≠ 0 then (false, s.finish x d st)
  else
    match s.keyFor x r.group with
    | (none, _) => (false, s.finish x d 0x05)
    | (some key, s1) =>
      match s1.takeObject x r with
      | (none, _) => if r.tier = 0 ∧ s.framesComing x r then (true, s) else (false, s.finish x d 0x05)
      | (some (frames, golden), s1) =>
        let h := s1.newHandle x
        let o : Obj := { handle := h, ova := r.ova, bytes := r.bytes, kind := r.kind, big := r.big, writable := r.writable
                         groupKey := r.group, backed := r.backed, pin := r.pin, rname := r.rname, sid := s1.nextObj
                         owner := x, golden := golden, key := key, kvl := r.kvl }
        let s1 := { s1.addObj x o (if r.tier = 0 then .trunk else .root) false frames with nextObj := s1.nextObj + 1 }
        let n := if r.kind = 2 then poolPages r.kvl r.bytes else 0
        let s1 := if r.kind = 2 then s1.setFree h [(0, n)] else s1
        (false,
          if r.fill ≠ 0 ∨ r.backed then
            s1.modCtx x fun c => { c with fills := c.fills ++
              [{ done := d.later x, obj := h, src := r.fill, dev := r.fillDev, adopt := false, result := h, info := n }] }
          else s1.completeLater (d.later x) 0 n h)

/-- OBJ_MAP with SRC_OBJ takes effect (R268). -/
def State.mapShare (s : State) (x : Nat) (d : Desc) : State :=
  let r := d.mapReq
  let y := r.src / 2 ^ 20
  if !s.sameGroup x y then s.finish x d 0x04
  else
    match s.findObj r.src with
    | none => s.finish x d 0x03
    | some o =>
      if o.kind ≠ 1 ∨ !o.groupKey ∨ !d.clean 1 [(8, 0x30)] ∨ r.bytes ≠ o.bytes ∨ r.big ≠ o.big ∨ r.kind ≠ 1 ∨ r.writable ∨ r.backed
          ∨ !r.group ∨ r.fill ≠ 0 ∨ r.rname ≠ 0 ∨ r.kvl ≠ 0 ∨ !ovaOk r.ova r.bytes r.big then s.finish x d 0x01
      else if s.ovaTaken x r.ova r.bytes then s.finish x d 0x03
      else
        let h := s.newHandle x
        let q : Obj := { o with handle := h, ova := r.ova, writable := false, pin := r.pin, rname := 0 }
        -- the source's pages, entry by entry, at the new range
        let src := s.objPages y o
        let ep := s.fld VF_CTX_STATUS.EPOCH x
        let s := s.modCtx x fun c => { c with objs := c.objs ++ [q], pages := src.foldl (fun m e =>
          m.set {} (r.ova / 65536 + (e.1 - o.ova / 65536)) { e.2 with epoch := ep, shared := true, w := false, pin := r.pin }) c.pages }
        let s := src.foldl (fun s e => s.setPte y e.1 { e.2 with shared := true, w := false }) s
        s.completeLater (d.later x) 0 0 h

/-- OBJ_MAP with ADOPT takes effect (R459), or waits for frames (`true`). -/
def State.mapAdopt (s : State) (x : Nat) (d : Desc) : Bool × State :=
  let r := d.mapReq
  let p := ctxPart x
  match s.sec.retained.find? fun q => q.part = p ∧ q.rname = r.rname with
  | none => (false, s.finish x d 0x03)
  | some q =>
    if q.kind ≠ r.kind ∨ q.bytes ≠ r.bytes ∨ r.share ∨ r.backed ∨ r.fill ≠ 0 ∨ !d.clean 1 [(8, 0x30)] ∨ !ovaOk r.ova r.bytes q.big
        ∨ !unitOk r.unit ∨ (r.kind = 1 ∧ r.writable) then (false, s.finish x d 0x01)
    else if s.ovaTaken x r.ova r.bytes then (false, s.finish x d 0x03)
    else if !s.quotaOk x .root r.bytes ∨ (q.backed ∧ !s.quotaOk x .trunk r.bytes) then (false, s.finish x d 0x06)
    else
      let lens := if q.big then List.replicate (r.bytes / 0x200000) 32 else List.replicate (r.bytes / 65536) 1
      match (if q.backed then s.takeRuns false (unitOf x r.unit) q.big lens else (some [], s)) with
      | (none, _) => if s.framesComing x r then (true, s) else (false, s.finish x d 0x05)
      | (some fs, s) =>
        let h := s.newHandle x
        let o : Obj := { handle := h, ova := r.ova, bytes := q.bytes, kind := q.kind, big := q.big, writable := r.writable
                         groupKey := q.groupKey, backed := q.backed, pin := r.pin, rname := q.rname, sid := s.nextObj, owner := x
                         golden := if q.backed then q.tiles.map (· * 65536) else [], key := q.key, kvl := 0 }
        let s := { s with sec := { s.sec with retained := s.sec.retained.erase q }, nextObj := s.nextObj + 1 }
        (false,
          if q.backed then
            (s.addObj x o .trunk false (fs.map (trunkFrame (unitOf x r.unit)))).modCtx x fun c => { c with fills := c.fills ++
              [{ done := d.later x, obj := h, src := 0, dev := false, adopt := true, result := h, info := 0 }] }
          else (s.addObj x o .root false q.tiles).completeLater (d.later x) 0 0 h)

/-! ### OBJ_UNMAP and what waits (R269, R278) -/

/-- The object a handle of context `x` names, or the status of R375. -/
def State.ownObj (s : State) (x h : Nat) : Except Nat Obj :=
  if h / 2 ^ 20 ≠ x then .error 0x04
  else match s.findObj h with
    | some o => .ok o
    | none => .error 0x03

/-- A tile of the object is in copy (R274). -/
def State.copyingObj (s : State) (x h : Nat) : Bool :=
  (s.mem (ctxPart x)).mig.any fun m => m.ctx = x ∧ m.obj = h ∧ m.copying ≠ []

/-- The OBJ_PLACEs of an object that is to be unmapped are cancelled (R278). -/
def State.cancelPlaces (s : State) (x h : Nat) : State :=
  (s.cancelWhere (ctxPart x) fun m => decide (m.ctx = x) && (decide (m.obj = h) || m.arrange.any fun a => a.dst = h)).startTiles

/-- A sequence of the pool is OPEN, IMPORTING or FROZEN (R269). -/
def State.poolInUse (s : State) (h : Nat) : Bool := s.seqs.any fun e => e.2.pool = h ∧ e.2.state ≠ .closed

/-- OBJ_UNMAP takes effect, or waits for a tile in copy (answer `true`). -/
def State.unmapNow (s : State) (x : Nat) (d : Desc) : Bool × State :=
  if !d.clean 1 [(8, 4)] then (false, s.finish x d 0x01)
  else
    match s.ownObj x (d.le 8 4) with
    | .error e => (false, s.finish x d e)
    | .ok o =>
      if o.kind = 2 ∧ s.poolInUse o.handle then (false, s.finish x d 0x03)
      else
        let s := s.cancelPlaces x o.handle
        if s.copyingObj x o.handle then (true, s)
        else (false, (s.unmapObj x o).completeLater (d.later x) 0 0 0)

/-- One OBJ_MAP or OBJ_UNMAP takes effect; `true` if it still waits. -/
def State.effect (s : State) (x : Nat) (d : Desc) : Bool × State :=
  if d.opcode = 0x08 then s.unmapNow x d
  else
    let r := d.mapReq
    if r.adopt then s.mapAdopt x d else if r.share then (false, s.mapShare x d) else s.mapNew x d

/-- The due ones of a context's waiting OBJ_MAPs and OBJ_UNMAPs take effect, in ring order. -/
def State.runDeferred (s : State) (x : Nat) : State :=
  let l := (s.ctx x).deferred
  let s := s.modCtx x fun c => { c with deferred := [] }
  l.foldl (fun s e =>
    let r := if e.2 then s.effect x e.1 else (true, s)
    if r.1 then r.2.modCtx x fun c => { c with deferred := c.deferred ++ [e] } else r.2) s

/-- At a boundary every waiting OBJ_MAP and OBJ_UNMAP of the group's contexts is due (R66, R269). -/
def State.boundaryObjects (s : State) (mask : Nat) : State :=
  (s.ctxList.filter fun x => x < adminCtx && maskBit mask (ctxPart x)).foldl (fun s x =>
    if (s.ctx x).deferred = [] then s
    else (s.modCtx x fun c => { c with deferred := c.deferred.map fun e => (e.1, true) }).runDeferred x) s

/-- Frames have been cleared: OBJ_MAPs that waited for them take effect, of a context whose trail runs at its next boundary
(R269, R284). -/
def State.framesCleared (s : State) : State :=
  s.ctxList.foldl (fun s x => if (s.ctx x).deferred = [] ∨ s.trailRuns x then s else s.runDeferred x) s

/-- An OBJ_MAP or OBJ_UNMAP arrives (R269). -/
def State.deferOrRun (s : State) (x : Nat) (d : Desc) : State :=
  let now := !s.trailRuns x
  if now ∧ (s.ctx x).deferred = [] then
    let r := s.effect x d
    if r.1 then r.2.modCtx x fun c => { c with deferred := c.deferred ++ [(d, true)] } else r.2
  else s.modCtx x fun c => { c with deferred := c.deferred ++ [(d, now)] }

end Sys2Proof.Machine
end

