-- ==== Sys2Proof/Machine/Objects.lean ====
section
/-! DEFINITION. Descriptors that map, place and unmap objects and set quotas, and what ends them (R266 to R278, R375,
R459). -/

namespace Sys2Proof.Machine

/-! ### Mapping and unmapping -/

/-- OBJ_MAP of a new object (R267, R269). -/
def execObjMap (r : RingId) (s : State) : Host.Outcome State Fault Refusal :=
  .next (s.descr r (fun d => d.opcode = 0x06 ∧ !d.mapReq.share ∧ !d.mapReq.adopt) fun x d s => s.deferOrRun x d)

/-- OBJ_MAP with SRC_OBJ (R268). -/
def execObjMapShare (r : RingId) (s : State) : Host.Outcome State Fault Refusal :=
  .next (s.descr r (fun d => d.opcode = 0x06 ∧ d.mapReq.share ∧ !d.mapReq.adopt) fun x d s => s.deferOrRun x d)

/-- OBJ_MAP with ADOPT (R459). -/
def execObjMapAdopt (r : RingId) (s : State) : Host.Outcome State Fault Refusal :=
  .next (s.descr r (fun d => d.opcode = 0x06 ∧ d.mapReq.adopt) fun x d s => s.deferOrRun x d)

/-- OBJ_UNMAP (R269, R278). -/
def execObjUnmap (r : RingId) (s : State) : Host.Outcome State Fault Refusal :=
  .next (s.descr r (fun d => d.opcode = 0x08) fun x d s => s.deferOrRun x d)

/-- The bytes of a Root tile as read (R284). -/
def State.tileBytes (s : State) (dpa : Nat) : List Byte := getBytes s.root dpa 65536

/-- What a fill gives each byte of its object: an adopted BACKED object's Root copy, zeros, or bytes of the source space. -/
def State.fillBytes (s : State) (x : Nat) (f : FillReq) (o : Obj) : List Byte :=
  if f.adopt then o.golden.flatMap s.tileBytes
  else if f.src = 0 then List.replicate o.bytes 0
  else (s.readSpace x f.dev f.src o.bytes).getD (List.replicate o.bytes 0)

/-- Parts of a fill that its source gives as poison. -/
def State.fillBad (s : State) (x : Nat) (f : FillReq) (o : Obj) : List (Nat × Nat) :=
  if f.adopt then (o.golden.mapIdx fun i t => (i, t)).flatMap fun e => (s.badParts e.2 65536).map fun b => (65536 * e.1 + b.1, b.2)
  else if f.src ≠ 0 ∧ f.dev then s.ovaBad x f.src o.bytes else []

/-- The golden copy of an object is written beside its own bytes (R270). -/
def State.writeGolden (s : State) (o : Obj) (bs : List Byte) (bad : List (Nat × Nat)) : State :=
  (o.golden.mapIdx fun i t => (i, t)).foldl (fun (s : State) (e : Nat × Nat) =>
    let s := (s.writeDpa e.2 ((bs.drop (65536 * e.1)).take 65536)).tileWritten (e.2 / 65536)
    if bad.any fun b => rangesMeet b.1 b.2 (65536 * e.1) 65536 then s.poisonDpa e.2 65536 else s) s

/-- The fill of the context's oldest filling object ends: its bytes, and those of its golden copy, are written, or an
adopted BACKED object is filled from its Root copy; then OBJ_MAP completes (R270, R375, R459). It waits while a tower that
it writes does not accept writes. -/
def execObjMapFillEnd (x : Fin 4096) (s : State) : Host.Outcome State Fault Refusal :=
  .next (
    match (s.ctx x).fills with
    | [] => s
    | f :: rest =>
      let gone := s.modCtx x fun c => { c with fills := rest }
      match s.findObj f.obj with
      | none => gone.completeLater f.done 0 f.info f.result
      | some o =>
        if !((s.objFrames x o).all s.writable && (f.adopt || o.golden.all fun g => s.writable (g / 65536))) then s
        else
          let bs := s.fillBytes x f o
          let bad := s.fillBad x f o
          let s := if f.dev ∧ f.src ≠ 0 then gone.readTrunkOva (ctxPart x) x f.src o.bytes else gone
          let s := (s.writeOva x o.ova bs).pagesWritten x o.ova o.bytes
          let s := bad.foldl (fun s b => if o.kind = 2 then s else s.ovaPoison x (o.ova + b.1) b.2) s
          (if f.adopt then s else s.writeGolden o bs bad).completeLater f.done 0 f.info f.result)

/-! ### The migration engine (R273 to R275, R277) -/

/-- The tiles in copy switch, once every one of them has been read from its source and their new frames accept them (R274). The
engine goes on; OBJ_UNMAPs that waited for the tile take effect (R278). -/
def execMigrationTileSwitch (p : PartId) (s : State) : Host.Outcome State Fault Refusal :=
  .next (
    match (s.mem p).mig with
    | [] => s
    | m :: _ =>
      match s.findObj m.obj with
      | none => s
      | some o =>
        if m.copying = [] ∨ !(m.copying.all fun e => s.writable e.2) then s
        else
          let r := s.readSources p m
          if r.1.got < m.copying.length then r.2.putPlace p r.1
          else (r.2.switchTiles p r.1 o).startTiles.runDeferred m.ctx)

/-- Status of an OBJ_PLACE that its fields settle, or its object (R274, R375). -/
def State.placeCheck (s : State) (x : Nat) (d : Desc) (arrange : Bool) : Except Nat Obj :=
  if !d.clean 1 [(8, 15), (0x18, 7), (0x20, 8)] ∨ d.le 0x16 1 ≥ 4 ∨ (!arrange ∧ (d.le 0x18 7 ≠ 0 ∨ d.le 0x20 8 ≠ 0)) then .error 1
  else
    match s.ownObj x (d.le 8 4) with
    | .error e => .error e
    | .ok o =>
      if d.le 0x10 4 = 0 ∨ d.le 0xC 4 + d.le 0x10 4 > o.bytes / 65536 then .error 1
      else if !arrange ∧ (d.le 0x14 1 > 1 ∨ !unitOk (d.le 0x15 1)) then .error 1
      else .ok o

/-- A request enters the engine of its context's partition, behind those that arrived before it (R274). -/
def State.queuePlace (s : State) (m : MigReq) : State :=
  (s.modMem (ctxPart m.ctx) fun q => { q with mig := q.mig ++ [m] }).startTiles

/-- OBJ_PLACE (R274): a pinned tile refuses the whole request when its service begins. -/
def execObjPlace (r : RingId) (s : State) : Host.Outcome State Fault Refusal :=
  .next (s.descr r (fun d => d.opcode = 0x07 ∧ d.le 0x16 1 / 2 % 2 = 0) fun x d s =>
    match s.placeCheck x d false with
    | .error e => s.finish x d e
    | .ok o =>
      s.queuePlace { done := d.later x, ctx := x, obj := o.handle, first := d.le 0xC 4, next := d.le 0xC 4
                     stop := d.le 0xC 4 + d.le 0x10 4, tier := if d.le 0x14 1 = 1 then .root else .trunk
                     unit := unitOf x (d.le 0x15 1), pin := d.le 0x16 1 % 2 = 1, arrange := none })

/-! ### Rearranging (R276) -/

/-- Bytes of the source layout. -/
def arrangeSrc (n k bits : Nat) : Nat := roundTo (n * k * bits / 8) 64 + n * k / 32
/-- Bytes of a destination chunk. -/
def arrangeChunk (kg bits : Nat) : Nat := roundTo ((kg + 1) * 32 * (4 * bits + 1)) 64
/-- Bytes of the destination. -/
def arrangeDst (n k kg bits : Nat) : Nat := n / 32 * (k / (32 * (kg + 1))) * arrangeChunk kg bits

/-- OBJ_PLACE with ARRANGE (R276). KG is as LMAC's field, of nine bits (R93). -/
def execObjPlaceArrange (r : RingId) (s : State) : Host.Outcome State Fault Refusal :=
  .next (s.descr r (fun d => d.opcode = 0x07 ∧ d.le 0x16 1 / 2 % 2 = 1) fun x d s =>
    match s.placeCheck x d true with
    | .error e => s.finish x d e
    | .ok o =>
      match s.ownObj x (d.le 0x20 4) with
      | .error e => s.finish x d e
      | .ok q =>
        let a : Arrange := { dst := q.handle, n := d.le 0x18 4, k := d.le 0x24 4, kg := d.le 0x1C 2, wfmt := d.le 0x1E 1 }
        let bits := elemBits a.wfmt
        if a.wfmt ∉ [3, 4, 5, 6, 7, 8] ∨ a.kg > 511 ∨ a.n = 0 ∨ a.n % 32 ≠ 0 ∨ a.k = 0 ∨ a.k % (32 * (a.kg + 1)) ≠ 0
            ∨ d.le 0x10 4 * 65536 < arrangeSrc a.n a.k bits ∨ q.bytes < arrangeDst a.n a.k a.kg bits then s.finish x d 1
        else
          s.queuePlace { done := d.later x, ctx := x, obj := o.handle, first := d.le 0xC 4, next := d.le 0xC 4
                         stop := d.le 0xC 4 + d.le 0x10 4, tier := .trunk, unit := 0, pin := false, arrange := some a })

/-- The destination bytes of a rearrangement (R148, R276): elements and scales are copied verbatim. -/
def arranged (src : List Byte) (n k kg wfmt : Nat) : List Byte :=
  let bits := elemBits wfmt
  let scale0 := roundTo (n * k * bits / 8) 64
  (List.range (n / 32)).flatMap fun cb =>
    (List.range (k / (32 * (kg + 1)))).flatMap fun ch =>
      let groups := List.range' (ch * (kg + 1)) (kg + 1)
      let cols := List.range' (cb * 32) 32
      let elems := groups.flatMap fun g => cols.flatMap fun c => (src.drop ((c * k + g * 32) * bits / 8)).take (4 * bits)
      let scales := groups.flatMap fun g => cols.flatMap fun c => (src.drop (scale0 + c * (k / 32) + g)).take 1
      let chunk := elems ++ scales
      chunk ++ List.replicate (arrangeChunk kg bits - chunk.length) 0

/-- The rearrangement in service at a partition's engine finishes (R276). -/
def execArrangeEnd (p : PartId) (s : State) : Host.Outcome State Fault Refusal :=
  .next (
    match (s.mem p).mig with
    | [] => s
    | m :: _ =>
      match m.arrange, s.findObj m.obj with
      | some a, some o =>
        if !m.begun then s
        else
          let need := arrangeSrc a.n a.k (elemBits a.wfmt)
          let src := s.objBytes m.obj (m.first * 65536) need
          let s := s.readTrunkOva p m.ctx (o.ova + m.first * 65536) need
          let s := match s.findObj a.dst with
            | some q => s.writeOva m.ctx q.ova (arranged src a.n a.k a.kg a.wfmt)
            | none => s
          (s.endPlace p m 0).startTiles
      | _, _ => s)

/-! ### Quotas (R271, R272, R375) -/

/-- QUOTA_SET (R271, R375). -/
def execQuotaSet (r : RingId) (s : State) : Host.Outcome State Fault Refusal :=
  .next (s.descr r (fun d => d.opcode = 0x0B) fun x d s =>
    let y := d.le 8 2
    let set := d.le 0xB 1
    if !d.clean 1 [(8, 4), (0x10, 24)] ∨ y ≥ 4096 ∨ set ≥ 16 ∨ (maskBit set 3 ∧ d.le 0xA 1 > 100) then s.finish x d 1
    else if !s.cLive y then s.finish x d 3
    else
      (s.modCtx y fun c => { c with
        qCanopy := if maskBit set 0 then d.le 0x10 8 else c.qCanopy
        qTrunk := if maskBit set 1 then d.le 0x18 8 else c.qTrunk
        qRoot := if maskBit set 2 then d.le 0x20 8 else c.qRoot
        bwShare := if maskBit set 3 then d.le 0xA 1 else c.bwShare }).finish x d 0)

end Sys2Proof.Machine
end

