-- ==== Sys2Proof/Machine/Admission.lean ====
section
/-! DEFINITION. Admission of steps at a ring boundary: what becomes of the steps of the ring that ends, the checks on new
ones, buckets, admission lists and row areas (R24, R65, R78, R207, R223 to R225, R232 to R236, R249, R374). -/

namespace Sys2Proof.Machine

/-! ### The end of a schedule ring (R78, R249, R374) -/

/-- The entries of a step with no ACCEPT, or all of them, fail. -/
def StepRec.failed (r : StepRec) : StepRec :=
  let none_ := r.recs.all fun e => e.accepted.isSome
  { r with recs := r.recs.map fun e => if none_ ∨ e.accepted.isNone then { e with sstatus := 0x0D } else e }

/-- A step taken up again for its next attempt, with its retained inputs. -/
def StepRec.again (r : StepRec) : StepRec :=
  { r with attempts := r.attempts + 1, replayed := true, contained := false
           recs := r.recs.map fun e => { e with accepted := none, committed := false, prepared := false } }

/-- An ACCEPT with COMMIT = 1 that names the sequence has been issued and waits for the acceptance unit (R249). -/
def State.acceptIssued (s : State) (q : Nat) : Bool :=
  s.cores.any fun e => e.2.ops.any fun o =>
    let b := s.peek e.1 (o.cbase + o.a.toNat) 8
    decide (o.op = 0x72) && decide (leAt b 0 4 = q) && decide (leAt b 4 1 = 1)

/-- One step of partition `p` whose schedule ring has ended: an ADAPTER_STEP completes; a step contained, or with a sequence
for which no ACCEPT with COMMIT = 1 has been issued, goes to replay or, the third time, fails; any other waits for its
commit. -/
def State.endRingStep (s : State) (i p : Nat) (r : StepRec) : State :=
  let drop := fun (s : State) => (s.discardStep r).setSteps p ((s.stepsOf p).filter fun q => !(decide (q.id = r.id) && decide (q.ctx = r.ctx)))
  if r.adapter ∧ !r.contained then (drop s).stepDone r (s.now - 1)
  else if r.contained ∨ r.recs.any fun e => e.accepted.isNone && !s.acceptIssued e.seq then
    if r.attempts + 1 ≥ 3 then
      let f := r.failed
      ((drop s).inc RSQ_TRL_CNT.REPLAY_FAIL i).stepRefused f 0x0D ((f.recs.findIdx? fun e => e.sstatus ≠ 0).getD 0)
    else
      let s := (drop s).inc RSQ_TRL_CNT.REPLAYS i
      { s with replays := s.replays.set [] p (s.replays.get [] p ++ [r.again]) }
  else s

/-- The schedule ring before `k` ends for the steps of partition `p`. -/
def State.endRing (s : State) (i p k : Nat) : State :=
  ((s.stepsOf p).filter fun r => r.ring ≠ k).foldl (fun s r => s.endRingStep i p r) s

/-- Thread slots that trapped, or that were halted at a trapped slot's end, restart (R112). DESIGN CHOICE (log 82): PC of
PRT_TX_PC shows the current index again from here on, as its table has it; only CAUSE, FPC and ADDR keep their values until
the next trap. -/
def State.restartThreads (s : State) (i : Nat) : State :=
  (s.inst i).image.cores.foldl (fun s e =>
    (List.range 8).foldl (fun s t =>
      let x := s.thr e.lcid t
      if x.trapSlot.isSome then
        s.setThr e.lcid t { x.clearRegs with state := .running, pc := x.entry, wait := .none, trapSlot := none }
      else s) s) s

/-! ### The checks on a step -/

/-- An FP32 number in (0, 1]. -/
def f32Unit (v : Nat) : Bool := decide (0 < v) && decide (v ≤ 0x3F800000)
def f32Finite (v : Nat) : Bool := v / 2 ^ 23 % 256 ≠ 255

/-- The parameter block carries no reserved encoding (R233, R237). -/
def SeqRec.paramsOk (r : SeqRec) : Bool :=
  let inv := r.le 0x48 4
  let rep := r.le 0x50 4
  f32Finite inv && (decide (inv < 2 ^ 31) || decide (inv = 2 ^ 31)) && f32Unit (r.le 0x4C 4)
    && decide (0x3F800000 ≤ rep) && decide (rep < 0x7F800000) && f32Finite (r.le 0x54 4) && f32Finite (r.le 0x58 4)
    && decide (r.le 0x5C 2 ≤ 1024) && decide (r.le 0x5E 1 < 8) && decide (r.le 0x5E 1 % 4 ≠ 3) && decide (r.le 0x5F 1 = 0)
    && decide (r.le 0x70 2 ≤ 1024) && decide (r.le 0x72 2 ≤ 1024) && decide (r.le 0x77 1 = 0) && decide (r.le 0x78 8 = 0)

/-- The conditions of R233 on a record whose sequence's last released token is `last`. -/
def SeqRec.boughOk (r : SeqRec) (last : Option Nat) : Bool :=
  let mode := r.le 0x5E 1 % 4
  let tokLast := r.le 5 1 = 1
  decide (r.le 4 1 ≤ 63) && decide (r.le 0 4 < 2 ^ 18) && decide (r.le 5 1 ≤ 1) && decide (r.le 6 58 = 0) && r.paramsOk
    && decide (r.parent 0 = 0xFF) && (List.range' 1 (r.n - 1)).all (fun j => r.parent j < j)
    && r.tree.all (fun e => e.1 ≤ 15)
    && decide (r.q 0 = 0) && (List.range' 1 (r.n - 1)).all (fun j => if mode = 2 then f32Unit (r.q j).toNat else r.q j = 0)
    && (!tokLast || (last.isSome && decide (r.le 0x80 3 = 0)))

/-- What the dispatcher decides of a step: it completes with a status, the index of the first record at fault and the
indices of all at fault; it waits; or it goes on with its records. -/
inductive Vet where
  | refused (status at_ : Nat) (bad : List Nat)
  | waits
  | ok (recs : List SeqRec)
deriving DecidableEq, Repr

/-- A committed page of the sequence holds poison (R417). -/
def State.seqPoisoned (s : State) (q : Nat) : Bool :=
  let e := s.seq q
  (List.range (kvLayers e.kvl)).any fun l => (List.range e.nslot).any fun k =>
    match s.pageOf e l k with
    | some i => decide ((s.page e.pool i).committed > 0) && s.pageBad e.pool i
    | none => false

/-- The records of a step with their sequences' states checked (R14, R65, R211, R229, R233, R375, R417). -/
def State.vet (s : State) (p rows : Nat) (r : StepRec) : Vet :=
  match s.recsOf r with
  | none => .refused 0x01 0 []
  | some l =>
    let one := fun (status : Nat) (f : SeqRec → Bool) => match badRecs l f with
      | [] => none
      | i :: _ => some (Vet.refused status i [i])
    let dup := (l.mapIdx fun i e => (i, e.seq)).filter fun e => (l.take e.1).any fun d => d.seq = e.2
    match one 0x04 (fun e => seqPart e.seq ≠ p ∨ ((s.seq e.seq).state ≠ .closed ∧ (s.seq e.seq).ctx ≠ r.ctx)) with
    | some v => v
    | none =>
      match one 0x03 (fun e => (s.seq e.seq).state = .closed) with
      | some v => v
      | none =>
        match dup with
        | d :: _ => .refused 0x0B d.1 [d.1]
        | [] =>
          if l.any fun e => s.seqBusy e.seq ∨ (s.seq e.seq).state = .importing then .waits
          else
            match if r.recs ≠ [] then none else one 0x08 (fun e => !e.boughOk (s.seq e.seq).lastTok) with
            | some v => v
            | none =>
              if (l.map SeqRec.n).sum > rows then .refused 0x0B 0 []
              else
                match badRecs l (fun e => s.seqPoisoned e.seq) with
                | i :: is => .refused 0x0E i (i :: is)
                | [] =>
                  .ok (if r.recs ≠ [] then l else l.map fun e =>
                    { e with tok0 := if e.le 5 1 = 1 then ((s.seq e.seq).lastTok).getD 0 else e.le 0x80 3 })

/-! ### Capacity (R207, R225) -/

/-- Shared tail pages that a step of `n` nodes of sequence `q` would copy. -/
def State.sharedTails (s : State) (q : Nat) : List Nat :=
  let e := s.seq q
  if e.len % 256 = 0 then [] else
    (List.range (kvLayers e.kvl)).filterMap fun l =>
      match s.pageOf e l (e.len / 256) with
      | some i => if (s.page e.pool i).ref > 1 then some i else none
      | none => none

/-- Page slots of pool `h` that preparing these sequences takes: a shared tail is copied for each sharer but the last that
keeps it (R207, R208). -/
def State.poolDemand (s : State) (h : Nat) (l : List (Nat × Nat)) : Nat :=
  let mine := l.filter fun e => (s.seq e.1).pool = h
  let tails := mine.flatMap fun e => s.sharedTails e.1
  let copies := (tails.dedup.map fun i => min (tails.count i) ((s.page h i).ref - 1)).sum
  (mine.map fun e => s.pagesNeeded e.1 e.2).sum - tails.length + copies

/-- Sequences admitted and not yet prepared, with their node counts. -/
def State.unprepared (s : State) (p : Nat) : List (Nat × Nat) :=
  (s.stepsOf p).flatMap fun r => (r.recs.filter fun e => !e.prepared).map fun e => (e.seq, e.n)

/-- Records that fail the capacity checks. -/
def State.noSpace (s : State) (p : Nat) (l : List SeqRec) : List Nat :=
  let all := s.unprepared p ++ l.map fun e => (e.seq, e.n)
  badRecs l fun e => decide ((s.seq e.seq).len + e.n > (s.seq e.seq).cap)
    || decide (s.poolDemand (s.seq e.seq).pool all > (s.free (s.seq e.seq).pool).count)

/-! ### Buckets (R224) -/

/-- The lowest bucket whose bound `len` meets. -/
def State.bucketFor (s : State) (p len : Nat) : Nat :=
  let n := s.fld PRT_KV_CFG.BKT_COUNT p
  ((List.range (n - 1)).find? fun b => len ≤ s.fld PRT_KV_BKT.BOUND (p * 16 + b)).getD (n - 1)

/-- Places records in buckets of which `used` rows are taken: the buckets, the rows taken then, and the spills. -/
def State.placeRecs (s : State) (p : Nat) : List SeqRec → List Nat → Option (List Nat × List Nat × Nat)
  | [], used => some ([], used, 0)
  | r :: rs, used =>
    let b0 := s.bucketFor p ((s.seq r.seq).len + r.n)
    match (List.range' b0 (s.fld PRT_KV_CFG.BKT_COUNT p - b0)).find? fun b =>
      used.getD b 0 + r.n ≤ s.fld PRT_KV_BKT.CAP (p * 16 + b) with
    | none => none
    | some b =>
      match s.placeRecs p rs (listSet used b (used.getD b 0 + r.n)) with
      | some (bs, u, sp) => some (b :: bs, u, sp + if b = b0 then 0 else 1)
      | none => none

/-- Numbers the token rows of a step in admission-list order: by bucket, then in record order (R223, R236). -/
def numberRows (l : List SeqRec) : List SeqRec :=
  l.mapIdx fun i e =>
    let before := (l.mapIdx fun j d => (j, d)).filter fun (d : Nat × SeqRec) =>
      d.2.bucket < e.bucket || (decide (d.2.bucket = e.bucket) && decide (d.1 < i))
    { e with row0 := (before.map fun (d : Nat × SeqRec) => d.2.n).sum }

/-! ### One boundary of one partition -/

/-- What admission has done so far at this boundary. -/
structure Adm where
  s : State
  /-- Steps admitted: index, context, step. -/
  got : List (Nat × StepRec) := []
  used : List Nat := List.replicate 16 0
  /-- Contexts that admit no more at this boundary. -/
  blocked : List Nat := []
deriving DecidableEq, Repr

/-- One step is tried: it is admitted, completes refused, or waits (`true`). -/
def Adm.attempt (a : Adm) (i p k : Nat) (r : StepRec) : Bool × Adm :=
  let s := a.s
  match s.vet p (s.inst i).image.stepRows r with
  | .waits => (true, a)
  | .refused st at_ bad =>
    let s := if st = 0x08 then s.inc PRT_DS_ERR.BOUGH_REJ p else s
    (false, { a with s := s.refuseStep r ((s.recsOf r).getD []) st at_ bad })
  | .ok l =>
    match badRecs l (fun e => (s.seq e.seq).state = .frozen ∨ (s.seq e.seq).len + e.n > 4194304) with
    | b :: bs =>
      let new := ((b :: bs).filterMap fun j => l[j]?).filter fun e => (s.seq e.seq).state ≠ .frozen
      let s := s.inc PRT_KV_CNT.LIMIT_CNT p
      let s := new.foldl (fun s e =>
        ((s.modSeq e.seq fun q => { q with state := .frozen }).inc PRT_KV_XFER.FROZEN p).eventTo r.ctx 0x1 e.seq []) s
      (false, { a with s := s.refuseStep r l 0x07 b (b :: bs) })
    | [] =>
      match s.noSpace p l with
      | b :: bs => (false, { a with s := (s.inc PRT_KV_CNT.NOSPACE_CNT p).refuseStep r l 0x05 b (b :: bs) })
      | [] =>
        let mine := ((a.got.filter fun e => e.2.ctx = r.ctx).map fun e => e.2.recs.length).sum
        if mine + l.length > 65532 then (true, a)
        else
          match s.placeRecs p l a.used with
          | none =>
            if (s.placeRecs p l (List.replicate 16 0)).isSome then (true, a)
            else (false, { a with s := s.refuseStep r l 0x0B 0 [] })
          | some (bks, used, spills) =>
            let l := numberRows (l.mapIdx fun j e => s.buildMask { e with bucket := bks.getD j 0, sstatus := 0 })
            let r := { r with recs := l, admitTick := s.now, ring := k }
            let s := (s.incr PRT_KV_CNT.SPILL_CNT p spills).setSteps p (s.stepsOf p ++ [r])
            (false, { a with s := s, used := used, got := a.got ++ [(a.got.length, r)] })

/-- Replays come first, and the contexts of those that wait admit nothing else (R65, R78). -/
def Adm.replays (a : Adm) (i p k slots : Nat) : List StepRec → Adm
  | [] => a
  | r :: rs =>
    if a.got.length ≥ slots then a
    else
      let a' := { a with s := { a.s with replays := a.s.replays.set [] p rs } }
      let t := a'.attempt i p k r
      if t.1 then { a with blocked := (r :: rs).map (·.ctx) } else t.2.replays i p k slots rs

/-- The waiting steps of one context, in ring order, as far as they are admitted; what is left of them is kept. -/
def Adm.contextSteps (a : Adm) (i p k slots : Nat) : List StepRec → Adm
  | [] => a
  | r :: rs =>
    if a.got.length ≥ slots ∨ r.arrived ≥ a.s.now then a
    else
      let wait := a.s.waiting.get [] p
      let a' := { a with s := { a.s with waiting := a.s.waiting.set [] p (wait.erase r) } }
      let t := a'.attempt i p k r
      if t.1 then a else t.2.contextSteps i p k slots rs

/-- Local contexts in the rotated order of R67 at tick `t`. -/
def rotated (p t : Nat) : List Nat := (List.range 256).map fun r => p * 256 + (r + t) % 256

/-- A migration of the context is past E: no new step is admitted; from D no replay is (R398). -/
def State.migHolds (s : State) (x : Nat) : Bool := s.migs.any fun g => g.ctx = x ∧ g.e ≤ s.now ∧ !g.refused
def State.migDrained (s : State) (x : Nat) : Bool := s.migs.any fun g => g.ctx = x ∧ g.d ≤ s.now ∧ !g.refused

/-- Admission of partition `p` at this boundary. -/
def State.admitPart (s : State) (i p k : Nat) : Adm :=
  let slots := (s.inst i).image.stepSlots
  let all := s.replays.get [] p
  let kept := all.filter fun r => s.migDrained r.ctx
  let now := all.filter fun r => !s.migDrained r.ctx
  let a : Adm := { s := { s with replays := s.replays.set [] p now } }
  let a := a.replays i p k slots now
  let a := { a with s := { a.s with replays := a.s.replays.set [] p (kept ++ a.s.replays.get [] p) } }
  (rotated p s.now).foldl (fun a x =>
    if x ∈ a.blocked ∨ s.migHolds x then a
    else a.contextSteps i p k slots ((a.s.waiting.get [] p).filter fun r => r.ctx = x)) a

/-! ### Admission lists and row areas (R223, R236) -/

def admArea (k : Nat) : Nat := 0xFFFFFFE00000 + k % 2 * 0x100000
def rowArea (k : Nat) : Nat := 0xFFFFFF600000 + k % 2 * 0x400000

/-- The sequence has a page in Root. -/
def State.seqRoot (s : State) (q : Nat) : Bool :=
  let e := s.seq q
  (List.range (kvLayers e.kvl * e.nslot)).any fun i =>
    let v := s.tblGet e i
    v ≠ noPage && maskBit (s.page e.pool v).flags 2

/-- An admission entry (R223). -/
def State.admEntry (s : State) (idx : Nat) (r : StepRec) (e : SeqRec) : List Byte :=
  leBytes e.seq 4 ++ leBytes (s.seq e.seq).len 4 ++ leBytes e.n 1 ++ leBytes e.bucket 1 ++ leBytes idx 1
    ++ leBytes ((if s.seqRoot e.seq then 1 else 0) + if r.adapter then 2 else 0) 1 ++ leBytes e.row0 4

/-- A row entry (R236). -/
def rowEntry (len : Nat) (e : SeqRec) (j : Nat) : List Byte :=
  leBytes (e.token j + j * 2 ^ 24) 4 ++ leBytes (len + e.depth j + e.depth j * 2 ^ 22) 4 ++ leBytes (e.anc j) 8

/-- The admission list of a context: its header and its entries by bucket, then in order of admission. -/
def State.admList (s : State) (k : Nat) (got : List (Nat × StepRec)) : List Byte :=
  let ents := got.flatMap fun g => g.2.recs.map fun e => (g.1, g.2, e)
  let of := fun b => ents.filter fun e => e.2.2.bucket = b
  leBytes s.now 8 ++ leBytes k 4 ++ leBytes got.length 2 ++ leBytes ents.length 2
    ++ (List.range 16).flatMap (fun b => leBytes (of b).length 2) ++ List.replicate 16 0
    ++ (List.range 16).flatMap fun b => (of b).flatMap fun e => s.admEntry e.1 e.2.1 e.2.2

/-- The admission list and rows of every context of partition `p` are written. -/
def State.writeAreas (s : State) (p k : Nat) (got : List (Nat × StepRec)) : State :=
  (s.ctxList.filter fun x => x < adminCtx ∧ ctxPart x = p ∧ s.cLive x).foldl (fun s x =>
    let mine := got.filter fun g => g.2.ctx = x
    let s := s.writeOva x (admArea k) (s.admList k mine)
    mine.foldl (fun s g => g.2.recs.foldl (fun s e =>
      let len := (s.seq e.seq).len
      s.writeOva x (rowArea k + (g.1 * 4096 + e.row0) * 16) ((List.range e.n).flatMap (rowEntry len e))) s) s) s

/-! ### The boundary (R65, R66) -/

/-- Exports of the partition take the committed entries (R230). -/
def State.exportsOf (s : State) (p : Nat) : State :=
  ((s.seqs.map Prod.fst).filter fun q => seqPart q = p).foldl State.captureExports s

/-- Heartbeats leave, and one more boundary has passed since each active member's last (R415). -/
def State.heartbeats (s : State) (i : Nat) : State :=
  let me := s.memberIdx i
  let x := s.inst i
  let live := (x.others me).filter fun e => e.2.role = 0 ∧ e.1 ∉ x.retired
  (s.modInst i fun x => { x with missed := live.foldl (fun m e => m.set 0 e.1 (m.get 0 e.1 + 1)) x.missed }).tellMembers i
    (.heartbeat (BitVec.ofNat 64 x.image.trailId) (BitVec.ofNat 8 me))

/-- The boundary that opens schedule ring `k`. -/
def State.boundary (s : State) (i k : Nat) : State :=
  let parts := maskParts (s.inst i).image.groupMask
  let s := s.modInst i fun x => { x.fire evBoundary 0 k with resumed := none }
  let s := parts.foldl (fun s p => s.endRing i p k) s
  let s := s.restartThreads i
  let s := s.boundaryObjects (s.inst i).image.groupMask
  let s := parts.foldl State.exportsOf s
  let run := s.iState i = iRunning ∧ !s.fatal ∧ !s.warming
  let s := parts.foldl (fun s p =>
    let a : Adm := if run then s.admitPart i p k else { s := s }
    let s := a.s.applyCloses p
    let s := { s with lastAdmitted := s.lastAdmitted.set 0 p a.got.length }
    s.writeAreas p k a.got) s
  let s := s.setFld RSQ_TRL_RING.SCHED_RING i (k % 2 ^ 32)
  if s.iState i = iRunning then s.heartbeats i else s

/-- A schedule ring opens on a member that runs no slot: SCHED_RING follows the trail (R79). -/
def State.idleBoundary (s : State) (i : Nat) : State :=
  let x := s.inst i
  if s.trailActive i ∧ x.begun ∧ x.isBoundary s.now ∧ !(x.slipAt.any fun e => e.1 ≤ s.now) then
    (s.modInst i fun x => { x with resumed := none }).setFld RSQ_TRL_RING.SCHED_RING i (x.schedAt s.now % 2 ^ 32)
  else s

/-- An admitting boundary of instance `i`, after the slot-end checks and the global operations of its tick (R66). A
boundary at which a slip or a stop takes effect, one that opens a resumed ring, and one that has been are none. -/
def execAdmittingBoundary (i : PartId) (s : State) : Host.Outcome State Fault Refusal :=
  .next (
    if s.boundaryDue i ∧ s.turn i 3 0 then s.boundary i ((s.inst i).schedAt s.now)
    else if s.executing i then s else s.idleBoundary i)

end Sys2Proof.Machine
end

