-- ==== Sys2Proof/Machine/Cells.lean ====
section
/-! DEFINITION. Cell and window instructions (R101, R125 to R136) and the events that end a tag wait (R130). -/

namespace Sys2Proof.Machine

/-- The cell number of a format C word. -/
def cCell (w : Word) : Nat := wbits w 33 23

/-- TAKE may complete: the cell is defined, full and unclaimed (R101, R128). -/
def Cell.takable (x : Cell) : Bool := x.defined && x.full && !x.claimed
/-- PUT may complete: the cell is empty and unclaimed (R101, R128). -/
def Cell.puttable (x : Cell) : Bool := !x.full && !x.claimed

/-- The effect of a TAKE that may complete: the cell empties, s[D] is its base less CBASE (R127). -/
def State.doTake (s : State) (c t cell dst : Nat) : State :=
  let b := (s.cell c cell).base
  (s.setTag c cell false).modThr c t fun x =>
    { x.setS dst (BitVec.ofNat 64 b - BitVec.ofNat 64 x.cbase) with pc := x.pc + 1, state := .running, wait := .none }

/-- The effect of a PUT that may complete. -/
def State.doPut (s : State) (c t cell : Nat) : State :=
  (s.setTag c cell true).modThr c t fun x => { x with pc := x.pc + 1, state := .running, wait := .none }

/-- TAKE (R101, R127, R128). -/
def execTake (c : Lcid) (t : TSlot) (s : State) : Host.Outcome State Fault Refusal :=
  .next (s.issue 0x20 c t fun w s =>
    if (s.cell c (cCell w)).takable then s.doTake c t (cCell w) (wbits w 51 47)
    else s.modThr c t fun x =>
      { x with state := .blocked, wait := .take (cCell w) (wbits w 51 47), since := s.ntu.elapsed })

/-- PUT (R101, R128). -/
def execPut (c : Lcid) (t : TSlot) (s : State) : Host.Outcome State Fault Refusal :=
  .next (s.issue 0x21 c t fun w s =>
    if (s.cell c (cCell w)).puttable then s.doPut c t (cCell w)
    else s.modThr c t fun x => { x with state := .blocked, wait := .put (cCell w), since := s.ntu.elapsed })

/-- PEEK (R101): the tag alone (R128). -/
def execPeek (c : Lcid) (t : TSlot) (s : State) : Host.Outcome State Fault Refusal :=
  .next (s.issue 0x22 c t fun w s =>
    let full := (s.cell c (cCell w)).full
    s.modThr c t fun x => { x.setS (wbits w 51 47) (if full then 1 else 0) with pc := x.pc + 1 })

/-- The tag change or definition of CSET and CCLR (R101, R126): with WIN = 0b001 the cell is defined by s[A] and s[B]. -/
def State.setOrDefine (s : State) (c t : Nat) (w : Word) (full : Bool) : State :=
  let x := s.thr c t
  if wbits w 36 34 = 0 then (s.setTag c (cCell w) full).advance c t
  else
    let a := x.rs (wbits w 51 47)
    let b := x.rs (wbits w 46 42)
    if a.toNat % 64 ≠ 0 ∨ b.toNat % 64 ≠ 0 ∨ b.toNat < 1024 ∨ b.toNat > 65536 ∨ !x.inBounds a b.toNat then
      s.trap c t causeCbound a
    else
      (s.setCell c (cCell w) { s.cell c (cCell w) with base := x.cbase + a.toNat, size := b.toNat, full := full }).advance c t

/-- CSET (R101, R126). -/
def execCset (c : Lcid) (t : TSlot) (s : State) : Host.Outcome State Fault Refusal :=
  .next (s.issue 0x23 c t fun w s => s.setOrDefine c t w true)

/-- CCLR (R101, R126). -/
def execCclr (c : Lcid) (t : TSlot) (s : State) : Host.Outcome State Fault Refusal :=
  .next (s.issue 0x24 c t fun w s => s.setOrDefine c t w false)

/-- Opens or closes the window's bit of WIN_OPEN with it. -/
def State.setWin (s : State) (c n : Nat) (x : Window) : State :=
  let s := s.modCore c fun k => { k with wins := k.wins.set {} n x }
  let m := s.fld PRT_CNP_STATUS.WIN_OPEN c
  s.setFld PRT_CNP_STATUS.WIN_OPEN c (m - (if maskBit m n then 2 ^ n else 0) + (if x.opened then 2 ^ n else 0))

/-- WOPEN (R132, R136). -/
def execWopen (c : Lcid) (t : TSlot) (s : State) : Host.Outcome State Fault Refusal :=
  .next (s.issue 0x25 c t fun w s =>
    let x := s.thr c t
    let a := x.rs (wbits w 51 47)
    let b := x.rs (wbits w 46 42)
    if a.toNat % 64 ≠ 0 ∨ b.toNat % 64 ≠ 0 ∨ b.toNat = 0 ∨ !x.inBounds a b.toNat then s.trap c t causeCbound a
    else
      (s.setWin c (wbits w 36 34) { opened := true, base := x.cbase + a.toNat, bound := b.toNat,
                                    src := x.rs (wbits w 41 37),
                                    land := if cCell w = nullCell then none else some (cCell w) }).advance c t)

/-- WCLOSE (R132, R136). -/
def execWclose (c : Lcid) (t : TSlot) (s : State) : Host.Outcome State Fault Refusal :=
  .next (s.issue 0x26 c t fun w s =>
    let n := wbits w 36 34
    (s.setWin c n { (s.core c).wins.get {} n with opened := false }).advance c t)

/-- A thread blocked in TAKE or PUT completes once its cell's tag allows it (R101). -/
def execTagWaitResume (c : Lcid) (t : TSlot) (s : State) : Host.Outcome State Fault Refusal :=
  .next (
    let x := s.thr c t
    match x.state, x.wait with
    | .blocked, .take cell dst => if (s.cell c cell).takable then s.doTake c t cell dst else s
    | .blocked, .put cell => if (s.cell c cell).puttable then s.doPut c t cell else s
    | _, _ => s)

/-- CANOPY_TAG_TIMEOUT of a core's partition (R130). -/
def State.tagTimeout (s : State) (c : Nat) : Nat := s.fld PRT_CANOPY_CFG.CANOPY_TAG_TIMEOUT (partOf c)

/-- A wait that began at elapsed tick `since` has passed its limit (R130). -/
def State.starved (s : State) (c since : Nat) : Bool := s.ntu.elapsed ≥ since + s.tagTimeout c + 1

end Sys2Proof.Machine
end

