-- ==== Sys2Proof/Machine/Lattice.lean ====
section
/-! DEFINITION. The Lattice: configuration, LMAC and the reading side of LDRAIN, accumulator memory and its check code,
the tile scoreboard (06). -/

namespace Sys2Proof.Machine

/-- LCFG (R107, R146). -/
def execLcfg (c : Lcid) (t : TSlot) (s : State) : Host.Outcome State Fault Refusal :=
  .next (s.issue 0x40 c t fun w s => s.enqueue c t w)
/-- LMAC (R107, R149). -/
def execLmac (c : Lcid) (t : TSlot) (s : State) : Host.Outcome State Fault Refusal :=
  .next (s.issue 0x41 c t fun w s => s.enqueue c t w)
/-- LDRAIN (R107). -/
def execLdrain (c : Lcid) (t : TSlot) (s : State) : Host.Outcome State Fault Refusal :=
  .next (s.issue 0x42 c t fun w s => s.enqueue c t w)

/-- The Lattice queue hands on what it can. -/
def State.pumpLat (s : State) (c : Nat) : State := s.modCore c fun k => k.pump s.ntu.elapsed 8

/-- An LCFG leaving the Lattice queue writes its configuration slot (R147). -/
def execLcfgApply (c : Lcid) (s : State) : Host.Outcome State Fault Refusal :=
  .next (
    match (s.core c).lq with
    | o :: rest =>
      if o.op = 0x40 then
        (s.modCore c fun k => { k with lq := rest, lcfg := k.lcfg.set {} (wbits o.word 33 32) (lcfgOf o.word) }).pumpLat c
      else s
    | [] => s)

/-! ### Accumulator memory (R162 to R164) -/

/-- Key of a lane: accumulator byte offset ÷ 4. -/
def laneKey (tile row col : Nat) : Nat := tile * 8192 + row * 32 + col

def latEvt (c evt ofs : Nat) : Evt :=
  { cls := 2, ins := c / 8, evt := evt, loc := c + ofs % 16384 * 2 ^ 32, part := some (partOf c) }

/-- The status word of a tile. -/
def tswFld (tile : Nat) : Fld := if tile = 0 then PRT_LAT_TILE.TSW0 else PRT_LAT_TILE.TSW1
def State.tsw (s : State) (c tile : Nat) : Nat := s.fld (tswFld tile) c
def State.setTsw (s : State) (c tile v : Nat) : State := s.setFld (tswFld tile) c v

/-- Sets bit `b` of a tile's status word; says whether it was clear. -/
def State.tswSet (s : State) (c tile b : Nat) : Bool × State :=
  if maskBit (s.tsw c tile) b then (false, s) else (true, s.setTsw c tile (s.tsw c tile + 2 ^ b))

/-- Sets ACC_SAT (0), ACC_NONFIN (1): the first time since the last clear is counted and reported (R163). -/
def State.tswEvent (s : State) (c tile b : Nat) : State :=
  let (first, s) := s.tswSet c tile b
  if first then
    (s.inc (if b = 0 then PRT_LAT_CNT.SAT_CNT else PRT_LAT_CNT.NONFIN_CNT) c).raise (latEvt c 0x6 (tile * 32768))
  else s

/-- Adds replays of a (row, group) and the attempt used to a tile's status word (R163). -/
def State.tswReplays (s : State) (c tile n : Nat) : State :=
  if n = 0 then s else
    let w := s.tsw c tile
    let r := min 0xFFFFF (w / 4096 + n)
    let m := max n (w / 64 % 4)
    (s.setTsw c tile (r * 4096 + m * 64 + w % 64)).incr PRT_LAT_CNT.GROUP_REPLAYS c n

/-- One checked read of an accumulator lane: poisoned or not (R164, R420). -/
def State.accCheck (s : State) (c key : Nat) : Bool × State :=
  let (hit, s) := s.injHit (0x200 + c / 8) (key * 4) 7 false
  let m := (s.core c).accMarks.get .clean key
  let setM := fun (s : State) (m : Mark) => s.modCore c fun k => { k with accMarks := k.accMarks.set .clean key m }
  let ce := fun (s : State) (cb inj : Bool) =>
    let s := (setM s .clean).inc PRT_LAT_ECC.CE_CNT c
    let s := if cb then s.inc PRT_LAT_ECC.CB_CNT c else s
    (s.coreBucket c inj).raise { latEvt c 0x1 (key * 4) with cb := cb, inj := inj }
  let ue := fun (s : State) (inj : Bool) =>
    let s := ((setM s .poison).modCore c fun k => { k with accGold := k.accGold.erase key }).inc PRT_LAT_ECC.UE_CNT c
    let s := (s.tswSet c (key / 8192) 3).2
    (s.coreBucket c inj).raise { latEvt c 0x2 (key * 4) with inj := inj }
  match m, hit with
  | .poison, _ => (true, s)
  | .ue, _ => (true, ue s false)
  | _, some true => (true, ue s true)
  | _, some false => (false, ce s true true)
  | .ce, none => (false, ce s false false)
  | .cb, none => (false, ce s true false)
  | .clean, none => (false, s)

/-- Writes a lane: its value, its poison, what an injection in MODE 1 stores. -/
def State.accWrite (s : State) (c key : Nat) (v : BitVec 32) (bad gold : Bool) : State :=
  let (hit, s) := s.injHit (0x200 + c / 8) (key * 4) 7 true
  let m : Mark := if bad then .poison else match hit with
    | some true => .ue
    | some false => .cb
    | none => .clean
  s.modCore c fun k => { k with acc := k.acc.set 0 key v, accMarks := k.accMarks.set .clean key m
                                accGold := k.accGold.set false key (bad && gold) }

/-! ### One LMAC (R148 to R165) -/

/-- Reads of Lattice operands: the poisoned words among those given; one that is already poisoned raises no Canopy event
(R165). -/
def State.latWords (s : State) (c : Nat) : List Nat → List Nat × State
  | [] => ([], s)
  | w :: ws =>
    let (bad, s) := if s.cMark c w = .poison then (true, s) else s.checkWord c w
    let (l, s) := s.latWords c ws
    (if bad then w :: l else l, s)

/-- Some bad word overlaps [a, a + n). -/
def hitsWord (bad : List Nat) (a n : Nat) : Bool := bad.any fun w => decide (w * 8 < a + n) && decide (a < w * 8 + 8)

/-- What an LMAC computes with, read once from its configuration and its word. -/
structure LmacEnv where
  rows : Nat
  groups : Nat
  g : Nat
  cfg : LCfg
  /-- First byte of the elements, scales, codebook, activations. -/
  w0 : Nat
  s0 : Nat
  b0 : Nat
  a0 : Nat
  tile : Nat
  acc : Bool
  book : List Nat
  canopy : SMap Byte
deriving DecidableEq, Repr

/-- Bytes of a group-column and of an activation row. -/
def LmacEnv.ecol (v : LmacEnv) : Nat := runBytes v.cfg.wfmt v.g
def LmacEnv.arow (v : LmacEnv) : Nat := v.groups * v.g * elemBits v.cfg.afmt / 8

def LmacEnv.wElems (v : LmacEnv) (g col : Nat) : List FV :=
  let base := v.w0 + (g * 32 + col) * v.ecol
  (List.range v.g).map (runElem v.cfg.wfmt (fun i => getByte v.canopy (base + i)) v.book)

def LmacEnv.aElems (v : LmacEnv) (row g : Nat) : List FV :=
  let base := v.a0 + row * v.arow
  (List.range v.g).map fun k => runElem v.cfg.afmt (fun i => getByte v.canopy (base + i)) [] (g * v.g + k)

def LmacEnv.scale (v : LmacEnv) (g col : Nat) : FV :=
  let n := scaleBytes v.cfg.sfmt
  decScale v.cfg.sfmt (leNat (getBytes v.canopy (v.s0 + (g * 32 + col) * n) n))

/-- The 16-bit draw of R160. -/
def sgdDraw (seed : BitVec 64) (a c32 : BitVec 32) (lcid tile row col idx : Nat) : Nat :=
  (philox (seed.toNat % 2 ^ 32, seed.toNat / 2 ^ 32)
    (a.toNat, c32.toNat, lcid * 2 ^ 23 + tile * 2 ^ 22 + row * 2 ^ 14 + col * 2 ^ 9, idx % 2 ^ 32)).1 % 65536

/-- Running state of one lane of an LMAC: value, promotion index, attempts per group (last first), events. -/
structure LaneAcc where
  a : BitVec 32
  idx : Nat
  ns : List Nat := []
  sat : Bool := false
  nonfin : Bool := false
deriving DecidableEq, Repr

/-- The groups of one lane, in reduction order (R152 to R159). -/
def LmacEnv.lane (v : LmacEnv) (seed : BitVec 64) (lcid nmax row col : Nat) (start : LaneAcc) : LaneAcc :=
  let b : Int := elemSig v.cfg.wfmt + elemSig v.cfg.afmt
  (List.range v.groups).foldl (fun l g =>
    let o := laneGroup (v.wElems g col) (v.aElems row g) (v.scale g col) b nmax
    let sr := if v.cfg.sr then some (sgdDraw seed l.a (f32Trunc o.c.dy) lcid v.tile row col l.idx) else none
    let (a, left) := promote sr l.a o.c
    { a := a, idx := l.idx + 1, ns := o.n :: l.ns, sat := l.sat || o.sat, nonfin := l.nonfin || o.nonfin || left }) start

/-- Some of the words `bad` hold weight elements or first-level scales of a column; the codebook, for every column (R165). -/
def LmacEnv.colHit (v : LmacEnv) (bad : List Nat) (col : Nat) : Bool :=
  ((List.range v.groups).any fun g =>
    hitsWord bad (v.w0 + (g * 32 + col) * v.ecol) v.ecol
      || hitsWord bad (v.s0 + (g * 32 + col) * scaleBytes v.cfg.sfmt) (scaleBytes v.cfg.sfmt))
  || (decide (v.cfg.wfmt = 0xC) && hitsWord bad v.b0 32)

/-- Some of the words `bad` hold activations of a row (R165). -/
def LmacEnv.rowHit (v : LmacEnv) (bad : List Nat) (row : Nat) : Bool := hitsWord bad (v.a0 + row * v.arow) v.arow

/-- A lane after an LMAC: its key, its sum, poison kept from before, poison of this LMAC's operands, and whether all of it
came with data that has a golden copy. -/
structure LaneRes where
  key : Nat
  l : LaneAcc
  old : Bool
  new : Bool
  gold : Bool
deriving DecidableEq, Repr

/-- Everything an LMAC does to its lanes and status word, as if at once (R154 to R165): the lanes to write. `bad` are the
poisoned words it reads, `nog` those whose data has no golden copy. -/
def State.lmacRun (s : State) (c : Nat) (v : LmacEnv) (bad nog : List Nat) : List LaneRes × State :=
  let nmax := s.fld PRT_LAT_CFG.REPLAY_MAX (partOf c)
  let seed := (s.ctx ((s.boundCtx c).getD 0)).seed
  let cols := (List.range 32).map fun col => (col, v.colHit bad col, v.colHit nog col)
  (List.range v.rows).foldl (fun (ls, s) row =>
    let rb := v.rowHit bad row
    let rn := v.rowHit nog row
    let (out, s) := cols.foldl (fun (out, s) (col, cb, cn) =>
      let key := laneKey v.tile row col
      let (old, s) := if v.acc then s.accCheck c key else (false, s)
      let start : LaneAcc := if v.acc then { a := (s.core c).acc.get 0 key, idx := (s.core c).prom.get 0 key } else { a := 0, idx := 0 }
      let l := v.lane seed c nmax row col start
      (out ++ [(⟨key, l, old, cb || rb, !(cn || rn) && (!old || (s.core c).accGold.get false key)⟩ : LaneRes)], s)) ([], s)
    -- replays of each (row, group): the largest attempt any lane needed
    let ns := (List.range v.groups).map fun g => (out.map fun e => e.l.ns.getD g 0).foldl max 0
    let s := ns.foldl (fun s n => s.tswReplays c v.tile n) s
    (ls ++ out, s)) ([], s)

/-- An LMAC ends without effect on the tile: it faults, and the array is idle. -/
def State.failLmac (s : State) (c : Nat) (o : Op) (f : Fail) : State :=
  ((((s.abandonOp c o).engFault c o f).modCore c fun k => { k with arr := none }).pumpLat c).clearIfQuiet c

/-- What the lanes of an LMAC leave in its tile's status word and counters (R163, R165): the first event of each kind since the
last clear is reported; `word` is the first poisoned Canopy word it read. -/
def State.lmacStatus (s : State) (c tile : Nat) (sr : Bool) (word : Option Nat) (ls : List LaneRes) : State :=
  let s := if ls.any fun l => l.l.sat then s.tswEvent c tile 0 else s
  let s := if ls.any fun l => l.l.nonfin then s.tswEvent c tile 1 else s
  let s := if sr then (s.tswSet c tile 2).2 else s
  let s := s.incr PRT_LAT_ECC.UE_CNT c (ls.filter fun l => l.new && !l.old).length
  let r := if ls.any fun l => l.old || l.new then s.tswSet c tile 3 else (false, s)
  match word with
  | some w => r.2.raise { latEvt c 0x3 (tile * 32768) with value := canopyDpa c (w * 8) }
  | none => if r.1 then r.2.raise (latEvt c 0x3 (tile * 32768)) else r.2

/-- An LMAC begins on the array once its claim is granted and the tile scoreboard allows (R169); its operands are read, and
the results it will have written at its end are fixed. It reads its cell to the last byte, padding included (R148). An
activation block past CBOUND was found at issue (R109); it is found here where the configuration came from elsewhere. -/
def execLmacStart (c : Lcid) (s : State) : Host.Outcome State Fault Refusal :=
  .next (
    match (s.core c).arr with
    | none => s
    | some r =>
      let o := r.op
      let tile := wbits o.word 34 34
      let waits : Bool := match (s.core c).drn with
        | some d => decide (wbits d.op.word 34 34 = tile) && decide (d.op.id < o.id) && !d.running
        | none => false
      if r.running ∨ (o.flag ≠ none ∧ !o.started) ∨ waits then s
      else
        let cell := s.cell c (wCell o.word)
        let (base, size) := if o.started then (o.base, o.size) else (cell.base, cell.size)
        let g := gSize r.cfg.gsz
        let groups := wbits o.word 22 14 + 1
        let rows := wbits o.word 30 23 + 1
        let len := chunkLen r.cfg.wfmt r.cfg.gsz r.cfg.sfmt groups
        let e := groups * 32 * runBytes r.cfg.wfmt g
        let sc := groups * 32 * scaleBytes r.cfg.sfmt
        let abytes := lmacBytes r.cfg o.word
        if len > size then
          s.failLmac c o { cause := causeCbound, addr := BitVec.ofNat 64 (base + size) - BitVec.ofNat 64 o.cbase }
        else if o.a.toNat + abytes > o.cbound then s.failLmac c o { cause := causeCbound, addr := o.a }
        else
          let a0 := o.cbase + o.a.toNat
          let s := (s.flushRange c base size).flushRange c a0 abytes
          let (bad, s) := s.latWords c (wordsOf base size ++ wordsOf a0 abytes)
          let v : LmacEnv := {
            rows := rows, groups := groups, g := g, cfg := r.cfg, w0 := base, s0 := base + e, b0 := base + e + sc, a0 := a0
            tile := tile, acc := wbits o.word 33 33 = 1, canopy := (s.core c).canopy
            book := if r.cfg.wfmt = 0xC then (List.range 16).map fun i => leNat (getBytes (s.core c).canopy (base + e + sc + 2 * i) 2) else [] }
          let s := if v.acc then s else s.setTsw c tile 0
          let (ls, s) := s.lmacRun c v bad (bad.filter (s.noGold c))
          let s := s.lmacStatus c tile r.cfg.sr bad.head? ls
          s.modCore c fun k => { k with
            arr := some { r with op := { o with started := true, base := base, size := size }, running := true
                                 writes := ls.map fun l => (l.key, l.l.a, l.old || l.new, l.gold) }
            prom := ls.foldl (fun m l => m.set 0 l.key (l.l.idx % 2 ^ 32)) k.prom })

/-- An LMAC writes its last promotion, ending its work on the tile (R167); a TF cell empties. -/
def execLmacEnd (c : Lcid) (s : State) : Host.Outcome State Fault Refusal :=
  .next (
    match (s.core c).arr with
    | none => s
    | some r =>
      if !r.running then s
      else
        let s := r.writes.foldl (fun s w => s.accWrite c w.1 w.2.1 w.2.2.1 w.2.2.2) s
        let s := s.modCore c fun k => { k with arr := none }
        let s := match r.op.flag with
          | some tf => s.finishCell c (wCell r.op.word) tf
          | none => s
        (s.pumpLat c).clearIfQuiet c)

/-! ### The reading side of LDRAIN -/

/-- A drain ends with an engine fault; the drain unit is idle. -/
def State.failDrain (s : State) (c : Nat) (o : Op) (f : Fail) : State :=
  ((((s.abandonOp c o).engFault c o f).modCore c fun k => { k with drn := none }).pumpLat c).clearIfQuiet c

/-- Reads lanes in order: their values, or the first poisoned one. -/
def State.accReads (s : State) (c : Nat) : List Nat → (List (BitVec 32) × Option Nat) × State
  | [] => (([], none), s)
  | k :: ks =>
    let (bad, s) := s.accCheck c k
    if bad then (([], some k), s)
    else
      let r := s.accReads c ks
      (((s.core c).acc.get 0 k :: r.1.1, r.1.2), r.2)

/-- An LDRAIN reads its tile rows once its claim is granted and earlier LMACs on its tile have ended (R168, R169); a
poisoned lane traps its thread (R164). -/
def State.startDrain (s : State) (c : Nat) (refuse : State → Op → LatRun → Option Fail) : State :=
  match (s.core c).drn with
  | none => s
  | some r =>
    let o := r.op
    let tile := wbits o.word 34 34
    let waits : Bool := match (s.core c).arr with
      | some a => decide (wbits a.op.word 34 34 = tile) && decide (a.op.id < o.id)
      | none => false
    if r.running ∨ (o.flag ≠ none ∧ !o.started) ∨ waits then s
    else
      match refuse s o r with
      | some f => s.failDrain c o f
      | none =>
        let rows := wbits o.word 30 23 + 1
        let q := s.accReads c ((List.range (rows * 32)).map fun i => laneKey tile (i / 32) (i % 32))
        match q.1.2 with
        | some k =>
          (q.2.failDrain c o { cause := causePoison, addr := BitVec.ofNat 64 (k * 4), noGolden := !(q.2.core c).accGold.get false k })
        | none =>
          q.2.modCore c fun k => { k with drn := some { r with running := true, lanes := q.1.1, tsw := q.2.tsw c tile } }

end Sys2Proof.Machine
end

