-- ==== Sys2Proof/Machine/OutPath.lean ====
section
/-! DEFINITION. The out-path: its configuration slots, rescaling, statistics, output scales, quantisation, summaries and
scale trackers (R184 to R197). -/

namespace Sys2Proof.Machine

/-- OCFG (R107). -/
def execOcfg (c : Lcid) (t : TSlot) (s : State) : Host.Outcome State Fault Refusal :=
  .next (s.issue 0x60 c t fun w s => s.enqueue c t w)

/-! ### The configuration record (R185) -/

/-- A record decoded. -/
structure OCfg where
  rsc : Nat
  sh : Nat
  bias : Bool
  res : Bool
  resBf : Bool
  clip : Bool
  sum : Bool
  sumCont : Bool
  stat : Nat
  m : Nat
  cscOfs : Nat
  rscOfs : Nat
  biasOfs : Nat
  resOfs : Nat
  resPitch : Nat
  statOfs : Nat
  kappa : BitVec 32
  ofmt : Nat
  smode : Nat
  osfmt : Nat
  scWrite : Bool
  perRow : Bool
  trkEnd : Bool
  ncol : Nat
  outPitch : Nat
  scOfs : Nat
  scPitch : Nat
  fscale : BitVec 32
  trkOfs : Nat
  sumOfs : Nat
deriving DecidableEq, Repr

def OCfg.ofRec (r : Rec64) : OCfg :=
  let b := fun o => recLe r o 1
  let w := fun o => recLe r o 4
  let bit := fun o i => maskBit (b o) i
  { rsc := b 0 % 4, sh := b 1, bias := bit 2 0, res := bit 2 1, resBf := bit 2 2, clip := bit 2 3, sum := bit 2 4
    sumCont := bit 2 5, stat := b 3 % 4, m := w 4, cscOfs := w 8, rscOfs := w 0xC, biasOfs := w 0x10, resOfs := w 0x14
    resPitch := w 0x18, statOfs := w 0x1C, kappa := BitVec.ofNat 32 (w 0x20), ofmt := b 0x24 % 16, smode := b 0x25 % 4
    osfmt := b 0x25 / 4 % 4, scWrite := bit 0x25 4, perRow := bit 0x25 5, trkEnd := bit 0x25 6, ncol := b 0x26 % 32 + 1
    outPitch := w 0x28, scOfs := w 0x2C, scPitch := recLe r 0x30 2, fscale := BitVec.ofNat 32 (w 0x34), trkOfs := w 0x38
    sumOfs := w 0x3C }

/-- Bytes of a packed output row (R193). -/
def OCfg.rowBytes (o : OCfg) : Nat := runBytes o.ofmt o.ncol
/-- Bytes from one output row to the next. -/
def OCfg.pitch (o : OCfg) : Nat := if o.outPitch = 0 then o.rowBytes else o.outPitch
def OCfg.resBytes (o : OCfg) : Nat := if o.resBf then 2 else 4

/-- The record holds no reserved encoding, no non-zero reserved field or field its modes do not read, and no combination
the table marks reserved (R184, R185). -/
def ocfgOk (r : Rec64) : Bool :=
  let o := OCfg.ofRec r
  let b := fun k => recLe r k 1
  let offs := [o.cscOfs, o.rscOfs, o.biasOfs, o.resOfs, o.statOfs, o.trkOfs, o.sumOfs]
  decide (b 0 < 4) && decide (b 1 < 64) && decide (b 2 < 64) && decide (b 3 < 3) && decide (b 0x24 < 16)
    && decide (b 0x25 < 128) && decide (b 0x26 < 32) && decide (b 0x27 = 0) && decide (recLe r 0x32 2 = 0)
    && offs.all (fun x => x % 64 = 0)
    && (decide (o.rsc = 1) || (decide (o.sh = 0) && decide (o.m = 0)))
    && (decide (o.rsc ≥ 2) || decide (o.cscOfs = 0)) && (decide (o.rsc = 3) || decide (o.rscOfs = 0))
    && (o.bias || decide (o.biasOfs = 0))
    && (if o.res then decide (o.resPitch ≥ o.ncol * o.resBytes)
        else decide (o.resOfs = 0) && decide (o.resPitch = 0) && !o.resBf)
    && (decide (o.stat ≠ 0) || (decide (o.statOfs = 0) && decide (o.kappa = 0)))
    && decide (o.ofmt ≠ 0xC) && decide (o.ofmt ≠ 0xF)
    && (decide (o.smode = 1) || (!o.perRow && !o.trkEnd && decide (o.trkOfs = 0)))
    && (decide (o.smode ≠ 1) || decide (o.ofmt ∉ [0x0, 0x1, 0x2]))
    && (decide (o.smode ≠ 2) || (decide (3 ≤ o.ofmt) && decide (o.ofmt ≤ 8) && decide (o.osfmt ≤ 1)))
    && (decide (o.smode ≠ 0) || o.scWrite || decide (o.osfmt = 0))
    && (o.scWrite || (decide (o.scOfs = 0) && decide (o.scPitch = 0)))
    && (decide (o.smode = 3) || decide (o.fscale = 0))
    && (if o.sum then true else !o.sumCont && decide (o.sumOfs = 0))
    && (decide (o.outPitch = 0) || decide (o.outPitch ≥ o.rowBytes))

/-- Bytes as a record. -/
def recOf (bs : List Byte) : Rec64 := BitVec.ofNat 512 (leNat bs)

/-- SLOT_VALID of PRT_OUT_STATUS follows the slots (R198). -/
def State.setSlotValid (s : State) (c os : Nat) (ok : Bool) : State :=
  let v := s.fld PRT_OUT_STATUS.SLOT_VALID c
  s.setFld PRT_OUT_STATUS.SLOT_VALID c
    (if ok then (if maskBit v os then v else v + 2 ^ os) else (if maskBit v os then v - 2 ^ os else v))

/-- An OCFG leaving the Lattice queue reads and checks its record (R184). -/
def execOcfgApply (c : Lcid) (s : State) : Host.Outcome State Fault Refusal :=
  .next (
    match (s.core c).lq with
    | o :: rest =>
      if o.op = 0x60 then
        let s := s.modCore c fun k => { k with lq := rest }
        let q := s.portRead c portOut (o.cbase + o.a.toNat) 64
        let s := q.2.endBuf c portOut
        (match q.1.1 with
        | none => s.engFault c o { cause := causePoison, addr := BitVec.ofNat 64 (canopyDpa c (q.1.2 * 8)), noGolden := s.noGold c q.1.2 }
        | some bs =>
          let os := wbits o.word 34 32
          let r := recOf bs
          let ok := ocfgOk r
          let s := (s.modCore c fun k => { k with oslots := k.oslots.set {} os { cfgRec := r, valid := ok } }).setSlotValid c os ok
          if ok then s
          else (s.setFld PRT_OUT_STATUS.OCFG_REJ c 1).raise (latEvt c 0x9 0)).pumpLat c
      else s
    | [] => s)

/-! ### Stages 1 and 2 (R186, R187) -/

/-- The factor of mode 3: the exact product of two scales, its significand rounded half to even to 32 bits. -/
def factor32 (x : FV) : FV :=
  match x with
  | .fin n m e =>
    let sh := Nat.log2 m - 31
    if m = 0 then x else .fin n (rneDiv m (2 ^ sh)) (e + sh)
  | x => x

/-- An FP32 value of Canopy bytes. -/
def f32At (bs : List Byte) (i : Nat) : BitVec 32 := BitVec.ofNat 32 (leNat ((bs.drop (4 * i)).take 4))

/-- The vectors a drain reads before row 0. -/
structure DrainIn where
  csc : List Byte := []
  rsc : List Byte := []
  bias : List Byte := []
  /-- Residual, statistics and tracker records by row (one tracker without TRK_PER_ROW), and the summary. -/
  res : List (List Byte) := []
  stat : List (List Byte) := []
  trk : List (List Byte) := []
  sum : List Byte := []
deriving DecidableEq, Repr

/-- y of a lane after stage 2. -/
def OCfg.laneY (o : OCfg) (v : DrainIn) (row col : Nat) (a : BitVec 32) : BitVec 32 :=
  let y := match o.rsc with
    | 0 => a
    | 1 => (mulFV (f32 a) (.fin false o.m (-(o.sh : Int)))).to32
    | 2 => f32mul a (f32At v.csc col)
    | _ => (mulFV (f32 a) (factor32 (mulFV (f32 (f32At v.csc col)) (f32 (f32At v.rsc row))))).to32
  let y := if o.bias then f32add y (f32At v.bias col) else y
  if o.res then
    let r := v.res.getD row []
    f32add y (if o.resBf then BitVec.ofNat 32 (leNat ((r.drop (2 * col)).take 2) * 65536) else f32At r col)
  else y

/-! ### Stage 3: row statistics (R188) -/

/-- a ÷ n rounded once, for an unsigned number n other than 0. -/
def f32DivNat (a : BitVec 32) (n : Nat) : BitVec 32 := addFV (fun x z => if x.m = 0 then f32zero z else f32OfDiv x ⟨n, 0⟩) (f32 a) (.fin (f32 a).sign 0 0)

/-- fl of a quotient of unsigned numbers. -/
def natDiv32 (a b : Nat) : BitVec 32 := f32OfDiv ⟨a, 0⟩ ⟨b, 0⟩

structure DrainPart where
  m : BitVec 32
  z : BitVec 32
  ssq : BitVec 32
  mean : BitVec 32
  m2 : BitVec 32
deriving DecidableEq, Repr

/-- drain_part of R188 for finite values, at least one. -/
def drainPart (v : List (BitVec 32)) (kappa : BitVec 32) : DrainPart :=
  let m := match v with
    | [] => 0
    | x :: xs => xs.foldl f32max x
  let ds := v.map fun x => (f32 x).dy
  let n := v.length
  let sx := Dy.sum ds
  let sq := Dy.sum (ds.map fun x => x.mul x)
  { m := m
    z := sum32 (v.map fun x => f32 (exp2ref (f32mul kappa (f32sub x m))))
    ssq := f32OfDy sq
    mean := f32OfDiv sx ⟨n, 0⟩
    m2 := f32OfDiv (((Dy.mul ⟨n, 0⟩ sq).sub (sx.mul sx))) ⟨n, 0⟩ }

/-- The 32 bytes of a statistics record. -/
def statBytes (mx es sq mean m2 var : BitVec 32) (cnt flags : Nat) : List Byte :=
  ([mx, es, sq, mean, m2, var].flatMap fun x => leBytes x.toNat 4) ++ leBytes cnt 4 ++ leBytes flags 4

/-- The new statistics record of a row (R188): `old` its bytes, `ys` the row's y. -/
def OCfg.statRow (o : OCfg) (old : List Byte) (ys : List (BitVec 32)) : List Byte :=
  let fl := (if ys.any fun y => (f32 y).isNan then 1 else 0) + (if ys.any fun y => f32 y = .inf false then 2 else 0)
    + (if ys.any fun y => f32 y = .inf true then 4 else 0)
  let cnt := leNat ((old.drop 0x18).take 4)
  let start := o.stat = 1 ∨ cnt = 0
  let flags := if start then fl else fl ||| leNat ((old.drop 0x1C).take 4)
  let v := ys.filter fun y => (f32 y).isFin
  let nb := v.length
  if nb = 0 then old.take 0x1C ++ leBytes flags 4
  else
    let p := drainPart v o.kappa
    if start then statBytes p.m p.z p.ssq p.mean p.m2 (f32DivNat p.m2 nb) nb flags
    else
      let n := min 0xFFFFFFFF (cnt + nb)
      let mx := f32At old 0
      let es := f32At old 1
      let (mx', es') :=
        if f32gt p.m mx then (p.m, f32add (f32mul es (exp2ref (f32mul o.kappa (f32sub mx p.m)))) p.z)
        else (mx, f32add es (f32mul p.z (exp2ref (f32mul o.kappa (f32sub p.m mx)))))
      let d := f32sub p.mean (f32At old 3)
      let mean := f32add (f32At old 3) (f32mul d (natDiv32 nb n))
      let m2 := f32add (f32At old 4) (f32add p.m2 (f32mul (f32mul d d) (f32DivNat (f32OfDy ⟨cnt * nb, 0⟩) n)))
      statBytes mx' es' (f32add (f32At old 2) p.ssq) mean m2 (f32DivNat m2 n) n flags

/-! ### Stage 4: the output scale (R190) -/

/-- roundup of an FP32 value to a scale format (R190); of a NaN the result is not stated: a free value. -/
def roundupFp (osfmt : Nat) (x : BitVec 32) : BitVec 32 :=
  let dec := fun c => (decScale osfmt c).to32
  if osfmt = 3 then x
  else
    match f32 x with
    | .nan => Config.freeLane x.toNat
    | .inf n => if n then dec (if osfmt = 0 then 0 else 1) else dec (match osfmt with | 0 => 254 | 1 => 0x7E | _ => 0x7BFF)
    | .fin n m e => if n || decide (m = 0) then dec (if osfmt = 0 then 0 else 1) else dec (roundupCode osfmt ⟨m, e⟩)

/-- The code of a scale format for a value it holds exactly (R181): UE8M0 has no zero, sign or infinity, E4M3 no infinity. -/
def scaleExact (osfmt : Nat) (x : FV) : Option Nat :=
  match osfmt, x with
  | 0, .nan => some 0xFF
  | 1, .nan => some 0x7F
  | 2, .nan => some 0x7E00
  | 3, .nan => some 0x7FC00000
  | 0, .fin false m e =>
    let l := (Dy.mk m e).log2
    if m ≠ 0 ∧ ((Dy.mk m e).sub ⟨1, l⟩).m = 0 ∧ -127 ≤ l ∧ l ≤ 127 then some (l + 127).toNat else none
  | 0, _ => none
  | 1, .fin n m e =>
    let c := magCode e4m3 (m * pow2 e) (pow2 (-e))
    if c ≤ e4m3.maxCode ∧ ((e4m3.dec c).dy.sub ⟨m, e⟩).m = 0 then some (c + if n then 0x80 else 0) else none
  | 1, .inf _ => none
  | 2, .inf n => some (0x7C00 + if n then 0x8000 else 0)
  | 2, .fin n m e =>
    let c := magCode fp16 (m * pow2 e) (pow2 (-e))
    if c ≤ fp16.maxCode ∧ ((fp16.dec c).dy.sub ⟨m, e⟩).m = 0 then some (c + if n then 0x8000 else 0) else none
  | _, x => some x.to32.toNat

/-- The encoding of a scale in its format (R181, R193). Of a value that is not one of the format it is not stated: a free
value. -/
def scaleCode (osfmt : Nat) (x : BitVec 32) : Nat :=
  (scaleExact osfmt (f32 x)).getD ((Config.freeWord x.toNat).toNat % 2 ^ (8 * scaleBytes osfmt))

/-- The scale of a row: s where it is positive and finite, and the code written. -/
structure RowScale where
  s : Option Dy
  code : Nat
deriving DecidableEq, Repr

def fpScale (osfmt : Nat) (x : BitVec 32) : RowScale :=
  { s := match f32 x with
      | .fin n m e => if n || decide (m = 0) then none else some ⟨m, e⟩
      | _ => none
    code := scaleCode osfmt x }

/-- emax of R190. -/
def blockEmax (ofmt : Nat) : Int :=
  match ofmt with
  | 0x3 => 8 | 0x4 => 15 | 0x5 => 4 | 0x6 => 2 | 0x7 => 2 | _ => 0

/-- The block scale of a row (mode 2). -/
def OCfg.blockScale (o : OCfg) (ys : List (BitVec 32)) : RowScale :=
  let fins := ys.filter fun y => (f32 y).isFin
  let amax := (fins.map fun y => (f32 y).dy.abs).foldl (fun a x => if a.lt x then x else a) Dy.zero
  let bad := fins.length < ys.length
  if o.osfmt = 0 then
    let k : Int := if amax.isZero then -127 else min (max (amax.log2 - blockEmax o.ofmt) (-127)) 127
    { s := some ⟨1, if o.ofmt = 0x8 then k - 6 else k⟩, code := if bad then 0xFF else (k + 127).toNat }
  else
    let q := qMax o.ofmt
    let c := ((List.range' 1 0x7E).find? fun c => amax.le ((e4m3.dec c).dy.mul q)).getD 0x7E
    { s := some (e4m3.dec c).dy, code := if bad then 0x7F else c }

/-- The scale of a row under the mode of the record; `trk` is SCALE of its tracker. -/
def OCfg.rowScale (o : OCfg) (trk : BitVec 32) (ys : List (BitVec 32)) : RowScale :=
  match o.smode with
  | 0 => { s := some ⟨1, 0⟩, code := scaleCode o.osfmt 0x3F800000 }
  | 1 => fpScale o.osfmt trk
  | 2 => o.blockScale ys
  | _ => if (f32 o.fscale).isNan then { s := none, code := scaleCode o.osfmt o.fscale } else fpScale o.osfmt (roundupFp o.osfmt o.fscale)

/-! ### Stages 4 to 6: clipping, quantisation, error (R191, R192, R194) -/

/-- One element: its raw code, clipped, counted as non-finite, and y and the error e where it is a finite element
converted. -/
structure Elem where
  raw : Nat
  clip : Bool := false
  nonfin : Bool := false
  conv : Option (Dy × Dy) := none
deriving DecidableEq, Repr

/-- A format clips: it has no infinity, or CLIP_EN asks for it (R191). -/
def OCfg.clips (o : OCfg) : Bool :=
  o.clip || (match elemFmt o.ofmt with | some f => f.inf = none | none => true)

/-- The code of an infinity of a format that has one. -/
def infCode (code : Nat) (neg : Bool) : Nat :=
  match elemFmt code with
  | some f => (f.inf.getD 0) + (if neg then 2 ^ (f.ebits + f.fbits) else 0)
  | none => 0

def OCfg.elem (o : OCfg) (sc : Option Dy) (y : BitVec 32) : Elem :=
  match sc with
  | none => { raw := nanCode o.ofmt, nonfin := true }
  | some s =>
    match f32 y with
    | .nan => { raw := nanCode o.ofmt, nonfin := true }
    | .inf n =>
      if o.clips then { raw := (quantise o.ofmt n (qMax o.ofmt) ⟨1, 0⟩).1, clip := true }
      else { raw := infCode o.ofmt n, nonfin := true }
    | .fin n m e =>
      let v := (FV.fin n m e).dy
      let err := fun raw => v.sub ((dequant o.ofmt raw).dy.mul s)
      if o.clips && ((qMax o.ofmt).mul s).lt v.abs then
        let raw := (quantise o.ofmt n (qMax o.ofmt) ⟨1, 0⟩).1
        { raw := raw, clip := true, conv := some (v, err raw) }
      else
        let q := quantise o.ofmt n v s
        if q.2 then { raw := q.1, nonfin := true } else { raw := q.1, conv := some (v, err q.1) }

/-- The packed bytes of a row (R178, R179, R193). -/
def OCfg.packRow (o : OCfg) (es : List Elem) : List Byte :=
  if o.ofmt = 0xB then packTrits ((es.length + 4) / 5) (es.map (·.raw)) else packRun (elemBits o.ofmt) (es.map (·.raw))

/-! ### Trackers (R195, R196) -/

def trkState (t : List Byte) : Nat := leNat ((t.drop 0x18).take 1)
def trkCtlOk (t : List Byte) : Bool := leNat ((t.drop 0x18).take 4) < 0x1000 ∧ trkState t ≤ 1

/-- Replaces bytes of a record. -/
def putBytes (t : List Byte) (ofs : Nat) (v : List Byte) : List Byte := t.take ofs ++ v ++ t.drop (ofs + v.length)
def put32 (t : List Byte) (ofs v : Nat) : List Byte := putBytes t ofs (leBytes v 4)

/-- First use of a tracker (R195). -/
def OCfg.trkInit (o : OCfg) (t : List Byte) : List Byte :=
  if trkState t ≠ 0 then t
  else
    let t := put32 (put32 t 0 (roundupFp o.osfmt (f32At t 1)).toNat) 0x1C 0
    putBytes (putBytes t 0x20 (List.replicate 20 0)) 0x18 [1]

/-- Adds what a drain observed of its rows (R195, step 4). -/
def trkAdd (t : List Byte) (ys : List (BitVec 32)) (es : List Elem) : List Byte :=
  let fins := ys.filter fun y => (f32 y).isFin
  let amax := (fins.map fun y => y &&& 0x7FFFFFFF).foldl f32max (f32At t 8)
  let n := min 0xFFFFFFFF (leNat ((t.drop 0x24).take 4) + fins.length)
  let cl := min 0xFFFFFFFF (leNat ((t.drop 0x28).take 4) + (es.filter (·.clip)).length)
  let se := f32OfDy (Dy.sum (es.filterMap fun e => e.conv.map fun p => p.2.mul p.2))
  let ss := f32OfDy (Dy.sum (fins.map fun y => (f32 y).dy.mul (f32 y).dy))
  putBytes t 0x20 (leBytes amax.toNat 4 ++ leBytes n 4 ++ leBytes cl 4 ++ leBytes (f32add (f32At t 0xB) se).toNat 4
    ++ leBytes (f32add (f32At t 0xC) ss).toNat 4)

/-- fl(a ÷ q) for a positive exact q. -/
def f32DivDy (a : BitVec 32) (q : Dy) : BitVec 32 :=
  match f32 a with
  | .fin n m e => if m = 0 then f32zero n else f32OfDiv (FV.fin n m e).dy q
  | x => x.to32

/-- The update of a tracker at a TRK_END drain (R196). -/
def OCfg.trkUpdate (o : OCfg) (t : List Byte) : List Byte :=
  let nacc := leNat ((t.drop 0x24).take 4)
  let clip := if nacc > 0 then natDiv32 (leNat ((t.drop 0x28).take 4)) nacc else 0
  let rmse := if f32gt (f32At t 0xC) 0 then f32div (f32At t 0xB) (f32At t 0xC) else 0
  let upd := leNat ((t.drop 0x1C).take 4)
  let beta := leNat ((t.drop 0x19).take 1) % 16
  let est := if upd = 0 then f32At t 8
    else f32add (f32At t 2) (mulFV (f32 (f32sub (f32At t 8) (f32At t 2))) (.fin false 1 (-(beta : Int)))).to32
  let target := f32DivDy (f32mul est (f32At t 3)) (qMax o.ofmt)
  let scale := f32At t 0
  let nxt := if f32gt clip (f32At t 4) then f32max target (f32mul scale 0x40000000)
    else if f32gt rmse (f32At t 5) && f32gt scale target then target
    else scale
  let nxt := if f32gt nxt 0 && (f32 nxt).isFin then nxt else scale
  let t := put32 (put32 t 0 (roundupFp o.osfmt nxt).toNat) 8 est.toNat
  let t := putBytes t 0x34 (leBytes clip.toNat 4 ++ leBytes rmse.toNat 4)
  put32 (putBytes t 0x20 (List.replicate 20 0)) 0x1C (min 0xFFFFFFFF (upd + 1))

/-! ### One drain -/

/-- The byte ranges of a drain, from local offset 0 of its thread: outputs and scales, records and vectors, residuals
(R185). `a` is s[A], `rows` the number of rows. -/
def OCfg.outRanges (o : OCfg) (a rows : Nat) : List (Nat × Nat) :=
  (List.range rows).flatMap fun r =>
    (a + r * o.pitch, o.rowBytes) :: (if o.scWrite then [(a + o.scOfs + r * o.scPitch, scaleBytes o.osfmt)] else [])
def OCfg.recRanges (o : OCfg) (rows : Nat) : List (Nat × Nat) :=
  (if o.rsc ≥ 2 then [(o.cscOfs, 128)] else []) ++ (if o.rsc = 3 then [(o.rscOfs, 4 * rows)] else [])
    ++ (if o.bias then [(o.biasOfs, 128)] else []) ++ (if o.stat ≠ 0 then [(o.statOfs, 32 * rows)] else [])
    ++ (if o.sum then [(o.sumOfs, 32)] else [])
    ++ (if o.smode = 1 then [(o.trkOfs, if o.perRow then 64 * rows else 64)] else [])
def OCfg.resRanges (o : OCfg) (rows : Nat) : List (Nat × Nat) :=
  if o.res then (List.range rows).map fun r => (o.resOfs + r * o.resPitch, o.ncol * o.resBytes) else []

def trackMeets (x y : Nat × Nat) : Bool := x.1 < y.1 + y.2 ∧ y.1 < x.1 + x.2

/-- A drain is refused (R185, R195). -/
def drainRefuse (s : State) (c : Nat) (op : Op) (r : LatRun) : Option Fail :=
  if !r.cfgValid then none
  else
    let o := OCfg.ofRec r.cfgRec
    let rows := wbits op.word 30 23 + 1
    let a := op.a.toNat
    let outs := o.outRanges a rows
    let recs := o.recRanges rows
    let f : Fail := { cause := causeCbound, addr := op.a }
    match (outs ++ recs ++ o.resRanges rows).find? fun x => x.1 + x.2 > op.cbound with
    | some x => some { f with addr := BitVec.ofNat 64 x.1 }
    | none =>
      if a % 64 ≠ 0 ∨ outs.any (fun x => recs.any (trackMeets x)) then some f
      else if o.smode = 1 ∧ (List.range (if o.perRow then rows else 1)).any fun i =>
          !trkCtlOk (s.cBytes c (op.cbase + o.trkOfs + 64 * i) 64) then some { f with addr := BitVec.ofNat 64 o.trkOfs }
      else none

/-- Checked reads of byte ranges, in order: the bytes of each, or the first poisoned word. -/
def State.cReads (s : State) (c : Nat) : List (Nat × Nat) → (List (List Byte) × Option Nat) × State
  | [] => (([], none), s)
  | x :: xs =>
    let q := s.portRead c portOut x.1 x.2
    match q.1.1 with
    | none => (([], some q.1.2), q.2)
    | some bs =>
      let r := q.2.cReads c xs
      ((bs :: r.1.1, r.1.2), r.2)

/-- What a drain writes and counts: rows and scales first, then statistics, the summary and trackers (R186 to R196). -/
def OCfg.run (o : OCfg) (v : DrainIn) (base a rows tsw : Nat) (lanes : List (BitVec 32)) (r : LatRun) : LatRun :=
  let ys := (List.range rows).map fun i => (List.range o.ncol).map fun k => o.laneY v i k (lanes.getD (i * 32 + k) 0)
  let trk0 := v.trk.map o.trkInit
  let tix := fun i => if o.perRow then i else 0
  let rs := (List.range rows).map fun i =>
    let y := ys.getD i []
    let sc := o.rowScale (f32At (trk0.getD (tix i) []) 0) y
    (y, sc, y.map (o.elem sc.s))
  let outs := (rs.mapIdx fun i x => (i, x)).flatMap fun (i, _, sc, es) =>
    (base + a + i * o.pitch, o.packRow es)
      :: (if o.scWrite then [(base + a + o.scOfs + i * o.scPitch, leBytes sc.code (scaleBytes o.osfmt))] else [])
  let stats := if o.stat = 0 then [] else
    (List.range rows).map fun i => (base + o.statOfs + 32 * i, o.statRow (v.stat.getD i []) (ys.getD i []))
  let es := rs.flatMap fun x => x.2.2
  let conv := es.filterMap (·.conv)
  let clips := (es.filter (·.clip)).length
  let nonfins := (es.filter (·.nonfin)).length
  let cont := o.sumCont
  let old := fun k => if cont then leNat ((v.sum.drop (4 * k)).take 4) else 0
  let n := min 0xFFFFFFFF (old 1 + conv.length)
  let fadd := fun k x => if cont then f32add (f32At v.sum k) x else x
  let se1 := f32OfDy (Dy.sum (conv.map fun p => p.2.mul p.2))
  let sum := if !o.sum then [] else
    [(base + o.sumOfs,
      leBytes (old 0 ||| tsw % 256) 4 ++ leBytes n 4 ++ leBytes (min 0xFFFFFFFF (old 2 + clips)) 4
        ++ leBytes (min 0xFFFFFFFF (old 3 + nonfins)) 4 ++ leBytes (fadd 4 se1).toNat 4
        ++ leBytes (fadd 5 (if conv = [] then 0 else f32DivNat se1 conv.length)).toNat 4
        ++ leBytes (fadd 6 (f32OfDy (Dy.sum (conv.map fun p => p.1.mul p.1)))).toNat 4
        ++ leBytes (min 0xFFFFFFFF (old 7 + tsw / 4096)) 4)]
  let trk1 := trk0.mapIdx fun i t =>
    let mine := (rs.mapIdx fun j x => (j, x)).filter fun x => tix x.1 = i
    let t := trkAdd t (mine.flatMap fun x => x.2.1) (mine.flatMap fun x => x.2.2.2)
    if o.trkEnd then o.trkUpdate t else t
  { r with outs := outs ++ stats ++ sum ++ trk1.mapIdx (fun i t => (base + o.trkOfs + 64 * i, t))
           clips := clips, nonfins := nonfins, upds := if o.trkEnd then trk0.length else 0
           inits := (v.trk.filter fun t => trkState t = 0).length }

/-- An LDRAIN begins (R169): its tile rows are read, with the records and vectors of its out-path slot (R185 to R197). A
drain on an invalid slot reads its rows and writes nothing (R184). -/
def execLdrainStart (c : Lcid) (s : State) : Host.Outcome State Fault Refusal :=
  .next (
    match (s.core c).drn with
    | none => s
    | some r0 =>
      let s := if r0.running then s else (List.range 3).foldl (fun s q => s.flushBuf c q) s
      let s := s.startDrain c fun s op r => drainRefuse s c op r
      match (s.core c).drn with
      | none => s
      | some r =>
        if r0.running ∨ !r.running ∨ r.op.id ≠ r0.op.id ∨ !r.cfgValid then s
        else
          let o := OCfg.ofRec r.cfgRec
          let op := r.op
          let rows := wbits op.word 30 23 + 1
          let b := op.cbase
          let nt := if o.smode = 1 then (if o.perRow then rows else 1) else 0
          let q := s.cReads c (
            [(b + o.cscOfs, if o.rsc ≥ 2 then 128 else 0), (b + o.rscOfs, if o.rsc = 3 then 4 * rows else 0),
             (b + o.biasOfs, if o.bias then 128 else 0), (b + o.sumOfs, if o.sum && o.sumCont then 32 else 0)]
              ++ (o.resRanges rows).map (fun x => (b + x.1, x.2))
              ++ (if o.stat = 0 then [] else (List.range rows).map fun i => (b + o.statOfs + 32 * i, 32))
              ++ (List.range nt).map (fun i => (b + o.trkOfs + 64 * i, 64)))
          match q.1.2 with
          | some w => (q.2.endBuf c portOut).failDrain c op { cause := causePoison, addr := BitVec.ofNat 64 (canopyDpa c (w * 8)), noGolden := q.2.noGold c w }
          | none =>
            let l := q.1.1
            let nr := if o.res then rows else 0
            let ns := if o.stat = 0 then 0 else rows
            let v : DrainIn := { csc := l.getD 0 [], rsc := l.getD 1 [], bias := l.getD 2 [], sum := l.getD 3 []
                                 res := (l.drop 4).take nr, stat := (l.drop (4 + nr)).take ns, trk := l.drop (4 + nr + ns) }
            q.2.modCore c fun k => { k with drn := some (o.run v b op.a.toNat rows r.tsw r.lanes r) })

/-- A drain's writes are performed and its cell filled (R197); its counts enter PRT_OUT_CNT and PRT_OUT_TRK. On an invalid
slot the steps of the current slot are contained (R184). -/
def execLdrainEnd (c : Lcid) (s : State) : Host.Outcome State Fault Refusal :=
  .next (
    match (s.core c).drn with
    | none => s
    | some r =>
      if !r.running then s
      else
        let s := if r.cfgValid then
            let s := r.outs.foldl (fun s w => s.portWrite c portOut w.1 w.2) s
            let s := (s.incr PRT_OUT_CNT.CLIP_TOTAL c r.clips).incr PRT_OUT_CNT.NONFIN_TOTAL c r.nonfins
            (s.incr PRT_OUT_TRK.TRK_UPDATES c r.upds).incr PRT_OUT_TRK.TRK_INITS c r.inits
          else (s.inc PRT_OUT_STATUS.INVALID_DRAINS c).containSteps (s.coreInst c) (some ((s.curSlot c r.op.t).getD 0)) false
        let s := s.endBuf c portOut
        let s := s.modCore c fun k => { k with drn := none }
        let s := match r.op.flag with
          | some tf => s.finishCell c (wCell r.op.word) tf
          | none => s
        (s.pumpLat c).clearIfQuiet c)

end Sys2Proof.Machine
end

