-- ==== Sys2Proof/Machine/NetTime.lean ====
section
/-! DEFINITION. Network time (02): the counter, its steps, the discipline states and time-error estimates, PTP, PPS and
Zapiex time, and the writes of NTU_LEAD and NTU_GUARD. -/

namespace Sys2Proof.Machine

def State.modNtu (s : State) (f : Ntu → Ntu) : State := { s with ntu := f s.ntu }

/-- Ticks in a second (R29). -/
def secTicks : Nat := 1000000

/-- The current tick begins: where NSEC becomes 0, PPS_OUT rises, and REF_OUT with it (R40). -/
def State.tickBegins (s : State) : State :=
  if s.now % secTicks ≠ 0 then s
  else
    let s := if s.fld NTU_CTL.PPS_OUT_EN 0 = 1 then s.send (.ppsOut s.now) else s
    if s.fld NTU_CTL.REF_OUT_EN 0 = 1 then s.send (.refOut s.now) else s

/-- One tick passes (R29, R30). -/
def State.tickPass (s : State) : State :=
  (s.modNtu fun n => { n with tick := n.tick + 1, ns := 0, elapsed := n.elapsed + 1 }).tickBegins

/-- An instant within the current tick at which something is observed, no earlier than the last: how far the tick has run
is not part of a command, so it is a free value. -/
def State.instant (s : State) : State :=
  let (k, s) := s.draw
  s.modNtu fun n => { n with ns := n.ns + Config.freeChoice k % (1000 - n.ns) }
/-- Both estimates saturate here (R42). -/
def teMax : Nat := 0xFFFFFFFF

/-- Discipline states (R41). -/
def dUnlocked : Nat := 0
def dFreq : Nat := 1
def dLocked : Nat := 2
def dHoldover : Nat := 3

def State.dState (s : State) : Nat := s.fld NTU_STATUS.STATE 0
def State.tsrc (s : State) : Nat := s.fld NTU_CTL.TSRC 0
/-- A leader and a follower in the sense of R42. -/
def State.timeLeader (s : State) : Bool := s.fld NTU_CTL.TIME_LEADER 0 = 1 ∧ s.tsrc < 8
def State.timeFollower (s : State) : Bool := s.tsrc ≥ 8

/-- Sets a bit of NTU_EVT and reports it from the time-class source (R54). -/
def State.ntuEvt (s : State) (f : Fld) : State :=
  let s := s.setFld f 0 1
  s.raise { cls := 0xA, ins := 0, evt := 0x7, value := (s.reg .NTU_EVT 0).toNat }

/-- r and q of R43 in ps/s and ps/s². -/
def State.growth (s : State) : Nat × Nat :=
  let int := s.fld NTU_STATUS.FSRC_ACTIVE 0 = 0
  let lin := s.fld NTU_SERVO.HO_LIN 0
  (if lin ≠ 0 then lin else if int then 10000 else 100, if int then 5 else 0)

/-- An estimate after `t` seconds of holdover from `e0` (R43), rounded up. -/
def State.grown (s : State) (e0 t : Nat) : Nat :=
  let g := s.growth
  if e0 ≥ teMax then teMax else min teMax (e0 + (g.1 * t + g.2 * t * t + 999) / 1000)

/-- The least integer whose square is at least `n`. -/
def ceilSqrt (n : Nat) : Nat := if Nat.sqrt n ^ 2 = n then Nat.sqrt n else Nat.sqrt n + 1

/-- |mean| plus twice the standard deviation of offsets in quarters of a nanosecond, in ns rounded up (R42). -/
def offsetSpread (offs : List Int) : Nat :=
  let n := offs.length
  let m := offs.sum
  let q := (offs.map fun x => x * x).sum
  if n = 0 then 0 else (m.natAbs + ceilSqrt (4 * (n * q - m * m).toNat) + 4 * n - 1) / (4 * n)

/-- TE_EST and TE_PEER as R42 and R43 give them now. -/
def State.estimates (s : State) : Nat × Nat :=
  let none_ := !s.timeLeader && !s.timeFollower
  let t := (s.ntu.elapsed - s.ntu.hoStart) / secTicks
  match s.dState with
  | 2 =>
    if s.timeFollower then (min teMax (s.ntu.srcTe + 10), min teMax (10 * (s.ntu.hop + 1)))
    else (min teMax (s.fld NTU_GUARD.UPSTREAM_BUDGET 0 + offsetSpread s.ntu.offs), if none_ then teMax else 0)
  | 3 => (s.grown s.ntu.e0Est t, if s.timeLeader then 0 else if none_ then teMax else s.grown s.ntu.e0Peer t)
  | _ => (teMax, teMax)

/-- The instances whose trail runs, has members on other devices and needs the time bit of a scope (R44); a reserve member,
which runs no part of the trail, does not stop it. -/
def State.timeTrails (s : State) (scope : Nat) : List Nat :=
  (List.range 16).filter fun i => (s.inst i).image.scope = scope ∧ s.roleOf i ≠ 2
    ∧ (s.iState i = iRunning ∨ s.iState i = iStopping ∨ s.iState i = iStandby)

/-- The time bit that R44 names for a scope is 1; a trail of one device ignores both. -/
def State.timeOk (s : State) (scope : Nat) : Bool :=
  if scope = 0 then true else if scope = 1 then s.fld NTU_STATUS.BOARD_OK 0 = 1 else s.fld NTU_STATUS.SPAN_OK 0 = 1

/-- SPAN_OK and BOARD_OK follow the estimates; a bit that falls stops the trails that need it (R44). -/
def State.guards (s : State) : State :=
  let live := s.dState = dLocked ∨ s.dState = dHoldover
  let b0 := s.fld NTU_STATUS.BOARD_OK 0
  let p0 := s.fld NTU_STATUS.SPAN_OK 0
  let b1 := if live ∧ s.fld NTU_TE.TE_PEER 0 ≤ s.fld NTU_GUARD.BOARD_GUARD 0 then 1 else 0
  let p1 := if live ∧ s.fld NTU_TE.TE_EST 0 ≤ s.fld NTU_GUARD.SPAN_GUARD 0 then 1 else 0
  let s := (s.setFld NTU_STATUS.BOARD_OK 0 b1).setFld NTU_STATUS.SPAN_OK 0 p1
  if b1 < b0 ∨ p1 < p0 then
    let s := s.ntuEvt NTU_EVT.GUARD_LOST
    let s := s.eventAll 0x7 (s.reg .NTU_EVT 0).toNat []
    let s := if b1 < b0 then (s.timeTrails 1).foldl (fun s i => s.announceStop i 2) s else s
    if p1 < p0 then (s.timeTrails 2).foldl (fun s i => s.announceStop i 2) s else s
  else s

/-- Updates both estimates and the two bits. -/
def State.teRefresh (s : State) : State :=
  let e := s.estimates
  ((s.setFld NTU_TE.TE_EST 0 e.1).setFld NTU_TE.TE_PEER 0 e.2).guards

/-- Holdover growth starts from the present estimates (R43). -/
def State.restartGrowth (s : State) : State :=
  s.modNtu fun n => { n with e0Est := s.fld NTU_TE.TE_EST 0, e0Peer := s.fld NTU_TE.TE_PEER 0, hoStart := n.elapsed }

/-- Enters a discipline state (R41). -/
def State.setDState (s : State) (d : Nat) : State :=
  if s.dState = d then s else
    let s := if d = dHoldover then s.restartGrowth else s
    let s := s.setFld NTU_STATUS.STATE 0 d
    let s := s.modNtu fun n => { n with good := if d = dLocked then n.good else 0, offs := if d ≤ dFreq then [] else n.offs }
    let s := if d = dLocked then s.ntuEvt NTU_EVT.LOCK_GAINED
      else if d = dHoldover then s.ntuEvt NTU_EVT.LOCK_LOST else s
    s.teRefresh

/-- LOCKED ends in HOLDOVER (R41). -/
def State.loseLock (s : State) : State := if s.dState = dLocked then s.setDState dHoldover else s

/-- A trail of SCOPE 0x1 or 0x2 is ARMED, RUNNING, STOPPING or STANDBY (R32). -/
def State.stepBlocked (s : State) : Bool :=
  (List.range 16).any fun i => (s.inst i).image.scope ≠ 0 ∧ s.trailActive i

/-- A valid measurement of an offset, counter less source, in quarters of a nanosecond (R31, R32, R41, R42). -/
def State.measure (s : State) (off : Int) : State :=
  if s.dState = dUnlocked then s else
    let first := !s.ntu.acquired
    let need : Bool := first || decide (off.natAbs > 4 * s.fld NTU_SERVO.STEP_THRESH 0)
    let s := s.modNtu fun n => { n with
      offs := (off :: n.offs).take 16
      good := if off.natAbs ≤ 400 then min 16 (n.good + 1) else 0
      acquired := true
      stepWant := if need then some off else none
      stepFirst := first || (n.stepFirst && n.stepWant.isSome && need)
      lastMeas := n.elapsed }
    let s := s.setFld NTU_STATUS.STEP_PENDING 0 (if need ∧ !first ∧ s.stepBlocked then 1 else 0)
    if s.dState ≠ dLocked ∧ s.ntu.good ≥ 16 then s.setDState dLocked else s

/-! ### The step of the counter (R32, R33) -/

/-- A tick number moved by Δ. -/
def shiftTick (d : Int) (t : Nat) : Nat := (t + d).toNat

/-- The tick numbers a trail instance holds move by Δ (R33). -/
def Inst.moved (x : Inst) (d : Int) : Inst :=
  { x with origin := shiftTick d x.origin
           startAt := shiftTick d x.startAt
           stopAt := x.stopAt.map fun e => (shiftTick d e.1, e.2)
           slipAt := x.slipAt.map fun e => (shiftTick d e.1, e.2)
           lastSlip := shiftTick d x.lastSlip
           takeoverAt := x.takeoverAt.map fun e => (shiftTick d e.1, e.2) }

/-- The ticks the dispatcher holds for a step move by Δ (R33): its arrival, admission and commit. -/
def StepRec.moved (r : StepRec) (d : Int) : StepRec :=
  { r with arrived := shiftTick d r.arrived, admitTick := shiftTick d r.admitTick, commitTick := shiftTick d r.commitTick }

/-- The ticks at which the doorbells of what a context's ring still holds arrived move by Δ. -/
def Ctx.moved (c : Ctx) (d : Int) : Ctx :=
  { c with tails := c.tails.map fun (e : Nat × Nat) => (e.1, shiftTick d e.2)
           started := c.started.map fun q => { q with arrived := shiftTick d q.arrived }
           deferred := c.deferred.map fun (e : Desc × Bool) => ({ e.1 with arrived := shiftTick d e.1.arrived }, e.2) }

/-- Every tick number the device's schedule holds moves by Δ (R33). A migration is no operation of SCOPE 0x0. -/
def State.moveTicks (s : State) (d : Int) : State :=
  let held := fun (m : SMap (List StepRec)) => m.map fun (e : Nat × List StepRec) => (e.1, e.2.map (·.moved d))
  let s := { s with insts := s.insts.map fun (e : Nat × Inst) => (e.1, e.2.moved d)
                    steps := held s.steps, replays := held s.replays, waiting := held s.waiting
                    ctxs := s.ctxs.map fun (e : Nat × Ctx) => (e.1, e.2.moved d)
                    snaps := s.snaps.map fun (e : Nat × List Snap) =>
                      (e.1, if (s.inst e.1).image.scope = 0 then e.2.map fun g => { g with e := shiftTick d g.e } else e.2) }
  (List.range 16).foldl (fun s i =>
    if s.iState i ∈ [iArmed, iRunning, iStopping, iStopped] then
      s.setReg .RSQ_TRL_TICKS i (BitVec.ofNat 64 (shiftTick d (s.reg .RSQ_TRL_TICKS i).toNat)) else s) s

/-- Δ: the counter, `off` quarters of a nanosecond ahead of its source at the start of a tick, is set to the start of the
tick the source has reached (R32). -/
def stepDelta (off : Int) : Int := (-off).fdiv 4000

/-- The Trunk service windows and Root read windows in progress end (R33). -/
def State.endWindows (s : State) : State :=
  (List.range 16).foldl (fun s t => (s.modStack t fun k => { k with shut := true }).modTower t fun x => { x with shut := true }) s

/-- The step is applied at the start of a tick (R32, R33). -/
def execNtuStep (s : State) : Host.Outcome State Fault Refusal :=
  .next (
    match s.ntu.stepWant with
    | none => s
    | some off =>
      if s.stepBlocked ∧ !s.ntu.stepFirst then s
      else
        let d := stepDelta off
        let s := (s.moveTicks d).endWindows
        let s := s.modNtu fun n => { n with tick := shiftTick d n.tick, ns := 0, stepWant := none, stepFirst := false }
        (((s.setFld NTU_STATUS.STEP_PENDING 0 0).setReg .NTU_STEP_DELTA 0 (BitVec.ofInt 64 d)).ntuEvt NTU_EVT.STEPPED).tickBegins)

/-! ### Frequency references (R34, R41, R43) -/

/-- The NTU changes the reference in use; holdover growth restarts (R43). -/
def State.setFsrc (s : State) (f : Nat) : State :=
  if s.fld NTU_STATUS.FSRC_ACTIVE 0 = f then s else
    let s := if s.dState = dHoldover then s.teRefresh.restartGrowth else s
    s.setFld NTU_STATUS.FSRC_ACTIVE 0 f

/-- Uses the selected reference if it is present and in range, else the internal oscillator (R34). -/
def State.chooseFsrc (s : State) : State :=
  let sel := s.fld NTU_CTL.FSRC 0
  if sel = 0 then s.setFsrc 0
  else if s.fld NTU_STATUS.REF_PRESENT 0 = 1 then s.setFsrc sel
  else (s.setFsrc 0).ntuEvt NTU_EVT.REF_LOST

/-- The selected reference is known to be present, or absent (R34). -/
def State.setRef (s : State) (present : Bool) : State :=
  (s.modNtu fun n => { n with refs := listSet n.refs (s.fld NTU_CTL.FSRC 0 - 1) (some present) }).setFld NTU_STATUS.REF_PRESENT 0
    (if present then 1 else 0)

/-- Another reference is selected (R34): whether it is present is what was last seen of it; where nothing was seen, a free
value. -/
def State.selectRef (s : State) : State :=
  let sel := s.fld NTU_CTL.FSRC 0
  let s :=
    if sel = 0 then s.setFld NTU_STATUS.REF_PRESENT 0 0
    else
      match s.ntu.refs.getD (sel - 1) none with
      | some b => s.setRef b
      | none =>
        let (k, s) := s.draw
        s.setRef (decide (Config.freeChoice k % 2 = 1))
  if s.ntu.pllLocked then s.chooseFsrc else s

/-- The PLL locks to the reference in use (R41); with TSRC = 0x0 the NTU stays UNLOCKED. -/
def execPllLock (s : State) : Host.Outcome State Fault Refusal :=
  .next (
    let s := (s.modNtu fun n => { n with pllLocked := true }).chooseFsrc
    if s.dState = dUnlocked ∧ s.tsrc ≠ 0 then s.setDState dFreq else s)

/-- The selected reference goes absent or out of range (R34). -/
def execRefLost (s : State) : Host.Outcome State Fault Refusal :=
  .next (if s.fld NTU_CTL.FSRC 0 = 0 then s else (s.setRef false).chooseFsrc)

/-- The selected reference has been present and in range for 1 s (R34). -/
def execRefReturn (s : State) : Host.Outcome State Fault Refusal :=
  .next (
    if s.fld NTU_CTL.FSRC 0 = 0 then s
    else
      let s := s.setRef true
      if s.ntu.pllLocked then s.chooseFsrc else s)

/-! ### PPS (R37) -/

/-- A rising edge of PPS_IN, `frac` ns into the current tick, marks NSEC = 0 of second NTU_TOD_SET.SEC. -/
def execPpsInEdge (frac : Fin 1000) (s : State) : Host.Outcome State Fault Refusal :=
  .next (
    let s := (s.setFld NTU_STATUS.PPS_PRESENT 0 1).modNtu fun n => { n with lastPps := n.elapsed }
    if s.tsrc ≠ 4 then s
    else
      let sec := s.fld NTU_TOD_SET.SEC 0
      let off : Int := 4 * ((s.now * 1000 + frac : Nat) - (sec * 1000000000 : Nat) : Int)
      (s.measure off).setFld NTU_TOD_SET.SEC 0 (sec + 1))

/-- 1.5 s pass without an edge. -/
def execPpsMissing (s : State) : Host.Outcome State Fault Refusal :=
  .next (
    if s.ntu.elapsed < s.ntu.lastPps + 1500000 then s
    else
      let s := s.setFld NTU_STATUS.PPS_PRESENT 0 0
      if s.tsrc = 4 then (s.ntuEvt NTU_EVT.PPS_MISSING).loseLock else s)

/-- 3 s pass without a valid measurement (R41). -/
def execNoValidMeasurement (s : State) : Host.Outcome State Fault Refusal :=
  .next (if s.ntu.elapsed < s.ntu.lastMeas + 3 * secTicks then s else s.loseLock)

/-! ### PTP (R35, R36) -/

/-- The port with the better master: the lower rank, port 0 among equals (R36). -/
def bestPort (ranks : List (Option Nat)) : Option Nat :=
  match ranks.getD 0 none, ranks.getD 1 none with
  | none, none => none
  | some _, none => some 0
  | none, some _ => some 1
  | some a, some b => if b < a then some 1 else some 0

/-- PTP_MASTER_SEEN and, with TSRC = 0x3, the port in use follow the masters the ports offer (R36). -/
def State.chooseMaster (s : State) : State :=
  let best := bestPort s.ntu.ranks
  let s := s.setFld NTU_STATUS.PTP_MASTER_SEEN 0 (if best = none then 0 else 1)
  match best with
  | none => s
  | some p =>
    let old := s.fld NTU_STATUS.TSRC_ACTIVE 0
    if s.tsrc ≠ 3 ∨ old = p + 1 then s
    else
      let s := s.setFld NTU_STATUS.TSRC_ACTIVE 0 (p + 1)
      if old = 0 then s else s.ntuEvt NTU_EVT.SRC_SWITCH

/-- A PTP message is one of the configured domain, carried as the profile has it: over layer 2 for G.8275.1, else over
TRANSPORT (R35). -/
def State.ptpMine (s : State) (h : PtpHdr) : Bool :=
  decide (h.domain.toNat = s.fld NTU_PTP_CFG.DOMAIN 0)
    && decide (h.transport.toNat = if s.fld NTU_PTP_CFG.PROFILE 0 = 1 then 0 else s.fld NTU_PTP_CFG.TRANSPORT 0)

/-- An Announce message (R36). -/
def execPtpAnnounce (port : Fin 2) (h : PtpHdr) (rank : Nat) (s : State) : Host.Outcome State Fault Refusal :=
  .next (
    if !s.ptpMine h then s
    else (s.modNtu fun n => { n with ranks := listSet n.ranks port (some rank), lastAnn := listSet n.lastAnn port n.elapsed }).chooseMaster)

/-- 3 s pass without an Announce on a port: its master is dropped (R36). -/
def execAnnounceTimeout (port : Fin 2) (s : State) : Host.Outcome State Fault Refusal :=
  .next (
    if s.ntu.elapsed < s.ntu.lastAnn.getD port 0 + 3 * secTicks then s
    else (s.modNtu fun n => { n with ranks := listSet n.ranks port none }).chooseMaster)

def State.setEx (s : State) (port : Nat) (x : PtpEx) : State := s.modNtu fun n => { n with ex := listSet n.ex port x }

/-- The send time of a Sync is known: the device sends a Delay_Req with the next sequence number (R35). -/
def State.askDelay (s : State) (port : Nat) (x : PtpEx) : State :=
  let n := (x.reqSeq + 1) % 65536
  (s.setEx port { x with waitFollow := false, haveSync := true, asked := true, reqSeq := n }).send (.delayReq port n)

/-- A Sync message is timestamped (R35); a two-step master's send time follows. -/
def execPtpSync (port : Fin 2) (h : PtpHdr) (twoStep : Bool) (t1 corr t2 : Int) (s : State) :
    Host.Outcome State Fault Refusal :=
  .next (
    if !s.ptpMine h then s
    else
      let x : PtpEx := { seq := h.seq.toNat, waitFollow := twoStep, haveSync := !twoStep, t1 := t1, corr := corr, t2 := t2
                         reqSeq := (s.ntu.ex.getD port {}).reqSeq }
      if twoStep then s.setEx port x else s.askDelay port x)

/-- A Follow_Up supplies the master's precise send time (R35). -/
def execPtpFollowUp (port : Fin 2) (h : PtpHdr) (t1 corr : Int) (s : State) : Host.Outcome State Fault Refusal :=
  .next (
    let x := s.ntu.ex.getD port {}
    if s.ptpMine h ∧ x.waitFollow ∧ x.seq = h.seq.toNat then s.askDelay port { x with t1 := t1, corr := x.corr + corr } else s)

/-- The Delay_Resp to the Delay_Req last sent completes a measurement (R35, R458): the offset ((T2 − T1) − (T4 − T3)) ÷ 2 with correctionFields
honoured, less half of DELAY_ASYM. Times are in half nanoseconds, so the doubled offset is in quarters. -/
def execPtpDelayResp (port : Fin 2) (h : PtpHdr) (t3 t4 corr : Int) (s : State) :
    Host.Outcome State Fault Refusal :=
  .next (
    let x := s.ntu.ex.getD port {}
    if s.ptpMine h ∧ x.asked ∧ x.haveSync ∧ h.seq.toNat = x.reqSeq then
      let s := s.setEx port { x with haveSync := false, asked := false }
      let off := (x.t2 - x.t1 - x.corr) - (t4 - t3 - corr) - signedOf (s.fld NTU_PTP_CFG.DELAY_ASYM 0) 32
      if s.tsrc ∈ [1, 2, 3] ∧ s.fld NTU_STATUS.TSRC_ACTIVE 0 = port + 1 then s.measure off else s
    else s)

/-- The once-per-second update of the estimates (R42, R43). -/
def execTeUpdate (s : State) : Host.Outcome State Fault Refusal := .next s.teRefresh

/-! ### Time over Zapiex (R38, R390) -/

/-- A time leader or relaying follower sends a TIME frame on a link it serves (R38, R390). -/
def execTimeFrameSend (link : Fin 8) (s : State) : Host.Outcome State Fault Refusal :=
  .next (
    if s.fld NTU_CTL.TIME_LEADER 0 = 1 ∧ s.tsrc ≠ 8 + link ∧ s.fld ZXL_LNK_STATUS.STATE link = lkActive then
      s.sendLink link { typ := 0x03, vc := 0, dst := 0xFF, hops := if s.timeFollower then s.ntu.hop + 1 else 0
                        payload := leBytes (s.fld NTU_TE.TE_EST 0) 4 ++ leBytes s.dState 1 }
    else s)

/-- A TIME frame delivered on a link (R38, R42, R390, R458). -/
def State.takeTime (s : State) (link hops : Nat) (t : TimeInfo) : State :=
  if s.tsrc ≠ 8 + link then s
  else if hops ≥ 7 then (s.ntuEvt NTU_EVT.SRC_REJECT).loseLock
  else if t.state ≠ 2 ∧ t.state ≠ 3 then s
  else
    let s := s.modNtu fun n => { n with hop := hops, srcTe := t.te.toNat }
    let asym := signedOf ((s.reg .NTU_ZX_ASYM 0).toNat / 2 ^ (8 * link)) 8
    -- the offset and half of the asymmetry are halves of quarters: rounded down to a quarter
    s.measure (((t.t2 - t.t1) - (t.t4 - t.t3) - asym).fdiv 2)

/-- The link a follower takes time from goes down (R41). -/
def State.timeLinkDown (s : State) (link : Nat) : State := if s.tsrc = 8 + link then s.loseLock else s

/-- The Ethernet port whose PTP master is the source in use goes down (R41). -/
def State.timePortDown (s : State) (port : Nat) : State :=
  if s.tsrc ∈ [1, 2, 3] ∧ s.fld NTU_STATUS.TSRC_ACTIVE 0 = port + 1 then s.loseLock else s

/-! ### Margins of global operations (R49 to R52) -/

/-- Records the margin of a global operation that arrives at this instant, `scope` 2 being a span's; the flag says it is
late. -/
def State.margin (s : State) (scope e : Nat) : Bool × State :=
  let m := e * 1000 - (s.now * 1000 + s.ntu.ns)
  let f := if scope = 2 then NTU_MARGIN.SPAN_MIN else NTU_MARGIN.BOARD_MIN
  (decide (m < 1000), s.setFld f 0 (min (s.fld f 0) m))

/-- The schedule-class event of a late arrival (R52). -/
def State.lateEvent (s : State) (i : Nat) : State := s.raise { cls := 0xD, ins := i, evt := 0xB, value := 3, trail := i }

/-- A late arrival: not performed; a schedule-class event, and the trail stops (R52). -/
def State.lateArrival (s : State) (i : Nat) : State := (s.lateEvent i).announceStop i 3

/-! ### Register accesses -/

/-- NTU_LEAD and NTU_GUARD values that keep L × 1,000 ≥ 2 G + 1,000 for both pairs (R50). -/
def leadGuardOk (lead guard_ : Word) : Bool :=
  decide (NTU_LEAD.BOARD_LEAD.of lead * 1000 ≥ 2 * NTU_GUARD.BOARD_GUARD.of guard_ + 1000)
    && decide (NTU_LEAD.SPAN_LEAD.of lead * 1000 ≥ 2 * NTU_GUARD.SPAN_GUARD.of guard_ + 1000)

/-- A write of NTU_LEAD (R50). -/
def execNtuLeadWrite (v : Word) (s : State) : Host.Outcome State Fault Refusal :=
  .next (
    let v' := NTU_LEAD.SPAN_LEAD.put (NTU_LEAD.BOARD_LEAD.put 0 (NTU_LEAD.BOARD_LEAD.of v)) (NTU_LEAD.SPAN_LEAD.of v)
    if leadGuardOk v' (s.reg .NTU_GUARD 0) then s.setReg .NTU_LEAD 0 v' else s)

/-- A write of NTU_GUARD (R44, R50). -/
def execNtuGuardWrite (v : Word) (s : State) : Host.Outcome State Fault Refusal :=
  .next (
    let v' := BitVec.ofNat 64 (v.toNat % 2 ^ 48)
    if leadGuardOk (s.reg .NTU_LEAD 0) v' then (s.setReg .NTU_GUARD 0 v').teRefresh else s)

/-- A write of MARGIN_RST (R54). -/
def execMarginRst (s : State) : Host.Outcome State Fault Refusal :=
  .next ((s.setFld NTU_MARGIN.SPAN_MIN 0 0xFFFFFFFF).setFld NTU_MARGIN.BOARD_MIN 0 0xFFFFFFFF)

/-- SEC[31:0] and NSEC of the 80-bit counter at this instant (R28, R29). -/
def State.timeLo (s : State) : Word :=
  BitVec.ofNat 64 (s.now / secTicks % 2 ^ 32 * 2 ^ 32 + s.now % secTicks * 1000 + s.ntu.ns)

/-- A read of NTU_TIME_LO latches SEC[47:32] (R55). -/
def State.latchTime (s : State) : State :=
  let s := s.instant
  s.setFld NTU_TIME_HI.SEC_HI 0 (s.now / secTicks / 2 ^ 32)

/-- A write of NTU_CTL takes effect (R34, R41). -/
def State.ntuCtlWritten (s : State) (old : Word) : State :=
  let tsrcNew := s.tsrc
  let s := if NTU_CTL.TSRC.of old = tsrcNew then s else
    -- DESIGN CHOICE (log 75): in LOCKED and HOLDOVER the state and the offsets kept stay
    let s := s.modNtu fun n => { n with good := 0 }
    let s := s.setFld NTU_STATUS.TSRC_ACTIVE 0 (if tsrcNew = 3 then 0 else tsrcNew)
    let s := if tsrcNew = 3 then s.chooseMaster else s
    if tsrcNew = 0 then s.setDState dUnlocked
    else if s.dState = dUnlocked ∧ s.ntu.pllLocked then s.setDState dFreq else s
  let s := if NTU_CTL.FSRC.of old = s.fld NTU_CTL.FSRC 0 then s else s.selectRef
  if NTU_CTL.TIME_LEADER.of old = s.fld NTU_CTL.TIME_LEADER 0 then s else s.teRefresh

end Sys2Proof.Machine
end

