-- ==== Sys2Proof/Machine/Retire.lean ====
section
/-! DEFINITION. The resources in service, and members that leave a trail (R13, R18, R76, R406, R413 to R415). -/

namespace Sys2Proof.Machine

/-- A schedule-class event of instance `i` (R402, R408). -/
def schedEvt (i evt loc : Nat) : Evt := { cls := 0xD, ins := i, evt := evt, loc := loc, trail := i, part := some i }

/-- Resources `have_` in service cover a need, both in the layout of HUB_CAP_RES (R18, R56, R58). -/
def resCovers (need have_ : Word) : Bool :=
  decide (HUB_CAP_RES.PART_PRESENT.of need &&& (65535 - HUB_CAP_RES.PART_PRESENT.of have_) = 0)
    && [HUB_CAP_RES.CORES_ACTIVE, HUB_CAP_RES.TRUNK_GIB, HUB_CAP_RES.ROOT_TIB, HUB_CAP_RES.ZX_LINKS].all fun f =>
      f.of need ≤ f.of have_

/-- The LCIDs that an image names in CORE_DIR and PART_LIST. -/
def Image.lcids (im : Image) : List Nat := im.cores.map (·.lcid) ++ im.parts.map (·.lcid)

/-- The resources in service cover an image, and it names no absent LCID. -/
def State.covers (s : State) (im : Image) : Bool :=
  resCovers (BitVec.ofNat 64 im.resNeed) (s.reg .HUB_CAP_RES 0) && im.lcids.all fun c => c ∉ s.absent

/-- Firmware rewrites HUB_CAP_RES, each VF reports whether its partition is present, and contexts hear of it (R18, R359,
R379, R413). DESIGN CHOICE (log 73): RES_GEN counts the first write, at READY, too; R18 does not say what it then reads. -/
def State.rewriteCaps (s : State) (v : Word) : State :=
  let g := (HUB_CAP_RES.RES_GEN.of (s.reg .HUB_CAP_RES 0) + 1) % 256
  let s := s.setReg .HUB_CAP_RES 0 (HUB_CAP_RES.RES_GEN.put v g)
  let s := (List.range 16).foldl (fun s p => s.setFld VF_INFO.PRESENT p (if s.present p then 1 else 0)) s
  s.eventAll 0x6 g (leBytes (s.reg .HUB_CAP_RES 0).toNat 8)

/-- This device retires itself as a member of instance `i`: a PLAN record, a FAULT frame to the others, and its own trail
stops (R414). -/
def State.leaveTrail (s : State) (i : Nat) : State :=
  let e := { schedEvt i 0xD 0 with value := s.memberIdx i }
  let s := s.raise e
  (s.faultFrames i (e.record 0 s.now (s.evtClass 0xD 0xD) false) true).noteStop i (s.leadBoundary i) 6 (s.sdid, s.opSeq)

/-- After a retirement each running trail is checked (R414). -/
def State.checkCoverage (s : State) : State :=
  (List.range 16).foldl (fun s i =>
    if s.iState i ∈ [iRunning, iStandby] ∧ !s.covers (s.inst i).image then s.leaveTrail i else s) s

/-- A resource has been retired: once the device is ready HUB_CAP_RES is written again with what is in service (R18), and
each running trail is checked. -/
def State.afterRetire (s : State) (v : Word) : State :=
  if s.fld HIF_STATUS.READY 0 = 1 then (s.rewriteCaps v).checkCoverage else s

/-- The standby of the board of member `m`, if it has one that is not retired (R75). -/
def Inst.standbyOf (x : Inst) (m : Nat) : Option Nat :=
  match x.image.members[m]? with
  | none => none
  | some e => (x.image.members.mapIdx fun j d => (j, d)).findSome? fun (j, d) =>
      if d.role = 1 ∧ d.board = e.board ∧ j ∉ x.retired then some j else none

/-- The first boundary of a schedule ring at least one lead time ahead (R76): one named by an announced slip opens a resumed
ring. -/
def State.takeoverBoundary (s : State) (i : Nat) : Nat :=
  let x := s.inst i
  let e := s.leadBoundary i
  if (x.slipAt.map Prod.fst) = some e then e + x.image.period else e

/-- Member `m` of instance `i` is reported retired (R76): its board's standby announces a takeover; without one the trail
stops with cause 0x06. -/
def State.memberRetired (s : State) (i m : Nat) : State :=
  let x := s.inst i
  if m ∈ x.retired ∨ m ≥ x.image.members.length ∨ !s.trailActive i then s
  else
    let s := s.modInst i fun x => { x with retired := m :: x.retired }
    if ((x.image.members[m]?).map (·.role)) ≠ some 0 then s
    else
      match x.standbyOf m with
      | none => s.announceStop i 6
      | some j =>
        if j = s.memberIdx i ∧ (s.iState i = iStandby ∨ s.iState i = iStopping) ∧ x.takeoverAt = none then
          let e := s.takeoverBoundary i
          let s := s.nextOp
          (s.modInst i fun x => { x with takeoverAt := some (e, m, s.sdid), takeoverBy := (s.sdid, s.opSeq) }).tellMembers i
            (.takeover (BitVec.ofNat 64 x.image.trailId) e (BitVec.ofNat 8 m) (BitVec.ofNat 8 s.sdid) s.opSeq)
        else s

/-- A member misses two heartbeats and the lead time (R415). -/
def execHeartbeatTimeout (i : PartId) (member : Fin 256) (s : State) : Host.Outcome State Fault Refusal :=
  .next (
    let x := s.inst i
    let live := (x.others (s.memberIdx i)).any fun e => e.1 = member ∧ e.2.role = 0
    if (s.executing i ∨ s.iState i = iStandby) ∧ live ∧ member.val ∉ x.retired ∧ x.missed.get 0 member ≥ 2
        ∧ s.lead x.image.scope ≤ x.posAt s.now then
      (s.raise { schedEvt i 0xD 0 with value := member.val }).memberRetired i member
    else s)

/-- Position in its cluster of the physical core of `c`; that of an LCID not yet mapped is taken to be its own number. -/
def State.corePos (s : State) (c : Nat) : Nat :=
  match s.lcidPos.get 0 c with
  | 0 => c % 8
  | n + 1 => n

/-- A working position of cluster `cl` that no LCID has (R13). -/
def State.sparePos (s : State) (cl : Nat) : Option Nat :=
  (List.range 9).find? fun q => !maskBit (s.dead.get 0 cl) q
    && (List.range' (cl * 8) 8).all fun c => decide (c ∈ s.absent) || decide (s.corePos c ≠ q)

/-- A permanently faulty core is replaced by its cluster's spare at the next schedule-ring boundary, or its LCID is absent
(R13, R413). Words whose error is uncorrectable arrive poisoned. -/
def execCoreRetire (c : Lcid) (s : State) : Host.Outcome State Fault Refusal :=
  .next (
    let k := s.core c
    let i := s.coreInst c
    if k.retiring ∧ (!s.executing i ∨ (s.inst i).isBoundary s.now) then
      let cl := c.val / 8
      let q := s.corePos c
      let s := { s with dead := s.dead.set 0 cl (s.dead.get 0 cl ||| 2 ^ q) }
      let spare := s.sparePos cl
      let s := s.modCore c fun k => { k with
        retiring := false
        cmarks := k.cmarks.map fun (e : Nat × Mark) => (e.1, if e.2 = .ue then Mark.poison else e.2)
        accMarks := k.accMarks.map fun (e : Nat × Mark) => (e.1, if e.2 = .ue then Mark.poison else e.2) }
      let s := s.raise { cls := 0, ins := cl, evt := 0x5, loc := c.val, retire := true, part := some (partOf c) }
      let v := s.reg .HUB_CAP_RES 0
      match spare with
      | some k => ({ s with lcidPos := s.lcidPos.set 0 c (k + 1) } : State).afterRetire v
      | none =>
        let s : State := { s with absent := c.val :: s.absent, lcidPos := s.lcidPos.set 0 c 0 }
        let p := partOf c
        let v := HUB_CAP_RES.CORES_ACTIVE.put v (HUB_CAP_RES.CORES_ACTIVE.of v - 1)
        let gone : Bool := (List.range 32).all fun j => decide (p * 32 + j ∈ s.absent)
        s.afterRetire
          (if gone && s.present p then HUB_CAP_RES.PART_PRESENT.put v (HUB_CAP_RES.PART_PRESENT.of v - 2 ^ p) else v)
    else s)

end Sys2Proof.Machine
end

