-- ==== Sys2Proof/Machine/Windows.lean ====
section
/-! DEFINITION. The window engines and their staging areas (R279 to R283). -/

namespace Sys2Proof.Machine

def StreamEnt.part (e : StreamEnt) : Nat := partOf e.dst
def Image.stream (im : Image) (i : Nat) : Option StreamEnt := im.streams[i]?

/-! ### The range of an entry (R280) -/

/-- Context and OVA of object byte `base` of an entry, where its whole range lies in the object on present pages. -/
def State.streamAt (s : State) (e : StreamEnt) (base : Nat) : Option (Nat × Nat) :=
  match s.findObj e.obj with
  | none => none
  | some o =>
    let x := e.obj / 2 ^ 20
    let a := o.ova + base
    if base + e.len ≤ o.bytes ∧ s.sameGroup x (e.part * 256)
        ∧ (List.range' (a / 65536) ((a + e.len - 1) / 65536 + 1 - a / 65536)).all (fun pg => (s.pte x (pg * 65536)).present) then
      some (x, a)
    else none

/-- Tiles of the range that begins at `ova`. -/
def StreamEnt.tiles (e : StreamEnt) (ova : Nat) : Nat := (ova + e.len - 1) / 65536 + 1 - ova / 65536

/-- The 64 KiB frames of the range that begins at `ova`, under the PTEs in force (R280). -/
def State.streamFrames (s : State) (e : StreamEnt) (x ova : Nat) : List Nat :=
  (List.range' (ova / 65536) (e.tiles ova)).map fun pg => (s.pte x (pg * 65536)).dpa (pg * 65536) / 65536

def frameRoot (f : Nat) : Bool := rootBase ≤ f * 65536

/-- The run has a tile in another tier than planned. -/
def StreamRun.mismatch (r : StreamRun) (e : StreamEnt) : Bool := r.frames.any fun f => frameRoot f ≠ e.root

/-! ### Runs -/

def State.setStreams (s : State) (p : Nat) (l : List StreamRun) : State := s.modMem p fun m => { m with streams := l }

/-- Replaces run `n` of a partition. -/
def State.putRun (s : State) (p n : Nat) (r : StreamRun) : State := s.setStreams p (listSet (s.mem p).streams n r)

/-- Staging space is freed: frames outside a lowered area go the way of freed frames (R282). -/
def State.freeStage (s : State) (p : Nat) (fs : List (Option Nat)) : State :=
  fs.foldl (fun s f =>
    match f with
    | none => s
    | some f =>
      if f ≥ s.stageFirst p then s.modMem p fun m => { m with stageFree := m.stageFree.add f 1 }
      else s.setPend p ((s.pendFrames p).add f 1)) s

/-- Frames held for entries that have ended are freed (R274). -/
def State.freeHeld (s : State) (p : Nat) : State :=
  (s.mem p).held.foldl State.freeDpaFrame (s.modMem p fun m => { m with held := [] })

/-- Run `n` of a partition ends. -/
def State.endRun (s : State) (p n : Nat) : State :=
  let l := (s.mem p).streams
  ((s.setStreams p (l.eraseIdx n)).freeStage p ((l[n]?.map (·.staged)).getD [])).freeHeld p

/-- Run `n` is discarded: STREAM_ERR and a DISCARD event of its instance (R280, R281). -/
def State.discardRun (s : State) (p n : Nat) : State :=
  match (s.mem p).streams[n]? with
  | none => s
  | some r =>
    let slot := (((s.inst r.inst).image.stream r.entry).map (·.slot)).getD 0
    ((s.endRun p n).inc PRT_XL_STREAM.STREAM_ERR p).raise (schedEvt r.inst 0xC (slot + (s.inst r.inst).schedAt s.now * 2 ^ 32))

/-- Tiles of the run that lie in Trunk, or read as poison, need no staging: they are passed. `fuel` bounds them. -/
def State.passTiles (s : State) (r : StreamRun) : Nat → StreamRun
  | 0 => r
  | fuel + 1 =>
    match r.frames[r.staged.length]? with
    | some f =>
      if !frameRoot f || s.poisonedAt (f * 65536) 65536 then s.passTiles { r with staged := r.staged ++ [none] } fuel else r
    | none => r

/-- The run is translated at byte `base` of its object, under the PTEs in force: the entry starts; or it is discarded, where
its gate has passed, or given up. TIER_MISMATCH counts at its gate (R280). -/
def State.settleRun (s : State) (p n : Nat) (e : StreamEnt) (r : StreamRun) (base : Nat) : State :=
  match s.streamAt e base with
  | none => if r.gated then (s.putRun p n r).discardRun p n else s.endRun p n
  | some (x, ova) =>
    let r := { r with base := some base, ctx := x, ova := ova, frames := s.streamFrames e x ova, since := s.ntu.elapsed }
    let s := if r.gated && r.mismatch e then s.inc PRT_XL_STREAM.TIER_MISMATCH p else s
    s.putRun p n (s.passTiles r (e.tiles ova + 1))

/-- A KIND 1 run whose bucket cell is full reads its expert; b ≥ NEXP delivers nothing (R254, R280). -/
def State.resolveRun (s : State) (p n : Nat) : State :=
  match (s.mem p).streams[n]? with
  | none => s
  | some r =>
    match r.base, (s.inst r.inst).image.stream r.entry with
    | none, some e =>
      let cl := s.cell e.bktLcid e.bktCell
      if !cl.full then s
      else
        let q := s.portRead e.bktLcid portRemote cl.base (16 + 8 * (e.bktB + 1))
        let s := q.2.endBuf e.bktLcid portRemote
        match q.1.1 with
        | none => s.discardRun p n
        | some bs =>
          if e.bktB ≥ leNat (bs.take 4) then s.endRun p n
          else s.settleRun p n e r (e.ofs * 64 + leNat ((bs.drop (16 + 8 * e.bktB)).take 2) % 2 ^ 13 * e.stride)
    | _, _ => s

/-- Starts entry `idx` of instance `i`: a run of its own, not gated where only its staging starts. -/
def State.startStream (s : State) (i idx : Nat) (gated : Bool) : State :=
  match (s.inst i).image.stream idx with
  | none => s
  | some e =>
    let p := e.part
    let n := (s.mem p).streams.length
    let r : StreamRun := { inst := i, entry := idx, gate := s.ntu.elapsed, base := none, gated := gated, done := 0, turn := 0, staged := []
                           waiting := false, since := s.ntu.elapsed }
    let s := s.setStreams p ((s.mem p).streams ++ [r])
    if e.expert then s.resolveRun p n else s.settleRun p n e r (e.ofs * 64)

/-! ### Gates and lookahead (R280, R282) -/

/-- Entries of the destination core of `idx`, in table order. -/
def Image.sameDst (im : Image) (idx : Nat) : List Nat :=
  match im.stream idx with
  | none => []
  | some e => (List.range im.streams.length).filter fun j => ((im.stream j).map (·.dst)) = some e.dst

/-- The entry whose gate starts the staging of entry `idx`, and how many schedule rings earlier, for a Root-sourced KIND 0
entry with D > 0. -/
def Image.stager (im : Image) (idx : Nat) : Option (Nat × Nat) :=
  match im.stream idx with
  | none => none
  | some e =>
    if e.expert ∨ !e.root ∨ e.d = 0 then none
    else
      let l := im.sameDst idx
      let n := l.length
      let at_ := l.idxOf idx
      let back := if e.d ≤ at_ then 0 else (e.d - at_ + n - 1) / n
      (l[(at_ + back * n - e.d)]?).map fun g => (g, back)

/-- Staging begins at the start tick for every entry whose staging gate would fall before it. -/
def State.startStaging (s : State) (i : Nat) : State :=
  let im := (s.inst i).image
  (List.range im.streams.length).foldl (fun s j =>
    match im.stager j with
    | some (_, back) => (List.range back).foldl (fun s _ => s.startStream i j false) s
    | none => s) s

/-- A STREAM gate names entry `idx`: staging that it opens begins, and the entry itself starts (R280, R282). -/
def State.streamGate (s : State) (i idx : Nat) : State :=
  let im := (s.inst i).image
  let s := match im.stream idx with
    | none => s
    | some e =>
      match (s.mem e.part).streams.findIdx? fun r => r.inst = i ∧ r.entry = idx ∧ !r.gated with
      | none => s.startStream i idx true
      | some n =>
        match (s.mem e.part).streams[n]? with
        | none => s
        | some r =>
          s.settleRun e.part n e { r with gated := true, gate := s.ntu.elapsed } (e.ofs * 64)
  (List.range im.streams.length).foldl (fun s j =>
    if (im.stager j).map Prod.fst = some idx then s.startStream i j false else s) s

/-! ### Staging and delivery (R281, R282) -/

/-- The oldest run of an entry in a partition's engine that has still something to do for `f`. -/
def State.runOf (s : State) (p entry : Nat) (f : StreamRun → Bool) : Option Nat :=
  (s.mem p).streams.findIdx? fun r => r.entry = entry ∧ f r

/-- The number of region `f` lies in is new to the run: none of its tiles so far lies there (R328). -/
def StreamRun.fresh (r : StreamRun) (f : Nat) : Bool :=
  !((r.frames.take r.staged.length).any fun g => frameRoot g && frameRegion g = frameRegion f)

/-- The next tile of run `n` is staged: it takes a grant at its tower, and its bytes lie in a staging frame. Without a free
one it waits, and STAGE_WAITS counts the wait (R282, R332). -/
def State.stageTile (s : State) (p n : Nat) (r : StreamRun) : State :=
  match r.frames[r.staged.length]?, (s.mem p).stageFree.nth 0 with
  | some _, none => if r.waiting then s else (s.putRun p n { r with waiting := true }).inc PRT_XL_STREAM.STAGE_WAITS p
  | some g, some f =>
    match s.rootTile p g (r.fresh g) with
    | none => s
    | some s =>
      let s := s.modMem p fun m => { m with stageFree := m.stageFree.remove f 1 }
      let a := trunkDpa p (f * 65536)
      let s := (s.moveBytes (g * 65536) a 65536).chargeTrunk p (some r.ctx) a 65536
      s.putRun p n (s.passTiles { r with staged := r.staged ++ [some f], waiting := false } (r.frames.length + 1))
  | none, _ => s

/-- The next tile of an entry is staged. -/
def execStagingEnd (p : PartId) (entry : Nat) (s : State) : Host.Outcome State Fault Refusal :=
  .next (
    let s := match s.runOf p entry (fun r => r.base.isNone) with
      | some n => s.resolveRun p n
      | none => s
    match s.runOf p entry (fun r => r.base.isSome && decide (r.staged.length < r.frames.length)) with
    | none => s
    | some n =>
      match (s.mem p).streams[n]? with
      | some r => s.stageTile p n r
      | none => s)

/-- DPA of an OVA of a run: in its staging frame, or where its page lay when the entry started. -/
def StreamRun.dpa (r : StreamRun) (p ova : Nat) : Nat :=
  let k := ova / 65536 - r.ova / 65536
  match r.staged.getD k none with
  | some f => trunkDpa p (f * 65536 + ova % 65536)
  | none => r.frames.getD k 0 * 65536 + ova % 65536

/-- Bytes of a run from its start that may be delivered: those before the first tile not staged. -/
def StreamRun.ready (r : StreamRun) (e : StreamEnt) : Nat :=
  if r.staged.length ≥ r.frames.length then e.len else (r.ova / 65536 + r.staged.length) * 65536 - r.ova

/-- Words of a delivery that read poison become poisoned words of Canopy; `gold` says that the data has a golden copy
(R416). -/
def State.poisonWords (s : State) (c base dpa n : Nat) (gold : Bool) : State :=
  if s.poisonedAt dpa n then
    (List.range (n / 8)).foldl (fun s j =>
      if s.poisonedAt (dpa + 8 * j) 8 then
        (s.setCMark c (base / 8 + j) .poison).modCore c fun k => { k with golden := k.golden.set false (base / 8 + j) gold }
      else s) s
  else s

/-- The pieces of the next delivery of `len` bytes: offset in it, DPA, bytes. -/
def StreamRun.pieces (r : StreamRun) (p len : Nat) : List (Nat × Nat × Nat) :=
  (pagePieces (r.ova + r.done) len).map fun q => (q.1 - (r.ova + r.done), r.dpa p q.1, q.2)

/-- Cell of the next delivery of a run. -/
def StreamRun.cell (r : StreamRun) (e : StreamEnt) : Nat := e.cell0 + r.turn % e.ncell

/-- The next delivery of a run can end now: its cell is empty, unclaimed and defined, its bytes are staged, and none of them
waits for a golden copy (R281, R416). A delivery whose length is not a multiple of 64 can be discarded. -/
def State.canDeliver (s : State) (p : Nat) (r : StreamRun) (e : StreamEnt) : Bool :=
  let cl := s.cell e.dst (r.cell e)
  let len := min cl.size (e.len - r.done)
  r.gated && r.base.isSome && cl.claimable false
    && (decide (len % 64 ≠ 0) || (decide (r.done + len ≤ r.ready e)
      && !(r.pieces p len).any fun q => s.marked .poison q.2.1 q.2.2 && s.goldenAt r.ctx (r.ova + r.done + q.1)))

/-- Two entries fill a common cell. -/
def StreamEnt.sharesCell (e f : StreamEnt) : Bool := decide (e.dst = f.dst) && rangesMeet e.cell0 e.ncell f.cell0 f.ncell

/-- An entry that the same gate event started before run `n` goes first: one that can deliver now, and one that fills a common
cell until it has ended (R281; log 94). -/
def State.outranked (s : State) (p n : Nat) (r : StreamRun) (e : StreamEnt) : Bool :=
  ((s.mem p).streams.take n).any fun q =>
    decide (q.inst = r.inst) && q.gated && decide (q.gate = r.gate) &&
      ((s.inst q.inst).image.stream q.entry).any fun f => f.sharesCell e || s.canDeliver p q f

/-- A delivery of an entry ends: it found its cell empty and unclaimed and its bytes staged; the cell is full (R281). A sector
that this read finds uncorrectable is delivered as poisoned words; reads after it wait for the golden copy (R416). -/
def State.deliver (s : State) (p n : Nat) (r : StreamRun) (e : StreamEnt) : State :=
  let k := r.cell e
  let cl := s.cell e.dst k
  let len := min cl.size (e.len - r.done)
  if !s.canDeliver p r e ∨ s.outranked p n r e then s
  else if len % 64 ≠ 0 then s.discardRun p n
  else
    let pieces := r.pieces p len
    let s := pieces.foldl (fun s q => s.readTrunk p (some r.ctx) q.2.1 q.2.2) s
    let s := s.cWrite e.dst cl.base (pieces.flatMap fun q => s.readDpa q.2.1 q.2.2)
    let s := pieces.foldl (fun s q => s.poisonWords e.dst (cl.base + q.1) q.2.1 q.2.2 (s.goldenAt r.ctx (r.ova + r.done + q.1))) s
    let s := s.setTag e.dst k true
    let upto := (r.ova + r.done + len) / 65536 - r.ova / 65536
    let r' := { r with done := r.done + len, turn := r.turn + 1, since := s.ntu.elapsed }
    if r'.done ≥ e.len then (s.putRun p n r').endRun p n
    else (s.putRun p n { r' with staged := List.replicate (min upto r.staged.length) none ++ r.staged.drop upto }).freeStage p
      (r.staged.take upto)

/-- The next delivery of an entry of a partition's window engine ends. -/
def execWindowDeliveryEnd (p : PartId) (entry : Nat) (s : State) : Host.Outcome State Fault Refusal :=
  .next (
    let s := match s.runOf p entry (fun r => r.gated ∧ r.base.isNone) with
      | some n => s.resolveRun p n
      | none => s
    match s.runOf p entry (fun r => r.gated ∧ r.base.isSome) with
    | none => s
    | some n =>
      match (s.mem p).streams[n]? with
      | none => s
      | some r =>
        match (s.inst r.inst).image.stream entry with
        | none => s
        | some e => s.deliver p n r e)

/-- The entries of an instance under way end, and their staging space is freed. -/
def State.endStreams (s : State) (i : Nat) : State :=
  (maskParts (s.inst i).image.groupMask).foldl (fun s p =>
    let l := (s.mem p).streams
    let s := s.setStreams p (l.filter fun r => r.inst ≠ i)
    ((l.filter fun r => r.inst = i).foldl (fun s r => s.freeStage p r.staged) s).freeHeld p) s

/-- Tier that an entry's next delivery reads, its plan where none is under way (R72, R280). -/
def State.streamTier (s : State) (i idx : Nat) (e : StreamEnt) : Tier :=
  match (s.mem e.part).streams.find? fun r => r.inst = i ∧ r.entry = idx with
  | some r =>
    match r.frames[(r.ova + r.done) / 65536 - r.ova / 65536]? with
    | some f => if frameRoot f then .root else .trunk
    | none => if e.root then .root else .trunk
  | none => if e.root then .root else .trunk

end Sys2Proof.Machine
end

