-- ==== Sys2Proof/Machine/Sequencer.lean ====
section
/-! DEFINITION. The ring sequencer: slots, slips, gates, mirrors, the start, stop and takeover of a trail (R57, R60 to R64,
R66, R69 to R76). -/

namespace Sys2Proof.Machine

/-! ### Scheduled events (R66, R69, R71) -/

/-- A due event of an executing instance takes effect when it is its turn (R66). -/
def State.atEvent (s : State) (i kind idx ofs phase : Nat) (body : State → State) : State :=
  let x := s.inst i
  if s.executing i ∧ x.due s.now kind idx ofs ∧ s.turn i phase idx then
    body (s.modInst i fun y => y.fire kind idx (x.schedAt s.now)) else s

/-! ### Slot-end checks and slips (R63, R70 to R73, R112) -/

/-- A thread slot waits in WTICK on this tick or a later one, or has halted. -/
def State.threadDone (s : State) (k stop c t : Nat) : Bool :=
  let x := s.thr c t
  match x.state, x.wait with
  | .halted, _ => true
  | .waitTick, .tick n => decide (s.now ≤ n)
  | .waitTick, .sched k' ofs => decide (k < k') || (decide (k' = k) && decide (stop ≤ ofs))
  | _, _ => false

/-- Memory and remote operations that a thread slot issued in slot `j` and that are not acknowledged. -/
def State.slotOps (s : State) (j c t : Nat) : List Op :=
  (s.core c).ops.filter fun o => o.t = t ∧ isMove o.op ∧ (o.sub.map (· / 16)) = some j

/-- Cells a participant is blocked on: its own TAKE or PUT, and operations of its that wait for a claim. -/
def State.blockedCells (s : State) (c t : Nat) : List Nat :=
  let x := s.thr c t
  (match x.state, x.wait with
   | .blocked, .take k _ => [k]
   | .blocked, .put k => [k]
   | _, _ => [])
  ++ ((s.core c).allOps.filter fun o => o.t = t ∧ !o.started ∧ o.flag ≠ none).map fun o => wCell o.word

/-- A participant of slot `j` is blocked on a cell that a STREAM_TBL entry from tier `tier` is to fill (R72). -/
def State.starvedBy (s : State) (i j : Nat) (tier : Tier) : Bool :=
  let im := (s.inst i).image
  (im.participants j).any fun (c, t) => (s.blockedCells c t).any fun k =>
    (im.streams.mapIdx fun n e => (n, e)).any fun (n, e) =>
      decide (e.dst = c) && decide (e.cell0 ≤ k) && decide (k < e.cell0 + e.ncell) && decide (s.streamTier i n e = tier)

/-- A sub-slot of the slot is yet to open (R64). -/
def Inst.subsLeft (x : Inst) (j : Nat) : Bool :=
  match x.image.slots[j]?, x.openSlots.find j with
  | some e, some k => decide (k + 1 < e.subCnt)
  | _, _ => false

/-- The counter of the cause of a slip (R72). -/
def State.slipCause (s : State) (i j : Nat) : Fld :=
  if s.starvedBy i j .root then RSQ_TRL_SLIP.SLIP_ROOT
  else if s.starvedBy i j .trunk then RSQ_TRL_SLIP.SLIP_TRUNK
  else if ((s.inst i).image.participants j).any (fun (c, t) => s.slotOps j c t ≠ []) || (s.inst i).subsLeft j then
    RSQ_TRL_SLIP.SLIP_LINK
  else RSQ_TRL_SLIP.SLIP_COMPUTE

/-- A slip of slot `j` announced for boundary `e` by `by_`; declarations that name one boundary are one slip, of the slot
that ends first (R70), performed as the first of them (R53). -/
def Inst.noteSlip (x : Inst) (e j : Nat) (by_ : Nat × Nat) : Inst :=
  match x.slipAt with
  | none => { x with slipAt := some (e, j), slipBy := by_ }
  | some (e0, j0) =>
    if e < e0 then { x with slipAt := some (e, j), slipBy := by_ }
    else if e = e0 then
      { x with slipAt := some (e, if x.slotStop j < x.slotStop j0 then j else j0)
               slipBy := if opBefore (e, by_) (e, x.slipBy) then by_ else x.slipBy }
    else x

/-- Slips that may follow each other in one slot. -/
def Image.slipMax (im : Image) : Nat := if im.slipLimit = 0 then 4 else im.slipLimit

/-- Slips of slot `j` applied at the boundaries that lead up to the network ring of tick `now`, one after the other
(R73): the run that a further slip would continue. DESIGN CHOICE (log 96): R73 does not say what ends a run; here a ring without
that slip does, on every member alike. -/
def Inst.slipRun (x : Inst) (now j : Nat) : Nat :=
  if x.consec.1 = j ∧ x.boundaryFrom (now + 1) = x.lastSlip + x.image.period then x.consec.2 else 0

/-- Slot `j` has overrun: the member declares a slip, or a stop at the slip limit (R70, R72, R73). -/
def State.overrun (s : State) (i j : Nat) : State :=
  let x := s.inst i
  if x.slipRun s.now j ≥ x.image.slipMax then s.announceStop i 4
  else
    let e := x.boundaryFrom (s.now + 1)
    let s := s.inc (s.slipCause i j) i
    let s := s.setFld RSQ_TRL_CNT.LAST_SLIP_SLOT i j
    let s := s.raise (schedEvt i 0xA (j + x.schedAt s.now * 2 ^ 32))
    let s := s.nextOp
    (s.modInst i fun x => x.noteSlip e j (s.sdid, s.opSeq)).tellMembers i
      (.slip (BitVec.ofNat 64 x.image.trailId) e (BitVec.ofNat 8 j) (BitVec.ofNat 8 s.sdid) s.opSeq)

/-- The check of slot `j` at its end. Where a participant trapped in it, the participants that do not wait in WTICK count
as halted (R112). DESIGN CHOICE (log 81): one that trapped in an earlier slot of the ring does not count as halted here; R112
speaks of the slot in which the trap was. A check that passes ends no run of slips: `Inst.slipped` counts a run by the
boundaries of the slips themselves (DESIGN CHOICE, log 96). -/
def State.checkSlot (s : State) (i j : Nat) : State :=
  let x := s.inst i
  let parts := x.image.participants j
  let stop := x.slotStop j
  let trapped := parts.any fun (c, t) => (s.thr c t).trapSlot = some j
  let counted := fun (e : Nat × Nat) => trapped && decide ((s.thr e.1 e.2).state ≠ .waitTick)
  let s' := parts.foldl (fun s e =>
    if counted e ∧ (s.thr e.1 e.2).state ≠ .halted ∧ (s.thr e.1 e.2).state ≠ .inactive then
      s.modThr e.1 e.2 fun y => { y with trapSlot := some j } else s) s
  if parts.all fun e => counted e || (s.threadDone (x.schedAt s.now) stop e.1 e.2 && decide (s.slotOps j e.1 e.2 = [])) then
    s'.modInst i fun x => { x with openSlots := x.openSlots.erase j }
  else s'.overrun i j

/-- SLOT_END_CHECK, at the first tick after the slot's last. -/
def execSlotEndCheck (i : PartId) (slot : Fin 256) (s : State) : Host.Outcome State Fault Refusal :=
  .next (
    let x := s.inst i
    if s.checkDue i slot then (s.modInst i fun y => y.fire evSlotEnd slot (x.ringAt s.now)).checkSlot i slot else s)

/-- A slip of slot `j` applied at boundary `e` (R71, R73). -/
def Inst.slipped (x : Inst) (e j : Nat) : Inst :=
  { x with
    slipAt := none, slips := x.slips + 1, resumed := some j, lastSlip := e
    consec := (j, if x.consec.1 = j ∧ e = x.lastSlip + x.image.period then x.consec.2 + 1 else 1) }

/-- SLIP_APPLY (R71): the network ring that begins carries on with the schedule ring, on every member whose trail has begun
(R70), those that run no slot included. A stop at the same boundary wins (R74). -/
def execSlipApply (i : PartId) (s : State) : Host.Outcome State Fault Refusal :=
  .next (
    let x := s.inst i
    match x.slipAt with
    | none => s
    | some (e, j) =>
      if e > s.now ∨ !s.trailActive i ∨ !x.begun ∨ !s.opTurn i (e, x.slipBy) then s
      else if x.stopAt.any fun q => q.1 ≤ e then s.modInst i fun x => { x with slipAt := none }
      else (s.modInst i fun x => x.slipped e j).inc RSQ_TRL_RING.SLIPS i)

/-! ### Gates (R57, R280, R320) -/

/-- GATE_STREAM (R280). -/
def execGateStream (i : PartId) (gate : Fin 4096) (s : State) : Host.Outcome State Fault Refusal :=
  .next (
    match (s.inst i).image.gates[gate.val]? with
    | some g => if g.kind = 1 then s.atEvent i evGate gate g.ofs 4 fun s => s.streamGate i g.arg else s
    | none => s)

/-- Pseudo-channels of the mask of a CLASP_DED gate: bit k stands for channels 2k and 2k + 1. -/
def dedMask (arg : Nat) : Nat := ((List.range 32).map fun k => if maskBit (arg / 256) k then 3 * 4 ^ k else 0).sum

/-- GATE_CLASP_DED (R320). Argument: [7:0] stack, [39:8] pseudo-channel mask, [63:40] burst length. -/
def execGateClaspDed (i : PartId) (gate : Fin 4096) (s : State) : Host.Outcome State Fault Refusal :=
  .next (
    match (s.inst i).image.gates[gate.val]? with
    | some g =>
      if g.kind ≠ 2 then s
      else s.atEvent i evGate gate g.ofs 4 fun s =>
        let st := g.arg % 16
        let outside := (List.range 16).any fun p =>
          !maskBit (s.inst i).image.groupMask p && decide (TRK_REG.SHARE.of (s.trkReg st p) ≠ 0)
        if s.trkMode st = 2 ∧ outside then
          (s.inc PRT_CLP_WAIT.DED_REFUSED st).raise (schedEvt i 0xC ((s.inst i).schedAt s.now * 2 ^ 32))
        else
          let s := s.modStack st fun k => { k with
            burst := some { inst := i, mask := dedMask g.arg, stop := s.ntu.elapsed + g.arg / 2 ^ 40 % 2 ^ 24 } }
          (s.setFld PRT_CLP_STATUS.CLASP_MODE st 1).inc PRT_CLP_STATUS.DED_BURSTS st
    | none => s)

/-- GATE_TICK_PUT (R57): the sequencer PUTs the tick number into a cell. Argument: [8:0] LCID, [19:9] cell. It waits for
the cell like an operation of the core's remote port. -/
def execGateTickPut (i : PartId) (gate : Fin 4096) (s : State) : Host.Outcome State Fault Refusal :=
  .next (
    match (s.inst i).image.gates[gate.val]? with
    | some g =>
      if g.kind ≠ 3 then s
      else s.atEvent i evGate gate g.ofs 4 fun s =>
        let c := g.arg % 512
        let k := s.core c
        let o : Op := { id := k.nextOp, arrival := s.arrivals, t := 8, word := BitVec.ofNat 64 (g.arg / 512 % 2048 * 2 ^ 36)
                        since := s.ntu.elapsed }
        let s : State := { s with arrivals := s.arrivals + 1 }
        s.modCore c fun k => { k with ops := k.ops ++ [o], nextOp := k.nextOp + 1 }
    | none => s)

/-! ### Mirrors (R75) -/

/-- Kind of XDEV_TBL entries that mirror. -/
def xdevMirror : Nat := 1

/-- The retained inputs of a step, as they are mirrored: the descriptor's fields, then each record with its resolved
token. -/
def StepRec.mirror (r : StepRec) : List Byte :=
  leBytes r.ctx 2 ++ leBytes r.id 4 ++ leBytes r.tag 4 ++ leBytes ((if r.adapter then 1 else 0) + (if r.notify then 2 else 0)) 1
    ++ leBytes r.nseq 4 ++ leBytes r.resAddr 8 ++ leBytes r.aspace 1 ++ leBytes r.argAddr 8 ++ leBytes r.argBytes 4
    ++ r.recs.flatMap fun e => e.bytes ++ leBytes e.tok0 4

/-- A step from its mirrored inputs. -/
def StepRec.ofMirror (bs : List Byte) : StepRec :=
  let f := fun o n => leNat ((bs.drop o).take n)
  { ctx := f 0 2, id := f 2 4, tag := f 6 4, adapter := decide (f 10 1 % 2 = 1), notify := decide (f 10 1 / 2 % 2 = 1)
    nseq := f 11 4, resAddr := f 15 8, aspace := f 23 1, argAddr := f 24 8, argBytes := f 32 4, replayed := true
    recs := (List.range ((bs.length - 36) / 644)).map fun j =>
      { bytes := (bs.drop (36 + 644 * j)).take 640, tok0 := f (36 + 644 * j + 640) 4 } }

/-- A TILE frame that carries mirrored data: ARG [63] set, [49:48] what it is (0 inputs, 1 commit list, 2 entries),
[47:32] context, [31:0] ring position of the step or sequence handle. -/
def mirrorArg (what ctx id : Nat) : Nat := 2 ^ 63 + what * 2 ^ 48 + ctx * 2 ^ 32 + id

/-- Sends mirrored data to a member. -/
def State.sendMirror (s : State) (i peer what ctx id : Nat) (bs : List Byte) : State :=
  match (s.inst i).image.members[peer]? with
  | some m => s.sendMember m { typ := 0x08, vc := 2, dst := peer, src := s.memberIdx i, arg := mirrorArg what ctx id, payload := bs }
  | none => s

/-- What a mirror carries of a sequence: pool, capacity, last released token and state, then its entries in the format of
R228; nothing of one that is closed. -/
def State.mirrorSeq (s : State) (q : Nat) : List Byte :=
  let e := s.seq q
  if e.state = .closed then []
  else leBytes e.pool 4 ++ leBytes e.cap 4 ++ leBytes (e.lastTok.getD (2 ^ 32 - 1)) 4 ++ leBytes (if e.state = .frozen then 1 else 0) 4
    ++ s.exportBytes q

/-- A MIRROR event of a standby's board sends it the inputs of the steps admitted in this schedule ring, the commit lists
since the last, and the sequences of which entries were committed since or which closed. A reserve receives none (R77). -/
def State.mirrorTo (s : State) (i peer : Nat) : State :=
  let x := s.inst i
  if ((x.image.members[peer]?).map (·.role)) ≠ some 1 then s
  else
  let parts := maskParts x.image.groupMask
  let steps := parts.flatMap fun p => (s.stepsOf p).filter fun r => r.ring = x.schedAt s.now
  let s := steps.foldl (fun s r => s.sendMirror i peer 0 r.ctx r.id r.mirror) s
  let s := (x.commits.filter fun e => e.1 = peer).foldl (fun s e => s.sendMirror i peer 1 e.2.1 e.2.2.1 e.2.2.2) s
  let s := s.modInst i fun x => { x with commits := x.commits.filter fun e => e.1 ≠ peer }
  let sent := fun (s : State) (q : Nat) => if (s.seq q).state = .closed then 0 else (s.seq q).len
  let known := x.sentLen.map fun (e : Nat × Nat) => e.1 % 2 ^ 18
  let qs := ((s.seqs.map Prod.fst) ++ known).dedup.filter fun q =>
    seqPart q ∈ parts ∧ sent s q ≠ x.sentLen.get 0 (peer * 2 ^ 18 + q)
  qs.foldl (fun s q =>
    (s.sendMirror i peer 2 (s.seq q).ctx q (s.mirrorSeq q)).modInst i fun x =>
      { x with sentLen := x.sentLen.set 0 (peer * 2 ^ 18 + q) (sent s q) }) s

/-- XDEV_EVENT (R66, R75). -/
def execXdevEvent (i : PartId) (event : Fin 4096) (s : State) : Host.Outcome State Fault Refusal :=
  .next (
    match (s.inst i).image.xdevs[event.val]? with
    | some e => if e.kind = xdevMirror then s.atEvent i evXdev event e.ofs 5 fun s => s.mirrorTo i e.peer else s
    | none => s)

/-- Mirrored data of member `m` arrives at a standby: inputs are kept until their commit list comes; entries go into the
standby's own copy of that member's sequence. -/
def State.takeMirror (s : State) (i m arg : Nat) (bs : List Byte) : State :=
  let ctx := arg / 2 ^ 32 % 2 ^ 16
  let id := arg % 2 ^ 32
  if s.roleOf i ≠ 1 then s
  else match arg / 2 ^ 48 % 4 with
  | 0 => s.modInst i fun x => { x with mirrors := (x.mirrors.filter fun e => !(decide (e.1 = m) && decide (e.2.1 = ctx)
      && decide (e.2.2.1 = id))) ++ [(m, ctx, id, bs)] }
  | 1 => s.modInst i fun x => { x with mirrors := x.mirrors.filter fun e => !(decide (e.1 = m) && decide (e.2.1 = ctx)
      && decide (e.2.2.1 = id)) }
  | _ => s.modInst i fun x => { x with copies := (x.copies.filter fun e => !(decide (e.1 = m) && decide (e.2.2.1 = id)))
      ++ if bs = [] then [] else [(m, ctx, id, bs)] }

/-- A standby that takes a role over serves that member's sequence from its copy: the handle opens here in the pool of the
same handle, where this device has that pool and the handle is closed. -/
def State.adoptSeq (s : State) (ctx q : Nat) (bs : List Byte) : State :=
  let at' := fun ofs => leNat ((bs.drop ofs).take 4)
  let pages := bs.drop 16
  let kvl := leNat ((pages.drop 8).take 8)
  let ok : Bool := match s.findObj (at' 0) with | some o => decide (o.kind = 2) && decide (kvEB (s.poolKvl (at' 0)) = kvEB kvl) | none => false
  if (s.seq q).state ≠ .closed ∨ !ok then s
  else
    let e : SeqEnt := { state := if at' 12 = 1 then .frozen else .opened, ctx := ctx, pool := at' 0, kvl := kvl, cap := at' 4
                        lastTok := if at' 8 = 2 ^ 32 - 1 then none else some (at' 8) }
    (((s.setSeq q e).takeTable q).freshPages q (leNat ((pages.drop 4).take 4))).landPages q pages

/-! ### Slots (R64, R66) -/

/-- A sub-slot of slot `j` opened: transfers that WIN_TBL held in it may begin, and what waited behind them (R64, R108). -/
def State.winTurns (s : State) (i j : Nat) : State :=
  (((s.inst i).image.wins.filter fun e => e.slot = j ∧ e.srcMember = s.memberIdx i).map (·.srcLcid)).dedup.foldl State.noteTurns s

/-- SLOT_OPEN: the slot opens with its sub-slot 0. -/
def execSlotOpen (i : PartId) (slot : Fin 256) (s : State) : Host.Outcome State Fault Refusal :=
  .next (
    match (s.inst i).image.slots[slot.val]? with
    | some e => s.atEvent i evSlot slot e.f 6 fun s =>
      (s.modInst i fun x => { x with openSlots := x.openSlots.insert slot 0 }).winTurns i slot
    | none => s)

/-- Offset at which sub-slot `k` of a slot is to open. -/
def Image.subOfs (im : Image) (e : SlotEnt) (k : Nat) : Nat := e.f + ((im.subs.drop e.subFirst).take k).sum

/-- A transfer of sub-slot `k` of slot `j` is not acknowledged (R64). -/
def State.subBusy (s : State) (i j k : Nat) : Bool :=
  ((s.inst i).image.participants j).any fun (c, t) =>
    (s.core c).ops.any fun o => decide (o.t = t) && isMove o.op && decide (s.opSub c o = some (j * 16 + k))

/-- SUBSLOT_OPEN (R64): at its tick, or when every transfer of the sub-slot before is acknowledged, whichever is later. -/
def execSubslotOpen (i : PartId) (slot : Fin 256) (sub : Fin 16) (s : State) : Host.Outcome State Fault Refusal :=
  .next (
    let x := s.inst i
    match x.image.slots[slot.val]?, x.openSlots.find slot with
    | some e, some k =>
      if s.executing i ∧ sub.val = k + 1 ∧ sub.val < e.subCnt ∧ x.passed s.now (x.image.subOfs e sub) ∧ !s.subBusy i slot k
          ∧ s.turn i 6 0 then
        (s.modInst i fun x => { x with openSlots := x.openSlots.insert slot sub }).winTurns i slot
      else s
    | _, _ => s)

/-! ### Start, stop, takeover (R60, R61, R76, R81, R82) -/

/-- The first boundary after start tick `e` at least one lead time ahead (R59), in a ring of period `p` with lead `l`. -/
def State.refuseBoundary (s : State) (e p l : Nat) : Nat := e + max 1 ((s.now + l - e + p - 1) / p) * p

/-- Entry into RUNNING sets a core's cells undefined, empty and unclaimed and its Lattice and out-path slots to their
defaults (R125, R147, R184, R198). -/
def State.freshCore (s : State) (c : Nat) : State :=
  (s.modCore c fun k => { k with cells := [], lcfg := [], oslots := [] }).setFld PRT_OUT_STATUS.SLOT_VALID c 0xFF

/-- The trail enters RUNNING: its cores are made ready, and the thread slots of the image start at their entry indices
(R82). -/
def State.startThreads (s : State) (i : Nat) : State :=
  let cores := (maskParts (s.inst i).image.groupMask).flatMap fun p => List.range' (p * 32) 32
  let s := cores.foldl State.freshCore s
  (s.inst i).image.cores.foldl (fun s e =>
    let s := s.modCore e.lcid fun k => { k with bset := [] }
    ((List.range 8).filter (maskBit e.mask)).foldl (fun s t =>
      s.modThr e.lcid t fun x => { x.clearRegs with state := .running, pc := x.entry, wait := .none, trapSlot := none }) s) s

/-- TRAIL_RUN (R60): at its start tick the member checks the time bit again and enters RUNNING or STANDBY; a reserve stays
ARMED; each reads STOPPING where a stop is announced (R61). A member whose time bit is 0 enters STOPPED with cause 0x05
and, unless it is a reserve, announces that stop as one that refuses the start does (R59): DESIGN CHOICE (log 74), R60 does not
say what follows the check. The issuer completes TRAIL_START: RESULT the reserve members that did not arm. -/
def execTrailRun (i : PartId) (s : State) : Host.Outcome State Fault Refusal :=
  .next (
    let x := s.inst i
    if x.begun ∨ s.iState i ≠ iArmed ∨ x.startAt > s.now ∨ !s.opTurn i (x.startAt, x.startBy) then s
    else
      let s := s.modInst i fun x => { x with
        begun := true, origin := x.startAt, slips := 0, slipAt := none, resumed := none, consec := (0, 0), lastSlip := 0
        openSlots := [], fired := [], missed := [], commits := [], sentLen := [], mirrors := [], copies := [], startReq := none }
      let s := (s.setFld RSQ_TRL_RING.SLIPS i 0).setFld RSQ_TRL_RING.SCHED_RING i 0
      let bad := !s.timeOk x.image.scope
      let role := s.roleOf i
      let s :=
        if bad then
          let s := (s.setIState i iStopped).setFld RSQ_TRL_CNT.STOP_CAUSE i 5
          if role = 2 then s
          else
            let s := s.nextOp
            s.tellMembers i (.trailStop (BitVec.ofNat 64 x.image.trailId)
              (s.refuseBoundary x.startAt x.image.period (s.lead x.image.scope)) 5 (BitVec.ofNat 8 s.sdid) s.opSeq)
        else
          let s := match x.stopAt with
            | some e => (s.setIState i iStopping).setReg .RSQ_TRL_TICKS i (BitVec.ofNat 64 e.1)
            | none => if role = 0 then s.setIState i iRunning else if role = 1 then s.setIState i iStandby else s
          if role = 0 then (s.startThreads i).startStaging i else s
      let s := if bad then s else s.eventGroup x.image.groupMask 0x2 i (leBytes x.startAt 8)
      match x.startReq with
      | none => s
      | some l =>
        let reserves := (x.image.members.mapIdx fun j m => (j, m)).filter fun e =>
          e.2.role = 2 ∧ e.1 ∉ x.armed ∧ (e.1 ≠ s.memberIdx i ∨ bad)
        if (bad ∧ role ≠ 2) ∨ (x.stopAt.map Prod.snd) = some 5 then s.completeLater l 0x28 0 0
        else s.completeLater l 0 (x.armed.length + 1) reserves.length)

/-- Operations on which no work has begun are discarded, those on the array or in the drain unit too; the rest completes
(R113). A transfer that waits for its landing cell has not started. -/
def Core.discardOps (k : Core) : Core :=
  { k with ops := k.ops.filter fun o => o.started || decide (o.done > 0) || o.sent || o.remote, lq := []
           arr := k.arr.filter fun r => r.running || r.op.started
           drn := k.drn.filter fun r => r.running || r.op.started }

/-- Every thread slot of the image halts, a trapped one too; its exception record stays (R113). -/
def State.haltThreads (s : State) (i : Nat) : State :=
  (s.inst i).image.cores.foldl (fun s e =>
    let s := (s.modCore e.lcid Core.discardOps).clearIfQuiet e.lcid
    ((List.range 8).filter (maskBit e.mask)).foldl (fun s t =>
      s.modThr e.lcid t fun x => { x with state := .halted, wait := .none, trapSlot := none }) s) s

/-- The trail of instance `i` stops with a cause (R61). -/
def State.stopTrail (s : State) (i cause : Nat) : State :=
  let x := s.inst i
  let parts := maskParts x.image.groupMask
  let s := parts.foldl (fun s p => s.endSteps p 0x0C false) s
  let s := s.haltThreads i
  let s := s.endStreams i
  let s := s.setIState i iStopped
  let s := s.setFld RSQ_TRL_CNT.STOP_CAUSE i cause
  let s := s.setReg .RSQ_TRL_TICKS i (BitVec.ofNat 64 s.now)
  let s := s.modInst i fun x => { x with
    stopAt := none, slipAt := none, resumed := none, openSlots := [], startReq := none, stopReqs := [], takeoverAt := none }
  let s := match x.startReq with | some l => s.completeLater l 0x28 0 0 | none => s
  let s := x.stopReqs.foldl (fun s l => s.completeLater l 0 0 0) s
  let s := s.eventGroup x.image.groupMask 0x3 i (leBytes cause 1)
  let s := s.boundaryObjects x.image.groupMask
  parts.foldl (fun s p => (s.applyCloses p).exportsOf p) s

/-- STOP_BOUNDARY (R61). -/
def execStopBoundary (i : PartId) (s : State) : Host.Outcome State Fault Refusal :=
  .next (
    match (s.inst i).stopAt with
    | some (e, cause) =>
      if e ≤ s.now ∧ s.trailActive i ∧ s.opTurn i (e, (s.inst i).stopBy) then s.stopTrail i cause else s
    | none => s)

/-- The role of member `m` passes to the standby of an SDID: its entry in the table names that device from now on. -/
def Inst.handOver (x : Inst) (m sdid : Nat) : Inst :=
  match x.image.members.find? fun e => e.sdid = sdid with
  | none => { x with takeoverAt := none }
  | some d =>
    let old := x.image.members.idxOf d
    { x with image := { x.image with members := listSet x.image.members m { d with role := 0 } }
             retired := old :: x.retired.filter (· ≠ m), missed := x.missed.set 0 m 0, takeoverAt := none }

/-- TAKEOVER (R76): the standby takes the member index, enters RUNNING and replays the mirrored steps that have not
committed; completions of contexts not bound here are held. -/
def execTakeover (i : PartId) (s : State) : Host.Outcome State Fault Refusal :=
  .next (
    let x := s.inst i
    match x.takeoverAt with
    | none => s
    | some (e, m, sdid) =>
      if e > s.now ∨ !s.trailActive i ∨ !s.opTurn i (e, x.takeoverBy) then s
      else
        let s := s.modInst i fun x => x.handOver m sdid
        if sdid ≠ s.sdid ∨ (s.iState i ≠ iStandby ∧ s.iState i ≠ iStopping) then s
        else
          let steps := (x.mirrors.filter fun q => q.1 = m).map fun q => StepRec.ofMirror q.2.2.2
          let s := s.setFld RSQ_TRL_STATUS.MEMBER_INDEX i m
          let s := s.setIState i (if x.stopAt.isSome then iStopping else iRunning)
          let s := s.modInst i fun x => { x with mirrors := x.mirrors.filter (fun q => q.1 ≠ m), copies := x.copies.filter fun q => q.1 ≠ m }
          let s := (x.copies.filter fun q => q.1 = m).foldl (fun s q => s.adoptSeq q.2.1 q.2.2.1 q.2.2.2) s
          let s := steps.foldl (fun s r =>
            let p := ctxPart r.ctx
            let s := if s.cState r.ctx = cBound then s else s.modCtx r.ctx fun c => { c with adopting := true }
            { s with replays := s.replays.set [] p (s.replays.get [] p ++ [r]) }) s
          (s.startThreads i).startStaging i)

end Sys2Proof.Machine
end

