-- ==== Sys2Proof/Machine/TrailLoad.lean ====
section
/-! DEFINITION. Trail images: their sections, the checks of TRAIL_LOAD, and the start and stop requests (R46, R51, R56 to
R61, R80, R279, R343, R376). -/

namespace Sys2Proof.Machine

/-! ### Reading an image (R56, R57) -/

/-- Byte field of a list of bytes. -/
def fieldAt (bs : List Byte) (ofs n : Nat) : Nat := leNat ((bs.drop ofs).take n)

/-- Bytes `ofs` to `ofs + n - 1` are 0. -/
def zeroAt (bs : List Byte) (ofs n : Nat) : Bool := fieldAt bs ofs n = 0

/-- Entry bytes and limit of each section, in the order of the section table. -/
def sectionTable : List (Nat × Nat) :=
  [(32, 512), (4, 65536), (16, 256), (4, 4096), (16, 4096), (32, 16384), (32, 65536), (16, 4096), (8, 256)]

/-- Offset and entry count of section `k`. -/
def secDir (im : List Byte) (k : Nat) : Nat × Nat := (fieldAt im (0x40 + 8 * k) 4, fieldAt im (0x44 + 8 * k) 4)

/-- Entries of section `k`. -/
def secEntries (im : List Byte) (k : Nat) : List (List Byte) :=
  let (ofs, n) := secDir im k
  let size := (sectionTable.getD k (0, 0)).1
  (List.range n).map fun j => (im.drop (ofs + size * j)).take size

def readCore (im e : List Byte) : CoreEnt :=
  { lcid := fieldAt e 0 2 % 512, mask := fieldAt e 2 1, entries := (List.range 8).map fun t => fieldAt e (12 + 2 * t) 2
    code := (im.drop (fieldAt e 4 4)).take (fieldAt e 8 4) }
def readPart (e : List Byte) : PartEnt := { lcid := fieldAt e 0 2 % 512, mask := fieldAt e 2 1 }
def readSlot (e : List Byte) : SlotEnt :=
  { f := fieldAt e 0 4, len := fieldAt e 4 4, first := fieldAt e 8 3, cnt := fieldAt e 11 2, subFirst := fieldAt e 13 2 % 4096
    subCnt := fieldAt e 15 1 }
def readGate (e : List Byte) : GateEnt := { ofs := fieldAt e 0 4, kind := fieldAt e 4 1, arg := fieldAt e 8 8 }
def readWin (e : List Byte) : WinEnt :=
  { trunk := decide (fieldAt e 0 1 % 2 = 1), win := fieldAt e 1 1, lcid := fieldAt e 2 2 % 512, member := fieldAt e 4 1
    base := fieldAt e 8 8, bound := fieldAt e 16 8, srcLcid := fieldAt e 24 2 % 512, srcMember := fieldAt e 26 1
    slot := fieldAt e 27 1, sub := fieldAt e 28 1 }
def readStream (e : List Byte) : StreamEnt :=
  { layer := fieldAt e 0 2, expert := decide (fieldAt e 2 1 % 4 = 1), root := decide (fieldAt e 2 1 / 4 % 2 = 1)
    d := fieldAt e 3 1, obj := fieldAt e 4 4, ofs := fieldAt e 8 5, slot := fieldAt e 0xD 1, cell0 := fieldAt e 0xE 2 % 2048
    ncell := fieldAt e 0xE 2 / 2048 + 1, dst := fieldAt e 0x10 2 % 512, bktB := fieldAt e 0x12 2 % 8192
    len := fieldAt e 0x14 4, stride := fieldAt e 0x18 4, bktLcid := fieldAt e 0x1C 4 % 512, bktCell := fieldAt e 0x1C 4 / 512 % 2048 }
def readXdev (e : List Byte) : XdevEnt :=
  { ofs := fieldAt e 0 4, kind := fieldAt e 4 1, peer := fieldAt e 5 1, sub := fieldAt e 6 1, arg := fieldAt e 8 8 }
def readMember (e : List Byte) : Member :=
  { sdid := fieldAt e 0 1, bdid := fieldAt e 1 1 % 8, role := fieldAt e 2 1, board := fieldAt e 3 1, mask := fieldAt e 4 2 }

/-- The image that bytes hold. -/
def readImage (im : List Byte) : Image :=
  { origin := fieldAt im 0x10 8, period := fieldAt im 0x18 4, groupMask := fieldAt im 0x1C 2, scope := fieldAt im 0x1E 1
    stepSlots := fieldAt im 0x20 2, stepRows := fieldAt im 0x22 2, slipLimit := fieldAt im 0x24 1, resNeed := fieldAt im 0x28 8
    trailId := fieldAt im 0x30 8, digest := BitVec.ofNat 384 (beNat ((im.drop 0x90).take 48))
    cores := (secEntries im 0).map (readCore im), parts := (secEntries im 1).map readPart
    slots := (secEntries im 2).map readSlot, subs := (secEntries im 3).map leNat
    gates := (secEntries im 4).map readGate, wins := (secEntries im 5).map readWin
    streams := (secEntries im 6).map readStream, xdevs := (secEntries im 7).map readXdev
    members := (secEntries im 8).map readMember }

/-! ### The checks of R58 -/

/-- The ABI version is accepted (R80). -/
def State.abiOk (s : State) (major minor : Nat) : Bool :=
  maskBit (s.fld RSQ_CAP.MAJOR_MAP 0) major && decide (major < 16)
    && (decide (major ≠ s.fld RSQ_CAP.CUR_MAJOR 0) || decide (minor ≤ s.fld RSQ_CAP.MINOR_MAX 0))

/-- No two of the header and the non-empty sections overlap, and each lies in the image at a multiple of 64. -/
def sectionsOk (im : List Byte) : Bool :=
  let secs := ((List.range 9).map fun k => ((secDir im k).1, (secDir im k).2 * (sectionTable.getD k (0, 0)).1)).filter
    fun e => e.2 ≠ 0
  secs.all (fun e => decide (e.1 % 64 = 0) && decide (e.1 + e.2 ≤ im.length))
    && decide (((0, 256) :: secs).Pairwise fun a b => a.1 + a.2 ≤ b.1 ∨ b.1 + b.2 ≤ a.1)

/-- Every reserved field of the sections is 0. -/
def reservedOk (im : List Byte) : Bool :=
  (secEntries im 0).all (fun e => decide (fieldAt e 0 2 < 512) && zeroAt e 3 1 && zeroAt e 28 4)
    && (secEntries im 1).all (fun e => decide (fieldAt e 0 2 < 512) && zeroAt e 3 1)
    && (secEntries im 2).all (fun e => decide (fieldAt e 13 2 < 4096))
    && (secEntries im 4).all (fun e => zeroAt e 5 3)
    && (secEntries im 5).all (fun e => decide (fieldAt e 0 1 < 2) && decide (fieldAt e 2 2 < 512) && zeroAt e 5 3
        && decide (fieldAt e 24 2 < 512) && zeroAt e 29 3)
    && (secEntries im 7).all (fun e => zeroAt e 7 1)
    && (secEntries im 8).all (fun e => decide (fieldAt e 1 1 < 8) && zeroAt e 6 2)

/-- Check 2: the image is whole and well formed. -/
def State.loadCheck2 (s : State) (im : List Byte) (bytes : Nat) : Bool :=
  decide (256 ≤ im.length) && decide (fieldAt im 0 4 = 0x4C494154) && s.abiOk (fieldAt im 6 2) (fieldAt im 4 2)
    && decide (fieldAt im 8 8 = bytes) && decide (bytes % 64 = 0)
    && (List.range 9).all (fun k => decide ((secDir im k).2 ≤ (sectionTable.getD k (0, 0)).2)) && sectionsOk im
    && decide (sha384 (im.take 0x90 ++ List.replicate 48 0 ++ im.drop 0xC0) = (readImage im).digest)
    && zeroAt im 0x25 3 && zeroAt im 0x38 8 && zeroAt im 0x88 8 && zeroAt im 0xC0 64 && reservedOk im
    && decide (fieldAt im 0x1E 1 ≤ 2) && decide (100 ≤ fieldAt im 0x18 4) && decide (fieldAt im 0x18 4 ≤ 16777215)
    && decide (1 ≤ fieldAt im 0x20 2) && decide (fieldAt im 0x20 2 ≤ 64) && decide (1 ≤ fieldAt im 0x22 2)
    && decide (fieldAt im 0x22 2 ≤ 4096)
    && (secEntries im 0).all (fun e => decide (fieldAt e 8 4 ≤ 131072) && decide (fieldAt e 4 4 + fieldAt e 8 4 ≤ im.length))

/-- Boards all of whose entries carry role reserve. -/
def Image.reserveBoards (im : Image) : List Nat :=
  (im.members.map (·.board)).dedup.filter fun b => im.members.all fun m => m.board ≠ b ∨ m.role = 2

/-- Check 3: the group and the members agree. -/
def State.loadCheck3 (s : State) (im : Image) (membersM1 mask : Nat) : Bool :=
  let own := im.members.filter fun m => m.sdid = s.sdid
  decide (im.groupMask = mask) && im.lcids.all (fun c => maskBit mask (partOf c))
    && decide (im.members.length = membersM1 + 1) && im.members.all (fun m => decide (m.mask = mask) && decide (m.role ≤ 2))
    && (decide (im.scope ≠ 1) || decide ((im.members.map (·.board)).dedup.length = 1))
    && (if im.scope = 0 then decide (im.members.map (·.role) = [0])
        else decide (im.members.map (·.sdid)).Nodup
          && decide (own.map (fun m => (m.bdid, m.board)) = [(s.fld ZXL_BOARD.BDID 0, s.fld ZXL_BOARD.BOARD_ID 0)])
          && (im.members.map (·.board)).dedup.all (fun b =>
              decide ((im.members.filter fun m => m.board = b ∧ m.role = 1).length ≤ 1))
          && decide (im.reserveBoards.length ≤ (im.members.map (·.board)).dedup.length / 5))

/-- A STREAM_TBL entry carries no reserved value and names cores of the group (R279). -/
def streamOk (im : Image) (mask : Nat) (e : List Byte) : Bool :=
  let x := readStream e
  let kind := fieldAt e 2 1 % 4
  decide (kind ≤ 1) && decide (fieldAt e 2 1 < 8) && decide (x.d ≤ 15) && (decide (x.d = 0) || (!x.expert && x.root))
    && decide (fieldAt e 0x10 2 < 512) && decide (fieldAt e 0x12 2 < 8192) && decide (fieldAt e 0x1C 4 < 2 ^ 20)
    && decide (64 ≤ x.len) && decide (x.len % 64 = 0) && decide (x.slot < im.slots.length)
    && (if x.expert then decide (x.stride % 65536 = 0) else zeroAt e 0x12 2 && zeroAt e 0x18 8)
    && maskBit mask (partOf x.dst) && (!x.expert || (maskBit mask (partOf x.bktLcid) && decide (partOf x.bktLcid = partOf x.dst)))

/-- A slot's number of sub-slots, one where its count is 0. -/
def SlotEnt.subs (e : SlotEnt) : Nat := max 1 e.subCnt

/-- Check 5: the slots, and every reference between sections. -/
def State.loadCheck5 (s : State) (im : Image) (mask : Nat) (streams : List (List Byte)) : Bool :=
  let l := s.lead im.scope
  im.slots.all (fun e => decide (1 ≤ e.len) && decide (e.f + e.len + l ≤ im.period)
      && decide (e.first + e.cnt ≤ im.parts.length) && decide (e.subCnt ≤ 16)
      && (decide (e.subCnt = 0) || (decide (e.subFirst + e.subCnt ≤ im.subs.length)
            && decide (((im.subs.drop e.subFirst).take e.subCnt).sum = e.len))))
    && im.gates.all (fun g => decide (g.ofs < im.period) && decide (1 ≤ g.kind) && decide (g.kind ≤ 3)
        && (decide (g.kind ≠ 1) || decide (g.arg < im.streams.length)))
    && im.xdevs.all (fun e => decide (e.ofs < im.period) && decide (e.kind = xdevMirror) && decide (e.peer < im.members.length))
    && im.wins.all (fun e =>
        (match im.slots[e.slot]? with | some x => decide (e.sub < x.subs) | none => false)
          && maskBit mask (partOf e.srcLcid) && decide (e.srcMember < im.members.length) && decide (e.member < im.members.length)
          && (e.trunk || decide (e.win < 8)))
    && streams.all (streamOk im mask)

/-- Two WIN_TBL entries name one target in one sub-slot with different sources (check 6). -/
def winClash (a b : WinEnt) : Bool :=
  decide (a.slot = b.slot) && decide (a.sub = b.sub) && decide (a.member = b.member) && decide (a.trunk = b.trunk)
    && (if a.trunk then decide (a.base < b.base + b.bound) && decide (b.base < a.base + a.bound)
        else decide (a.lcid = b.lcid) && decide (a.win = b.win))
    && !(decide (a.srcLcid = b.srcLcid) && decide (a.srcMember = b.srcMember))

/-- Check 7: a thread slot is in at most one participant list of a slot, and slots that share one do not overlap. -/
def Image.check7 (im : Image) : Bool :=
  (List.range im.slots.length).all fun j =>
    decide (im.participants j).Nodup && (List.range j).all fun k =>
      match im.slots[j]?, im.slots[k]? with
      | some a, some b => decide (a.f + a.len ≤ b.f) || decide (b.f + b.len ≤ a.f)
          || !(im.participants j).any fun e => (im.participants k).contains e
      | _, _ => true

/-- The number of the first check of R58 that fails, 0 for none. -/
def State.loadCheck (s : State) (i mask : Nat) (im : List Byte) (bytes : Nat) : Nat :=
  let x := readImage im
  if s.iState i ∉ [iEmpty, iLoaded, iStopped] then 1
  else if !s.loadCheck2 im bytes then 2
  else if !s.loadCheck3 x (fieldAt im 0x1F 1) mask then 3
  else if !s.covers x then 4
  else if !s.loadCheck5 x mask (secEntries im 6) then 5
  else if !decide (x.wins.Pairwise fun a b => winClash a b = false) then 6
  else if !x.check7 then 7
  else 0

/-! ### Loading (R58, R81) -/

/-- Places a core's image and its entry indices, and gives its thread slots the whole image and Canopy (R81, R89). -/
def State.placeCore (s : State) (e : CoreEnt) : State :=
  let words := (List.range (e.code.length / 8)).map fun j => BitVec.ofNat 64 (leNat ((e.code.drop (8 * j)).take 8))
  let s := s.modCore e.lcid fun k => { k with
    imarks := []
    istore := (words.mapIdx fun j w => (j, w)).foldl (fun (m : SMap Word) (q : Nat × Word) => m.set 0 q.1 q.2) [] }
  (List.range 8).foldl (fun s t => s.modThr e.lcid t fun x =>
    { x with entry := e.entries.getD t 0, ibase := 0, ibound := words.length
             cbase := 0, cbound := 2097152 }) s

/-- An image that passed the checks is loaded into instance `i` for owner context `x`. -/
def State.loadImage (s : State) (i x : Nat) (im : Image) : State :=
  let cores := (maskParts im.groupMask).flatMap fun p => (List.range 32).map fun j => p * 32 + j
  let s := cores.foldl (fun s c => (List.range 8).foldl (fun s t => s.modThr c t fun y =>
    { y with state := .inactive, wait := .none, trapSlot := none, trapCnt := 0 }) s) s
  let s := im.cores.foldl State.placeCore s
  let s := s.setInst i { image := im, owner := x }
  let me := if im.scope = 0 then 0 else (im.members.findIdx? fun m => m.sdid = s.sdid).getD 0
  let s := [RegId.RSQ_TRL_RING, .RSQ_TRL_SLIP, .RSQ_TRL_CNT, .RSQ_TRL_TICKS].foldl (fun s r => s.setReg r i 0) s
  let s := s.setFld RSQ_TRL_STATUS.TRAIL_ID_LO i (im.trailId % 2 ^ 32)
  let s := s.setFld RSQ_TRL_STATUS.GROUP_MASK i im.groupMask
  (s.setFld RSQ_TRL_STATUS.MEMBER_INDEX i me).setIState i iLoaded

/-- The trail's owner still lives and is another context (R343). -/
def State.notOwner (s : State) (i x : Nat) : Bool :=
  decide (s.iState i ≠ iEmpty) && decide ((s.inst i).owner ≠ x) && s.cLive (s.inst i).owner

/-- TRAIL_LOAD (R58, R376). -/
def execTrailLoad (r : RingId) (s : State) : Host.Outcome State Fault Refusal :=
  .next (s.descr r (fun d => d.opcode = 0x09) fun x d s =>
    let p := ctxPart x
    let i := s.instOf p
    if !d.clean 1 [(8, 8), (16, 8), (24, 1)] ∨ d.le 24 1 > 1 ∨ d.le 8 8 % 64 ≠ 0 then s.finish x d 0x01
    else if !s.inGroup p then s.finish x d 0x27
    else if s.notOwner i x then s.finish x d 0x04
    else
      match s.readSpace x (maskBit (d.le 24 1) 0) (d.le 8 8) (d.le 16 8) with
      | none => s.finish x d 0x01
      | some im =>
        match s.loadCheck i (s.groupMask p) im (d.le 16 8) with
        | 0 => (s.loadImage i x (readImage im)).finish x d 0
        | 4 =>
          -- a trail that names an absent LCID: a re-plan is requested (R13) by a PLAN record
          let s := match (readImage im).lcids.find? (· ∈ s.absent) with
            | some c => s.raise { schedEvt i 0xD c with value := s.memberIdx i }
            | none => s
          s.finish x d 0x23
        | n => s.finish x d (0x1F + n))

/-! ### Start and stop requests (R51, R59, R61) -/

/-- The instance passes the checks of R59. -/
def State.startOk (s : State) (i : Nat) (digest : BitVec 384) : Bool :=
  decide (s.iState i ∈ [iLoaded, iStopped]) && decide ((s.inst i).image.digest = digest) && s.timeOk (s.inst i).image.scope

/-- A peer of this span carries this device's SDID (R395). -/
def State.sdidConflict (s : State) : Bool :=
  s.fld ZXL_SPAN.VALID 0 = 1 && (List.range 8).any fun l =>
    decide (s.fld ZXL_LNK_STATUS.STATE l ∈ [lkActive, lkRetrain])
      && (match (s.link l).caps with
          | some c => decide (c.sdid.toNat = s.sdid) && decide (c.spanId.toNat = s.fld ZXL_SPAN.SPAN_ID 0)
          | none => false)

/-- The instance enters ARMED for start tick `e` of a start issued by `by_` (R59, R79). DESIGN CHOICE: rings count from the
start tick whatever RING_ORIGIN is (log 76), and STOP_CAUSE returns to 0 (log 77). -/
def State.arm (s : State) (i e : Nat) (by_ : Nat × Nat) (req : Option Later) : State :=
  let s := s.modInst i fun x => { x with
    startAt := e, origin := e, startBy := by_, startReq := req, stopAt := none, slipAt := none, begun := false, armed := []
    refused := [], retired := [], takeoverAt := none }
  ((s.setIState i iArmed).setFld RSQ_TRL_CNT.STOP_CAUSE i 0).setReg .RSQ_TRL_TICKS i (BitVec.ofNat 64 e)

/-- A tick is a ring boundary of an instance's ring; every tick is before a start whose origin is open. -/
def Inst.ringTick (x : Inst) (e : Nat) : Bool :=
  decide (x.image.origin = 0) || (decide (x.image.origin ≤ e) && decide ((e - x.image.origin) % x.image.period = 0))

/-- The descriptor's opcode and body are those of TRAIL_START. -/
def Desc.isStart (d : Desc) (stop : Bool) : Bool := decide (d.opcode = 0x0A) && decide (maskBit d.flags 1 = stop)

/-- What TRAIL_START and its stop share: checks of the body, the group, the image and the owner. -/
def State.startCheck (s : State) (x : Nat) (d : Desc) : Nat :=
  let p := ctxPart x
  let i := s.instOf p
  if !d.clean 3 [(8, 8), (16, 48)] then 0x01
  else if !s.inGroup p then 0x27
  else if s.iState i = iEmpty then 0x03
  else if (s.inst i).owner ≠ x then 0x04
  else if d.le 8 8 < s.now + s.lead (s.inst i).image.scope then 0x0F
  else 0

/-- TRAIL_START (R59). A device that refuses its own start sends none. -/
def execTrailStart (r : RingId) (s : State) : Host.Outcome State Fault Refusal :=
  .next (s.descr r (fun d => d.isStart false) fun x d s =>
    let i := s.instOf (ctxPart x)
    let e := d.le 8 8
    let digest := BitVec.ofNat 384 (beNat ((d.bytes.drop 16).take 48))
    match s.startCheck x d with
    | 0 =>
      if !(s.inst i).ringTick e then s.finish x d 0x01
      else if (s.inst i).image.scope ≠ 0 ∧ s.sdidConflict then (s.inc ZXL_CNT.SDID_CONFLICT 0).finish x d 0x28
      else if !s.startOk i digest then s.finish x d 0x28
      else
        let s := s.nextOp
        let im := (s.inst i).image
        (s.arm i e (s.sdid, s.opSeq) (some (d.later x))).tellMembers i
          (.trailStart digest e (BitVec.ofNat 8 (s.fld VF_CTX_STATUS.EPOCH x)) (BitVec.ofNat 8 s.sdid) s.opSeq
            (BitVec.ofNat 64 im.trailId) im.scope im.period (im.members.map fun m => ⟨m.sdid, m.bdid, m.board, m.role⟩))
    | st => s.finish x d st)

/-- TRAIL_STOP: TRAIL_START with STOP set (R61). It completes at the stop boundary. -/
def execTrailStop (r : RingId) (s : State) : Host.Outcome State Fault Refusal :=
  .next (s.descr r (fun d => d.isStart true) fun x d s =>
    let i := s.instOf (ctxPart x)
    let e := d.le 8 8
    match s.startCheck x d with
    | 0 =>
      if !s.trailActive i then s.finish x d 0x03
      else if !(s.inst i).isBoundary e then s.finish x d 0x01
      else (s.modInst i fun y => { y with stopReqs := y.stopReqs ++ [d.later x] }).announceStopAt i e 1
    | st => s.finish x d st)

end Sys2Proof.Machine
end

