-- ==== Sys2Proof/Machine/SeqDescr.lean ====
section
/-! DEFINITION. Descriptors of steps and sequences (R203, R204, R211, R229, R230, R372, R374, R375), and the end of a tag
wait by its limit (R130). -/

namespace Sys2Proof.Machine

/-! ### STEP and ADAPTER_STEP -/

/-- A step arrives and waits for admission, in ring order (R65). -/
def State.submit (s : State) (x : Nat) (d : Desc) (adapter : Bool) : State :=
  let p := ctxPart x
  let r : StepRec :=
    { id := d.pos, ctx := x, tag := d.tag, adapter := adapter, notify := d.notify, nseq := d.le 8 2, recAddr := d.le 0x10 8
      resAddr := d.le 0x18 8, aspace := d.le 0x20 1, argAddr := d.le 0x28 8, argBytes := d.le 0x30 4, arrived := d.arrived }
  { s with waiting := s.waiting.set [] p (s.waiting.get [] p ++ [r]) }

/-- NSEQ and the record address are allowed (R371, R372). -/
def Desc.stepOk (d : Desc) : Bool :=
  decide (1 ≤ d.le 8 2) && decide (d.le 8 2 ≤ 4096) && decide (d.le 0x10 8 % 64 = 0) && decide (d.le 0x18 8 % 64 = 0)

/-- STEP (R372). -/
def execStep (r : RingId) (s : State) : Host.Outcome State Fault Refusal :=
  .next (s.descr r (fun d => d.opcode = 0x01) fun x d s =>
    if d.clean 1 [(8, 2), (0x10, 8), (0x18, 8), (0x20, 1)] ∧ d.stepOk ∧ d.le 0x20 1 < 4 then s.submit x d false
    else s.finish x d 0x01)

/-- ADAPTER_STEP (R372, R374). -/
def execAdapterStep (r : RingId) (s : State) : Host.Outcome State Fault Refusal :=
  .next (s.descr r (fun d => d.opcode = 0x10) fun x d s =>
    if d.clean 1 [(8, 2), (0x10, 8), (0x20, 1), (0x28, 8), (0x30, 4)] ∧ d.stepOk ∧ d.le 0x20 1 < 8 ∧ maskBit (d.le 0x20 1) 2
        ∧ !maskBit (d.le 0x20 1) 1 ∧ d.le 0x28 8 % 64 = 0 ∧ 64 ≤ d.le 0x30 4 ∧ d.le 0x30 4 ≤ 65536 then
      s.submit x d true
    else s.finish x d 0x01)

/-! ### SEQ_OPEN and SEQ_CLOSE (R199, R203, R204, R211) -/

/-- The sequence a field of context `x`'s descriptor names, or the status of R375. -/
def State.ownSeq (s : State) (x v : Nat) : Except Nat Nat :=
  if v ≥ 2 ^ 18 then .error 0x01
  else if seqPart v ≠ ctxPart x then .error 0x04
  else if (s.seq v).state = .closed then .error 0x03
  else if (s.seq v).ctx ≠ x then .error 0x04
  else .ok v

/-- A free local index of a partition, any. -/
def State.newSeq (s : State) (p : Nat) : Option Nat × State :=
  let l := (List.range' (p * 16384) 16384).filter fun q => (s.seq q).state = .closed ∧ (s.seq q).exporting = []
  if l = [] then (none, s)
  else
    let (k, s) := s.draw
    (l[Config.freeChoice k % l.length]?, s)

/-- The pages below position `n` of a sequence: layer, page and slot. -/
def State.pagesBelow (s : State) (q n : Nat) : List (Nat × Nat × Nat) :=
  let e := s.seq q
  (List.range (kvLayers e.kvl)).flatMap fun l => (List.range ((n + 255) / 256)).filterMap fun k =>
    (s.pageOf e l k).map fun i => (l, k, i)

/-- The status of a SEQ_OPEN's request to share a prefix of a source, 0 for none against it (R204). -/
def State.shareCheck (s : State) (x pool kvl cap src n : Nat) : Nat :=
  match s.ownSeq x src with
  | .error e => e
  | .ok q =>
    let e := s.seq q
    if e.state = .importing then 0x03
    else if e.kvl ≠ kvl then 0x09
    else if e.pool ≠ pool ∨ kvRing kvl ∨ n > e.len ∨ n > cap then 0x01
    else if (s.pagesBelow q n).any fun t => (s.page pool t.2.2).ref ≥ 65535 then 0x0A
    else 0

/-- A new sequence shares the pages of a source below its prefix (R204). -/
def State.sharePrefix (s : State) (q src n : Nat) : State :=
  let l := s.pagesBelow src n
  let s := l.foldl (fun s (t : Nat × Nat × Nat) =>
    let e := s.seq q
    let d := s.page e.pool t.2.2
    (s.setPage e.pool t.2.2 { d with ref := d.ref + 1 }).tblSet e (e.tidx t.1 t.2.1) t.2.2) s
  s.modSeq q fun e => { e with len := n }

/-- SEQ_OPEN past its checks. -/
def State.openSeq (s : State) (x : Nat) (d : Desc) : State :=
  let new : SeqEnt := { state := .opened, ctx := x, pool := d.le 0x10 4, kvl := d.le 8 8, cap := d.le 0x14 4
                        maskOva := d.le 0x20 8, maskRows := d.le 0x28 1 }
  if (s.free new.pool).count < new.tblSlots then s.finish x d 0x05
  else
    match s.newSeq (ctxPart x) with
    | (none, s) => s.finish x d 0x05
    | (some q, s) =>
      let s := (s.setSeq q new).takeTable q
      let s := if maskBit (d.le 0x18 4) 31 then s.sharePrefix q (d.le 0x18 4 % 2 ^ 18) (d.le 0x1C 4) else s
      s.completeLater (d.later x) 0 0 q

/-- SEQ_OPEN (R199, R204, R213). -/
def execSeqOpen (r : RingId) (s : State) : Host.Outcome State Fault Refusal :=
  .next (s.descr r (fun d => d.opcode = 0x02) fun x d s =>
    let kvl := d.le 8 8
    let cap := d.le 0x14 4
    let src := d.le 0x18 4
    if !d.clean 1 [(8, 8), (0x10, 4), (0x14, 4), (0x18, 4), (0x1C, 4), (0x20, 8), (0x28, 1)] ∨ cap < 1 ∨ cap > 4194304
        ∨ d.le 0x28 1 ∉ [0, 1, 64] ∨ d.le 0x20 8 % 64 ≠ 0 ∨ src % 2 ^ 31 ≥ 2 ^ 18 then s.finish x d 0x01
    else
      match s.ownObj x (d.le 0x10 4) with
      | .error e => s.finish x d e
      | .ok o =>
        if o.kind ≠ 2 then s.finish x d 0x01
        else if !kvlOk kvl ∨ kvEB kvl ≠ kvEB o.kvl ∨ kvSB kvl ≠ kvSB o.kvl then s.finish x d 0x09
        else
          match if maskBit src 31 then s.shareCheck x o.handle kvl cap (src % 2 ^ 18) (d.le 0x1C 4) else 0 with
          | 0 => s.openSeq x d
          | st => s.finish x d st)

/-- SEQ_CLOSE (R211): at once where no step can be admitted, else at a boundary. -/
def execSeqClose (r : RingId) (s : State) : Host.Outcome State Fault Refusal :=
  .next (s.descr r (fun d => d.opcode = 0x03) fun x d s =>
    if !d.clean 1 [(8, 4)] then s.finish x d 0x01
    else
      match s.ownSeq x (d.le 8 4) with
      | .error e => s.finish x d e
      | .ok q =>
        if (s.seq q).closing.isSome then s.finish x d 0x03
        else
          let s := s.modSeq q fun e => { e with closing := some (d.later x) }
          if s.trailRunning (ctxPart x) then s else s.applyClose q)

/-! ### KV_IMPORT and KV_EXPORT (R228 to R230) -/

def Desc.xferOk (d : Desc) : Bool :=
  d.clean 1 [(8, 4), (0x10, 8), (0x18, 8), (0x20, 1)] && decide (d.le 0x10 8 % 64 = 0) && decide (d.le 0x20 1 < 2)

/-- The checks of R229 on the buffer of a KV_IMPORT: a status, or the transfer's bytes. -/
def State.importCheck (s : State) (x q : Nat) (d : Desc) : Except Nat (List Byte) :=
  let e := s.seq q
  let dev := maskBit (d.le 0x20 1) 0
  let size := d.le 0x18 8
  if size < 64 then .error 0x12
  else
    match s.readSpace x dev (d.le 0x10 8) 64 with
    | none => .error 0x01
    | some h =>
      let len := fieldAt h 4 4
      let k := fieldAt h 8 8
      let np := (len + 255) / 256
      let need := 64 + kvLayers k * np * xferStride k
      if fieldAt h 0 4 ≠ xferMagic ∨ len > 4194304 ∨ fieldAt h 0x10 8 ≠ xferStride k ∨ !zeroAt h 0x1C 36 ∨ size < need then
        .error 0x12
      else if k ≠ e.kvl then .error 0x09
      else if len > e.cap ∨ kvLayers k * np > (s.free e.pool).count then .error 0x05
      else
        match s.readSpace x dev (d.le 0x10 8) need with
        | none => .error 0x01
        | some bs => if crc32c (bs.drop 64) = fieldAt h 0x18 4 then .ok bs else .error 0x13

/-- A KV_IMPORT or KV_EXPORT is refused (R229, R231). -/
def State.rejectXfer (s : State) (x : Nat) (d : Desc) (st : Nat) : State := (s.inc PRT_KV_XFER.XFER_REJ (ctxPart x)).finish x d st

/-- KV_IMPORT (R229). An accepted import leaves the sequence without a last released token (R234). -/
def execKvImport (r : RingId) (s : State) : Host.Outcome State Fault Refusal :=
  .next (s.descr r (fun d => d.opcode = 0x04) fun x d s =>
    if !d.xferOk then s.rejectXfer x d 0x01
    else
      match s.ownSeq x (d.le 8 4) with
      | .error e => s.rejectXfer x d e
      | .ok q =>
        if (s.seq q).state ≠ .opened ∨ (s.seq q).len ≠ 0 ∨ s.seqBusy q then s.rejectXfer x d 0x03
        else
          match s.importCheck x q d with
          | .error st => s.rejectXfer x d st
          | .ok bs =>
            let s := s.modSeq q fun e => { e with lastTok := none }
            if fieldAt bs 4 4 = 0 then (s.inc PRT_KV_XFER.IMPORTS (ctxPart x)).completeLater (d.later x) 0 0 64
            else
              let s := s.freshPages q (fieldAt bs 4 4)
              s.modSeq q fun e => { e with
                state := .importing
                importing := some { done := d.later x, dev := maskBit (d.le 0x20 1) 0, addr := d.le 0x10 8, bytes := bs.length
                                    data := bs, ready := true } })

/-- KV_EXPORT (R230): it takes the entries at the next admitting boundary; at once where no trail of the group runs. -/
def execKvExport (r : RingId) (s : State) : Host.Outcome State Fault Refusal :=
  .next (s.descr r (fun d => d.opcode = 0x05) fun x d s =>
    if !d.xferOk then s.rejectXfer x d 0x01
    else
      match s.ownSeq x (d.le 8 4) with
      | .error e => s.rejectXfer x d e
      | .ok q =>
        if (s.seq q).state = .importing then s.rejectXfer x d 0x03
        else
          let s := s.modSeq q fun e => { e with
            exporting := e.exporting ++ [{ done := d.later x, dev := maskBit (d.le 0x20 1) 0, addr := d.le 0x10 8
                                           bytes := d.le 0x18 8, data := [], ready := false }] }
          if s.trailRuns x then s else s.captureExports q)

/-! ### The limit of a tag wait (R130) -/

/-- The wait of an operation on preparation, on a tentative slot, or on a tower has not ended (R206, R207, R335). -/
def State.kvBlocked (s : State) (c : Nat) (o : Op) (q : Nat) : Bool :=
  if q ≥ 2 ^ 18 then decide (s.rtState (q - 2 ^ 18) = rtUnmounted ∨ s.rtState (q - 2 ^ 18) = rtOff)
  else if o.op = 0x68 ∨ o.op = 0x6A then
    match (s.attnOpen c o (fun _ => true) (decide (o.op = 0x6A))).1 with
    | .waits _ => true
    | _ => false
  else match s.stepOf q with
    | some (_, r) => !r.prepared
    | none => false

/-- The cell an operation still waits for, with its core: its own, or the landing cell of a transfer admitted. An operation
that waits on the KV unit names its result's cell (log 80). Of a transfer
to another device with PF = 1 that has not been answered the cell is not known here: the null cell stands for it. -/
def Op.waitCell (o : Op) (c : Nat) : Option (Nat × Nat) :=
  if o.kvWait.isSome then some (c, wCell o.word)
  else if o.remote ∧ wPf o.word then some (c, nullCell)
  else if o.started ∨ !o.turn then none
  else
    match o.flag, o.adm with
    | some _, _ => some (c, wCell o.word)
    | none, some (tc, _, some k) => some (tc, k)
    | _, _ => none

/-- An engine operation of core `c` has waited past its limit, that of the issuing thread's partition: its thread traps with
STARVE; one that a gate started is discarded. DESIGN CHOICE (log 80): a transfer to another device waits from when its last
frame was sent; the device it is sent to sets it no limit of its own. -/
def State.starveOp (s : State) (c id : Nat) : State :=
  match (s.core c).findOp id with
  | none => s
  | some o =>
    let since := match o.kvWait with | some w => w.1 | none => o.since
    let ended : Bool := match o.kvWait with | some w => !s.kvBlocked c o w.2 | none => false
    if (s.core c).lq.any (·.id = id) ∨ (o.waitCell c).isNone ∨ ended ∨ !s.starved c since then s
    else if o.reply.isSome then s
    else if o.t ≥ 8 then (s.dropOp c id).raise (schedEvt (s.coreInst c) 0xC ((s.inst (s.coreInst c)).schedAt s.now * 2 ^ 32))
    else
      let f : Fail := { cause := causeStarve, addr := BitVec.ofNat 64 (((o.waitCell c).map Prod.snd).getD 0) }
      if (s.core c).arr.any (·.op.id = id) then s.failLmac c o f
      else if (s.core c).drn.any (·.op.id = id) then s.failDrain c o f
      else s.failOp c o f

/-- A delivery of entry `e` of the window engine of core `c`'s partition has waited past its limit: the entry is discarded. -/
def State.starveStream (s : State) (c entry : Nat) : State :=
  let p := partOf c
  match s.runOf p entry (fun r => r.gated) with
  | none => s
  | some n =>
    match (s.mem p).streams[n]? with
    | none => s
    | some r =>
      match (s.inst r.inst).image.stream entry with
      | none => s
      | some e =>
        let waits := if r.base.isNone then !(s.cell e.bktLcid e.bktCell).full
          else !(s.cell e.dst (e.cell0 + r.turn % e.ncell)).claimable false
        if waits ∧ s.starved e.dst r.since then s.discardRun p n else s

/-- STARVE (R130). `op = none`: the thread's own TAKE or PUT; `some k`: engine operation `k` of the core; a `k` of 2^32 or
more names entry k − 2^32 of the window engine. -/
def execStarve (c : Lcid) (t : TSlot) (op : Option Nat) (s : State) : Host.Outcome State Fault Refusal :=
  .next (
    match op with
    | some k => if k ≥ 2 ^ 32 then s.starveStream c (k - 2 ^ 32) else s.starveOp c k
    | none =>
      let x := s.thr c t
      if x.state ≠ .blocked ∨ !s.starved c x.since then s
      else
        match x.wait with
        | .take k _ => s.trap c t causeStarve (BitVec.ofNat 64 k)
        | .put k => s.trap c t causeStarve (BitVec.ofNat 64 k)
        | _ => s)

end Sys2Proof.Machine
end

