-- ==== Sys2Proof/Machine/Contexts.lean ====
section
/-! DEFINITION. Contexts: creation, rings, binding of cores, clears, kills and partition resets (R62, R113, R141 to R143,
R340 to R347, R360 to R367, R382, R436). -/

namespace Sys2Proof.Machine

/-! ### Ring headers and registers (R362, R365) -/

/-- Ring registers of a context or of the admin context. -/
def State.ringReg (s : State) (x k : Nat) : Word :=
  if x = adminCtx then s.reg (match k with | 0 => .HIF_ADM_SQ | 1 => .HIF_ADM_CQ | _ => .HIF_ADM_EQ) 0
  else s.reg (match k with | 0 => .VF_CTX_SQ | 1 => .VF_CTX_CQ | _ => .VF_CTX_EQ) x

/-- The ring a ring register names. -/
def ringOf (w : Word) : RingDesc :=
  { base := w.toNat / 4096 * 4096, dev := decide (w.toNat / 2048 % 2 = 1), log2 := w.toNat % 32 }

/-- The header of a ring agrees with its context's set-up registers (R362). TAIL and HEAD are 0 in a host ring. -/
def State.headerOk (s : State) (x : Nat) (r : RingDesc) (kind : Nat) : Bool :=
  match s.readSpace x r.dev r.base 64 with
  | none => false
  | some h =>
    decide (fieldAt h 0 4 = 0x52505141) && decide (fieldAt h 4 2 = s.aqpVersion x) && decide (fieldAt h 6 1 = kind)
      && zeroAt h 7 1 && decide (fieldAt h 8 4 = r.entries)
      && decide (fieldAt h 0xC 2 = if x = adminCtx then 0xFFFF else x) && zeroAt h 0xE 2
      && (r.dev || zeroAt h 0x10 8) && zeroAt h 0x18 40

/-- A device-resident ring lies inside one writable data object of its context (R367). -/
def State.devRingOk (s : State) (x : Nat) (r : RingDesc) (size : Nat) : Bool :=
  !r.dev || (s.ctx x).objs.any fun o => o.kind = 0 ∧ o.writable ∧ o.ova ≤ r.base
    ∧ r.base + 64 + r.entries * size ≤ o.ova + o.bytes

/-- The ERR code of the set-up of a context whose rings these are, 0 for none (R365). -/
def State.createErr (s : State) (x : Nat) (wrong : Bool) (sq cq eq : RingDesc) : Nat :=
  if wrong then 1
  else if s.fld HIF_STATUS.READY 0 ≠ 1 ∨ (x ≠ adminCtx ∧ !s.present (ctxPart x)) ∨ s.fld SEC_DBG.DEBUG_STATE 0 = 1
      ∨ s.fld SEC_LC.STATE 0 ≠ 2 then 6
  else if !maskBit (s.fld HIF_AQP_CAP.VERSIONS 0) (s.aqpVersion x) then 2
  else if [sq, cq, eq].any fun r => r.log2 < 4 ∨ r.log2 > 16 then 4
  else if sq.dev ∨ cq.dev ∨ eq.dev then 5
  else if !(s.headerOk x sq 0 && s.headerOk x cq 1 && s.headerOk x eq 2) then 3
  else 0

/-! ### CREATE (R261, R365) -/

/-- The context that VF_CTX_SEL of VF `n` selects. -/
def State.selected (s : State) (n : Nat) : Nat := n * 256 + s.fld VF_CTX_SEL.LOCAL n

/-- First page of the row area; the admission area follows it. -/
def areaPage : Nat := 0xFFFFFF60

/-- The device areas of a context: 160 frames of its home stack, read-only, under the one device key (R261; log 38). -/
def State.mapAreas (s : State) (x : Nat) (frames : List Nat) : State :=
  let ep := s.fld VF_CTX_STATUS.EPOCH x
  let pte := fun f : Nat => ({ epoch := ep, key := 1 + Config.deviceKeyId % 4095, frame := trunkFrame (ctxPart x) f
                               tier := .trunk, present := true } : Pte)
  s.modCtx x fun c => { c with
    areaFrames := frames
    pages := (frames.mapIdx fun i f => (i, f)).foldl (fun m e => m.set {} (areaPage + e.1) (pte e.2)) c.pages }

/-- CREATE succeeds: the context is OPEN with its rings, epoch and seed. -/
def State.openCtx (s : State) (x : Nat) (frames : List Nat) (sq cq eq : RingDesc) : State :=
  let old := s.ctx x
  let ep := if old.used then (s.fld VF_CTX_STATUS.EPOCH x + 1) % 256 else 0
  let s := s.setCtx x { sq := sq, cq := cq, eq := eq, used := true, seed := s.reg .VF_CTX_SEED x
                        adopting := old.adopting, held := if old.adopting then old.held else [] }
  let s := (s.setReg .VF_CTX_CNT x 0).setReg .VF_CTX_STATUS x 0
  let s := (s.setFld VF_CTX_STATUS.EPOCH x ep).setCState x cOpen
  s.mapAreas x frames

/-- CREATE of the context that VF `n` selects (R365). -/
def execCreate (n : PartId) (mem : HostStores) (s : State) : Host.Outcome State Fault Refusal :=
  .next (
    let x := s.selected n
    let s := s.hostStores x mem
    let sq := ringOf (s.ringReg x 0)
    let cq := ringOf (s.ringReg x 1)
    let eq := ringOf (s.ringReg x 2)
    match s.createErr x (decide (s.cState x ≠ cFree)) sq cq eq with
    | 0 =>
      match s.takeRuns false n false (List.replicate 160 1) with
      | (some fs, s) => s.openCtx x fs sq cq eq
      | (none, _) => s.setFld VF_CTX_STATUS.ERR x 7
    | e => s.setFld VF_CTX_STATUS.ERR x e)

/-- The admin context is created (R365, R382). -/
def execAdminContextCreate (mem : HostStores) (s : State) : Host.Outcome State Fault Refusal :=
  .next (
    let s := s.hostStores adminCtx mem
    let sq := ringOf (s.ringReg adminCtx 0)
    let cq := ringOf (s.ringReg adminCtx 1)
    let eq := ringOf (s.ringReg adminCtx 2)
    match s.createErr adminCtx (s.ctx adminCtx).exists_ sq cq eq with
    | 0 => (s.setCtx adminCtx { sq := sq, cq := cq, eq := eq, exists_ := true }).setReg .HIF_ADM_CTL 0 0
    | e => s.setFld HIF_ADM_CTL.ERR 0 e)


/-! ### REBASE (R367) -/

/-- REBASE is requested: the new rings apply later. -/
def execRebase (n : PartId) (mem : HostStores) (s : State) : Host.Outcome State Fault Refusal :=
  .next (
    let x := s.selected n
    let s := s.hostStores x mem
    if !s.cLive x then s.setFld VF_CTX_STATUS.ERR x 1
    else if s.aqpVersion x ≠ 2 then s.setFld VF_CTX_STATUS.ERR x 2
    else (s.modCtx x fun c => { c with rebase := true }).setFld VF_CTX_STATUS.ERR x 0)

/-- The new bases apply once every descriptor read has completed and no unread entry remains. -/
def execRebaseApply (x : Fin 4096) (s : State) : Host.Outcome State Fault Refusal :=
  .next (
    let c := s.ctx x
    if !c.rebase ∨ !s.cLive x ∨ c.open_ ≠ [] ∨ s.sqHead x ≠ c.sqTail then s
    else
      let s := s.modCtx x fun c => { c with rebase := false }
      let sq := ringOf (s.ringReg x 0)
      let cq := ringOf (s.ringReg x 1)
      let eq := ringOf (s.ringReg x 2)
      let err :=
        if [sq, cq, eq].any fun r => r.log2 < 4 ∨ r.log2 > 16 then 4
        else if eq.dev || !(s.devRingOk x sq 64 && s.devRingOk x cq 32) then 5
        else if !(s.headerOk x sq 0 && s.headerOk x cq 1 && s.headerOk x eq 2) then 3
        else 0
      if err = 0 then s.modCtx x fun c => { c with sq := sq, cq := cq, eq := eq } else s.setFld VF_CTX_STATUS.ERR x err)

/-! ### Clears (R141 to R143) -/

/-- What a clear leaves of a core (R113, R142, R147, R166, R184). -/
def Core.cleared (k : Core) : Core :=
  { k with canopy := [], cmarks := [], golden := [], gbufs := [], cells := [], wins := [], acc := [], accMarks := [], accGold := [], prom := [], bset := []
           lcfg := [], oslots := [], faults := [], wantClear := false, killed := false
           threads := if k.killed then k.threads.map fun (e : Nat × Thread) =>
               (e.1, { e.2.clearRegs with cause := 0, fpc := 0, addr := 0, pc := 0 })
             else k.threads }

/-- A clear of core `c` has ended (R142): the tile status words and the last scrub pass read 0 and every out-path slot is
valid (R145, R175, R198); CLEAR_CNT counts it. -/
def State.clearCore (s : State) (c : Nat) : State :=
  let s := (s.modCore c Core.cleared).setFld PRT_OUT_STATUS.SLOT_VALID c 0xFF
  let s := (s.setReg .PRT_LAT_TILE c (regReset .PRT_LAT_TILE c)).setReg .PRT_CNP_SCRUB c 0
  ((s.setFld PRT_CNP_STATUS.WIN_OPEN c 0).setFld PRT_CNP_STATUS.CLEAR_BUSY c 0).inc PRT_CNP_STATUS.CLEAR_CNT c

/-- Cores whose last bound context is `x`. -/
def State.lastCores (s : State) (x : Nat) : List Nat :=
  (s.cores.filter fun (e : Nat × Core) => e.2.lastCtx = some x).map Prod.fst

/-- The unmap step of a kill: the sequences are closed and every object is unmapped (R344, R345). -/
def State.killUnmapAll (s : State) (x : Nat) : State :=
  let qs := (s.seqs.filter fun (e : Nat × SeqEnt) => e.2.ctx = x ∧ e.2.state ≠ .closed).map Prod.fst
  let s := qs.foldl (fun s q => (s.releaseSeq q).setSeq q {}) s
  let s := (s.ctx x).objs.foldl (fun s o => s.unmapObj x o) s
  s.modCtx x fun c => { c with killUnmap := true }

/-- A killed context whose cores are clear, and none of whose tiles is in copy, is unmapped. -/
def State.killProgress (s : State) (x : Nat) : State :=
  if s.cState x = cKilling ∧ !(s.ctx x).killUnmap
      ∧ (s.lastCores x).all (fun c => !s.clearPending c)
      ∧ (s.mem (ctxPart x)).mig.all (fun m => m.ctx ≠ x) then s.killUnmapAll x
  else s

/-- A clear ends (R142). One that still waits to start does so once nothing holds it (R143). -/
def execClearEnd (c : Lcid) (s : State) : Host.Outcome State Fault Refusal :=
  .next (
    let s := s.clearIfQuiet c
    if s.fld PRT_CNP_STATUS.CLEAR_BUSY c = 1 then
      let s := s.clearCore c
      match (s.core c).lastCtx with
      | some x => s.killProgress x
      | none => s
    else s)

/-! ### Binding (R342) -/

/-- Cores bound to a context, and cores whose binding to it waits. -/
def State.boundCores (s : State) (x : Nat) : List Nat := (List.range 512).filter fun c => s.boundCtx c = some x
def State.waitingCores (s : State) (x : Nat) : List Nat := (List.range 512).filter fun c => (s.core c).pendBind = some x

/-- OPEN or BOUND, by whether a core is bound. -/
def State.settleBound (s : State) (x : Nat) : State :=
  if s.cLive x then s.setCState x (if s.boundCores x = [] then cOpen else cBound) else s

/-- Core `c` is unbound. -/
def State.unbind (s : State) (c : Nat) : State :=
  let old := s.boundCtx c
  let s := (s.modCore c fun k => { k with pendBind := none }).setFld PRT_ISO_BIND.VALID c 0
  match old with
  | some x => s.settleBound x
  | none => s

/-- A binding takes effect, or is abandoned where its context has left OPEN and BOUND. Completions of an adopted role are
written once its context is bound (R76). -/
def State.bindNow (s : State) (c : Nat) : State :=
  match (s.core c).pendBind with
  | none => s
  | some x =>
    if s.clearPending c then s
    else
      let s := s.modCore c fun k => { k with pendBind := none }
      if !s.cLive x then s
      else
        let s := (s.setFld PRT_ISO_BIND.CTX c x).setFld PRT_ISO_BIND.VALID c 1
        let s := (s.modCore c fun k => { k with lastCtx := some x }).setCState x cBound
        if (s.ctx x).adopting then
          let s := s.modCtx x fun k => { k with adopting := false }
          s.spaceResume x (s.ctx x).held.length
        else s

def execBindEffect (c : Lcid) (s : State) : Host.Outcome State Fault Refusal := .next (s.bindNow c)

/-- A core of partition `q` may be bound to context `x`: its owning partition is in `q`'s configured group (R342). -/
def State.bindable (s : State) (q x : Nat) : Bool := s.inGroup q && maskBit (s.groupMask q) (ctxPart x)

/-- Bytes of Canopy charged to a context with one more core (R271). -/
def State.canopyFits (s : State) (x : Nat) : Bool :=
  decide (((s.boundCores x).length + (s.waitingCores x).length + 1) * 2097152 ≤ (s.ctx x).qCanopy)

/-- A write of PRT_ISO_BIND (R342). -/
def execPrtIsoBindWrite (c : Lcid) (v : Word) (s : State) : Host.Outcome State Fault Refusal :=
  .next (
    let q := partOf c
    let x := PRT_ISO_BIND.CTX.of v
    if !s.lockOpen q then s.lockEvent q
    else if PRT_ISO_BIND.VALID.of v = 0 then (s.unbind c).setFld PRT_ISO_BIND.CTX c x
    else if !s.cLive x ∨ !s.bindable q x then s
    else if s.boundCtx c = some x ∨ (s.core c).pendBind = some x then s
    else if !s.canopyFits x then s.inc PRT_ISO_CNT.BIND_QUOTA q
    else
      let s := (s.unbind c).setFld PRT_ISO_BIND.CTX c x
      let s := s.modCore c fun k => { k with pendBind := some x }
      (if (s.core c).lastCtx = some x then s else s.startClear c false).bindNow c)

/-! ### Kill (R113, R344, R345) -/

/-- No completion of context `x` that a trail, a snapshot or a migration has still to give is written (R344, R360): its
snapshots end, and what they held is released. -/
def State.dropWaits (s : State) (x : Nat) : State :=
  let other := fun l : Later => decide (l.ring ≠ x)
  let s : State := { s with
    insts := s.insts.map fun (e : Nat × Inst) =>
      (e.1, { e.2 with startReq := e.2.startReq.filter other, stopReqs := e.2.stopReqs.filter other })
    snaps := s.snaps.map fun (e : Nat × List Snap) => (e.1, e.2.filter fun g => (g.done.map other).getD true)
    migs := s.migs.map fun g => { g with done := g.done.filter other } }
  s.releaseHeld

/-- The admin context ends: its outstanding descriptors with no completion (R360, R382). -/
def State.endAdmin (s : State) : State :=
  ((s.dropWaits adminCtx).setCtx adminCtx {}).modPower fun p => { p with prof := p.prof.map fun j => { j with done := none } }

/-- The admin context is destroyed (R382). -/
def execAdminContextDestroy (s : State) : Host.Outcome State Fault Refusal := .next s.endAdmin

/-- Step 1: every queued or admitted step of the context ends without a completion, transfers are abandoned, and
placements are cancelled after the tile in copy. -/
def State.killStop (s : State) (x : Nat) : State :=
  let p := ctxPart x
  let s := s.setCState x cKilling
  let mine := (s.stepsOf p).filter fun r => r.ctx = x
  let s := mine.foldl (fun s r => s.discardStep r) s
  let s := s.setSteps p ((s.stepsOf p).filter fun r => r.ctx ≠ x)
  let s := { s with waiting := s.waiting.set [] p ((s.waiting.get [] p).filter fun r => r.ctx ≠ x)
                    replays := s.replays.set [] p ((s.replays.get [] p).filter fun r => r.ctx ≠ x)
                    seqs := s.seqs.map fun (e : Nat × SeqEnt) =>
                      if e.2.ctx = x then (e.1, { e.2 with importing := none, exporting := [], closing := none }) else e }
  let s := (s.cancelWhere p fun m => decide (m.ctx = x)).startTiles
  let s := s.dropWaits x
  let gone := s.migs.filter fun g => g.ctx = x
  let s := gone.foldl (fun s g => match g.done with | some l => s.completeLater l 0x03 0 0 | none => s)
    { s with migs := s.migs.filter fun g => g.ctx ≠ x }
  s.modCtx x fun c => { c with started := [], open_ := [], tails := [], deferred := [], fills := [], held := [], rebase := false, adopting := false }

/-- A core of a context that is killed is left unbound, its thread slots halt and what has not started is discarded; it is
cleared once what has started has completed (R113). -/
def State.killCore (s : State) (c : Nat) : State :=
  let s := s.modCore c fun k => { k.discardOps with
    threads := k.threads.map fun (e : Nat × Thread) => (e.1, { e.2 with
      state := if e.2.state = .inactive then .inactive else .halted, wait := .none, trapSlot := none })
    pendBind := none }
  (s.setFld PRT_ISO_BIND.VALID c 0).startClear c true

/-- Trails that a context owns and that are active are stopped. -/
def State.stopOwned (s : State) (x cause : Nat) : State :=
  (List.range 16).foldl (fun s i =>
    if (s.inst i).owner = x ∧ s.trailActive i then s.announceStop i cause else s) s

/-- A kill of context `x` starts; of one that is FREE or KILLING it has no effect, but for the cause of a stop that a
partition reset announces. -/
def State.startKill (s : State) (x : Nat) (reset : Bool) : State :=
  if !s.cLive x then s
  else
    let cores := s.boundCores x
    let s := s.killStop x
    let s := cores.foldl State.killCore s
    let s := (s.waitingCores x).foldl (fun s c => s.modCore c fun k => { k with pendBind := none }) s
    let s := s.stopOwned x (if reset then 8 else 1)
    s.killProgress x

/-- KILL of the context that PRT_ISO_CTX of partition `p` selects. -/
def execKill (p : PartId) (s : State) : Host.Outcome State Fault Refusal :=
  .next (s.startKill (p * 256 + s.fld PRT_ISO_CTX.CTX_LOCAL p) false)

/-- DESTROY of the context that VF `n` selects (R365). -/
def execDestroy (n : PartId) (s : State) : Host.Outcome State Fault Refusal := .next (s.startKill (s.selected n) false)

/-- Some access issued under a context's key is not acknowledged. -/
def State.ctxBusy (s : State) (x : Nat) : Bool := s.cores.any fun (e : Nat × Core) => e.2.allOps.any fun o => o.ctx = x

/-- Step 5 (R344): the key is zeroed. -/
def execKeyErasure (x : Fin 4096) (s : State) : Host.Outcome State Fault Refusal :=
  .next (
    let s := s.killProgress x
    let c := s.ctx x
    if s.cState x = cKilling ∧ c.killUnmap ∧ !c.killKey ∧ !s.ctxBusy x then
      (if c.key = 0 then s else s.zeroKey c.key).modCtx x fun c => { c with killKey := true, key := 0 }
    else s)

/-- A frame of the list still waits for its clear, or for an entry that may read it. -/
def State.framesPend (s : State) (frames : Ranges) : Bool :=
  frames.any fun (e : Nat × Nat) => (List.range' e.1 e.2).any fun f =>
    decide (s.tkState (f / 2 ^ 20) ≠ tkOff) && (s.pendFrames (f / 2 ^ 20)).mem (f % 2 ^ 20) || s.mems.any fun (m : Nat × MemPart) => f ∈ m.2.held

/-- Step 6 (R261, R344): the context returns to FREE, its device areas, cleared, to the free pool. -/
def execContextRelease (x : Fin 4096) (s : State) : Host.Outcome State Fault Refusal :=
  .next (
    let c := s.ctx x
    if s.cState x = cKilling ∧ c.killKey ∧ !s.framesPend c.killFrames then
      let p := ctxPart x
      let s := c.areaFrames.foldl (fun s f =>
        let a := trunkDpa p (f * 65536)
        let s := { s with trunk := zeroBytes s.trunk a 65536
                          tmarks := s.tmarks.filter fun (m : Nat × Mark) => decide (m.1 * 32 + 32 ≤ a) || decide (a + 65536 ≤ m.1 * 32) }
        s.setFrames p ((s.frames p).add f 1)) s
      let s := (s.placeStage p (s.stageFirst p) (s.stageTop p - s.stageFirst p)).dropWithdrawn p
      ((s.setCtx x { used := true }).setCState x cFree).inc PRT_ISO_CNT.KILL_CNT p
    else s)

/-! ### Groups (R340, R347) -/

/-- A live object keyed with `k` has a tile in Root, or a retained object uses it: the key is persistent and in use
(R349). -/
def State.keyPersists (s : State) (k : Nat) : Bool :=
  s.sec.retained.any (fun o => o.key = k)
    || s.ctxs.any fun (e : Nat × Ctx) => e.2.objs.any fun o => o.key = k ∧
        (o.golden ≠ [] ∨ (s.objPages e.1 o).any fun q => q.2.tier = .root)

/-- The group of mask `m` is dissolved: its key is zeroed unless a persistent object uses it. -/
def State.dissolve (s : State) (m : Nat) : State :=
  match s.sec.groupKey.find m with
  | none => s
  | some k =>
    if s.keyPersists k then s
    else
      let s := s.zeroKey k
      { s with sec := { s.sec with groupKey := s.sec.groupKey.erase m } }

/-- The group of mask `m` is configured: it receives a key, the earlier one if that is still there. -/
def State.configure (s : State) (m : Nat) : State :=
  match s.sec.groupKey.find m with
  | some _ => s
  | none =>
    match s.newKey true m with
    | (some k, s) => { s with sec := { s.sec with groupKey := s.sec.groupKey.insert m k } }
    | (none, s) => s

/-- Instance `i` returns to EMPTY. -/
def State.emptyInst (s : State) (i : Nat) : State :=
  [RegId.RSQ_TRL_STATUS, .RSQ_TRL_RING, .RSQ_TRL_SLIP, .RSQ_TRL_CNT, .RSQ_TRL_TICKS].foldl (fun s r => s.setReg r i 0)
    (s.setInst i {})

/-- Bindings that a change of groups leaves across two groups end, since no path exists between them (R20, R342). DESIGN CHOICE
(log 84): the spec does not say when. -/
def State.unbindAcross (s : State) (parts : List Nat) : State :=
  (parts.flatMap fun q => List.range' (q * 32) 32).foldl (fun s c =>
    match s.boundCtx c with
    | some x => if partOf c = ctxPart x ∨ s.bindable (partOf c) x then s else s.unbind c
    | none => if (s.core c).pendBind.any fun x => decide (partOf c ≠ ctxPart x) && !s.bindable (partOf c) x then s.modCore c fun k => { k with pendBind := none } else s) s

/-- A write of PRT_ISO_GRP (R340). -/
def execPrtIsoGrpWrite (p : PartId) (v : Word) (s : State) : Host.Outcome State Fault Refusal :=
  .next (
    if !s.lockOpen p then s.lockEvent p
    else
      let was := s.inGroup p
      let m0 := s.groupMask p
      let s := if was then s.emptyInst (s.instOf p) else s
      let s := (s.setFld PRT_ISO_GRP.GROUP_MASK p (PRT_ISO_GRP.GROUP_MASK.of v)).emptyInst p
      let m1 := s.groupMask p
      let s := if was ∧ m1 ≠ m0 then s.unbindAcross (maskParts m0) else s
      let s := if was ∧ m1 ≠ m0 then s.dissolve m0 else s
      if s.inGroup p then s.configure m1 else s)

/-! ### Partition reset (R62, R141, R360, R436) -/

/-- A partition reset: its contexts are killed, its cores cleared, its group's trail stopped, and the fields of its thread
slots, Lattice slots and out-path slots take their reset values. -/
def State.partReset (s : State) (p : Nat) : State :=
  let ctxs := (List.range' (p * 256) 256).filter s.cLive
  let s := ctxs.foldl (fun s x => s.startKill x true) s
  let s := if s.inGroup p ∧ s.trailActive (s.instOf p) then s.announceStop (s.instOf p) 8 else s
  (List.range' (p * 32) 32).foldl (fun s c =>
    let bound := s.boundCtx c
    let s := s.killCore c
    let s := match bound with | some x => s.settleBound x | none => s
    let s := s.setFld PRT_OUT_STATUS.SLOT_VALID c 0xFF
    s.modCore c fun k => { k with
      lcfg := [], oslots := []
      threads := k.threads.map fun (e : Nat × Thread) => (e.1, { e.2 with ibase := 0, ibound := 0, cbase := 0, cbound := 0 }) }) s

/-- FLR of VF `p` (R360). -/
def execFlrVf (p : PartId) (s : State) : Host.Outcome State Fault Refusal := .next (s.partReset p)

end Sys2Proof.Machine
end

