-- ==== Sys2Proof/Machine/Snapshots.lean ====
section
/-! DEFINITION. Snapshots of the sequences of owner contexts (R421, R422). -/

namespace Sys2Proof.Machine

def State.setSnaps (s : State) (i : Nat) (l : List Snap) : State := { s with snaps := s.snaps.set [] i l }
def State.snapsOf (s : State) (i : Nat) : List Snap := s.snaps.get [] i

/-- Replaces a snapshot of an instance, by its issuer and number. -/
def State.putSnap (s : State) (i : Nat) (g : Snap) : State :=
  s.setSnaps i ((s.snapsOf i).map fun h => if h.sdid = g.sdid ∧ h.seq = g.seq then g else h)

/-- SNAPSHOT (R376, R421): a global operation to every member of the issuer's trail. -/
def execSnapshot (r : RingId) (s : State) : Host.Outcome State Fault Refusal :=
  .next (s.descr r (fun d => d.opcode = 0x0C) fun x d s =>
    let i := s.instOf (ctxPart x)
    let e := d.le 8 8
    let id := d.le 0x10 4
    if !d.clean 1 [(8, 8), (0x10, 4)] ∨ id ≥ 2 ^ 20 then s.finish x d 0x01
    else if !s.inGroup (ctxPart x) then s.finish x d 0x27
    else if s.iState i = iEmpty then s.finish x d 0x03
    else if (s.inst i).owner ≠ x then s.finish x d 0x04
    else if !s.trailActive i then s.finish x d 0x03
    else if e < s.now + s.lead (s.inst i).image.scope then s.finish x d 0x0F
    else if !(s.inst i).isBoundary e then s.finish x d 0x01
    else
      let s := { s with opSeq := s.opSeq + 1 }
      let s := s.setSnaps i (s.snapsOf i ++ [{ snapId := id, e := e, sdid := s.sdid, seq := s.opSeq, done := some (d.later x) }])
      s.tellMembers i (.snapshot (BitVec.ofNat 64 (s.inst i).image.trailId) e (BitVec.ofNat 32 id) (BitVec.ofNat 8 s.sdid) s.opSeq))

/-! ### At E (R421, R422) -/

/-- Number of a sequence's state in a snapshot. -/
def SeqState.num : SeqState → Nat
  | .closed => 0 | .opened => 1 | .importing => 2 | .frozen => 3

/-- The sequences a snapshot of context `x` covers. -/
def State.snapSeqs (s : State) (x : Nat) : List Nat :=
  (s.seqs.filter fun (e : Nat × SeqEnt) => e.2.ctx = x ∧ (e.2.state = .opened ∨ e.2.state = .frozen)).map Prod.fst

/-- Bytes padded with zeros to a multiple of 64 KiB. -/
def padTile (bs : List Byte) : List Byte := bs ++ List.replicate (roundUp bs.length 65536 - bs.length) 0

/-- A directory entry: handle, state and CAP, last released token, LEN, offset and length of the buffer. -/
def State.snapEntry (s : State) (q ofs n : Nat) : List Byte :=
  let e := s.seq q
  leBytes q 4 ++ leBytes e.state.num 1 ++ leBytes e.cap 3 ++ leBytes (e.lastTok.getD 0xFFFFFFFF) 4 ++ leBytes e.len 4
    ++ leBytes ofs 8 ++ leBytes n 8

/-- Directory and buffers of the sequences `qs`, the next buffer at `ofs`. -/
def State.snapParts (s : State) : List Nat → Nat → List Byte × List Byte
  | [], _ => ([], [])
  | q :: qs, ofs =>
    let b := s.exportBytes q
    let r := s.snapParts qs (ofs + roundUp b.length 65536)
    (s.snapEntry q ofs b.length ++ r.1, padTile b ++ r.2)

/-- The bytes of a snapshot of context `x`. -/
def State.snapBytes (s : State) (x id e : Nat) : List Byte :=
  let qs := s.snapSeqs x
  let r := s.snapParts qs (roundUp (64 + 32 * qs.length) 65536)
  padTile (leBytes 0x534E4150 4 ++ leBytes id 4 ++ leBytes e 8 ++ leBytes qs.length 4 ++ List.replicate 44 0 ++ r.1) ++ r.2

/-- Bytes a snapshot of context `x` takes. -/
def State.snapNeed (s : State) (x : Nat) : Nat :=
  let qs := s.snapSeqs x
  roundUp (64 + 32 * qs.length) 65536 + (qs.map fun q => roundUp (s.seq q).exportNeed 65536).sum

/-- The pages that hold the committed entries of context `x`'s sequences. -/
def State.snapPages (s : State) (x : Nat) : List Nat :=
  (s.snapSeqs x).flatMap fun q => (s.pagesBelow q (s.seq q).len).map fun t => heldKey (s.seq q).pool t.2.2

/-- The status of a member's snapshot of owner context `x` into object (x, id), 0 where it can be made. -/
def State.snapCheck (s : State) (x id : Nat) : Nat :=
  if !s.cLive x then 0x03
  else
    match s.findObj (x * 2 ^ 20 + id) with
    | none => 0x03
    | some o =>
      if o.kind ≠ 0 ∨ !(List.range (o.bytes / 65536)).all (fun j =>
          (s.pte x (o.ova + j * 65536)).present && decide ((s.pte x (o.ova + j * 65536)).tier = .root)) then 0x01
      else if o.bytes < s.snapNeed x ∨ (List.range (o.bytes / 65536)).any (fun j =>
          match place ((s.pte x (o.ova + j * 65536)).dpa 0) with | .root t _ => s.fld RTF_STATUS.STATE t = 5 | _ => false) then 0x05
      else 0

/-! ### Its end (R422) -/

/-- The issuer's completion, once every member that is not retired has reported. -/
def State.endSnap (s : State) (i : Nat) (g : Snap) : State :=
  match g.done, g.own with
  | some l, some own =>
    let x := s.inst i
    let all := (s.memberIdx i, own) :: g.reports
    if (x.others (s.memberIdx i)).all fun m => g.reports.any (fun r => r.1 = m.1) || decide (m.1 ∈ x.retired) then
      let bad := all.filter fun r => r.2 ≠ 0
      let low := (bad.map Prod.fst).foldl min (bad.headD (0, 0)).1
      let st := ((bad.find? fun r => r.1 = low).map Prod.snd).getD 0
      let n := if own = 0 then (g.data.getD []).length else 0
      (s.setSnaps i ((s.snapsOf i).filter fun h => !(decide (h.sdid = g.sdid) && decide (h.seq = g.seq)))).completeLater l st
        (all.length - bad.length + bad.length * 65536) n
    else s.putSnap i g
  | _, _ => s.putSnap i g

/-- A member's own part of a snapshot has ended with a status. -/
def State.snapOwn (s : State) (i : Nat) (g : Snap) (st : Nat) : State :=
  if g.done.isSome then s.endSnap i { g with own := some st, held := [] }
  else
    (s.setSnaps i ((s.snapsOf i).filter fun h => !(decide (h.sdid = g.sdid) && decide (h.seq = g.seq)))).tellDevice g.sdid
      (.snapshotDone (BitVec.ofNat 64 (s.inst i).image.trailId) (BitVec.ofNat 32 g.snapId) (BitVec.ofNat 8 (s.memberIdx i)) (BitVec.ofNat 8 st)) []

/-- A member takes its snapshot, or refuses it. -/
def State.capture (s : State) (i : Nat) (g : Snap) : State :=
  let x := (s.inst i).owner
  match s.snapCheck x g.snapId with
  | 0 => s.putSnap i { g with data := some (s.snapBytes x g.snapId g.e), held := s.snapPages x }
  | st => s.snapOwn i g st

/-- SNAPSHOT_CAPTURE: at E, in the order of R53 among themselves and the other global operations of the instance. -/
def execSnapshotCapture (i : PartId) (s : State) : Host.Outcome State Fault Refusal :=
  .next (
    let l := (s.snapsOf i).filter fun g => decide (g.e ≤ s.now) && g.data.isNone && g.own.isNone
    (l.mergeSort fun a b => opBefore a.key b.key).foldl (fun s g => if s.opTurn i g.key then s.capture i g else s) s)

/-- SNAPSHOT_COPY_END: the copy of the first snapshot under way is durable (R331, R422). -/
def execSnapshotCopyEnd (i : PartId) (s : State) : Host.Outcome State Fault Refusal :=
  .next (
    match (s.snapsOf i).find? fun g => g.data.isSome && g.own.isNone with
    | none => s
    | some g =>
      let s := s.objWrite ((s.inst i).owner * 2 ^ 20 + g.snapId) 0 (g.data.getD [])
      (s.snapOwn i g 0).releaseHeld)

/-- A member reports its part of a snapshot to the issuer. -/
def State.snapReport (s : State) (i id m st : Nat) : State :=
  match (s.snapsOf i).find? fun g => g.done.isSome ∧ g.snapId = id ∧ !g.reports.any (fun r => r.1 = m) with
  | some g => s.endSnap i { g with reports := g.reports ++ [(m, st)] }
  | none => s

end Sys2Proof.Machine
end

