-- ==== Sys2Proof/Machine/Migrate.lean ====
section
/-! DEFINITION. Migration of a context's sequences to another device (R397 to R399). -/

namespace Sys2Proof.Machine

def State.putMig (s : State) (g : MigOut) : State := { s with migs := s.migs.map fun h => if h.ctx = g.ctx then g else h }
def State.dropMig (s : State) (x : Nat) : State := { s with migs := s.migs.filter fun g => g.ctx ≠ x }
def State.migOf (s : State) (x : Nat) : Option MigOut := s.migs.find? fun g => g.ctx = x

/-- Changes the migration of (source device, source context) for which this device is the destination. -/
def State.modMigIn (s : State) (sdid x : Nat) (f : MigIn → MigIn) : State :=
  { s with migIns := s.migIns.map fun g => if g.dest ∧ g.sdid = sdid ∧ g.srcCtx = x then f g else g }
def State.dropMigIn (s : State) (sdid x : Nat) : State :=
  { s with migIns := s.migIns.filter fun g => !(decide (g.sdid = sdid) && decide (g.srcCtx = x)) }
def State.migInOf (s : State) (sdid x : Nat) : Option MigIn := s.migIns.find? fun g => g.dest ∧ g.sdid = sdid ∧ g.srcCtx = x

/-- Active trails that a context owns. -/
def State.ownedTrails (s : State) (x : Nat) : List Nat :=
  (List.range 16).filter fun i => (s.inst i).owner = x ∧ s.trailActive i

/-- A link to a device of this board. -/
def State.boardPeer (s : State) (sdid : Nat) : Bool := match s.linkTo sdid with | some l => l < 7 | none => false

/-- The first boundary of context `x`'s schedule ring at or after a tick; the tick itself where no ring runs. -/
def State.migB (s : State) (x d : Nat) : Nat :=
  let i := s.instOf (ctxPart x)
  if s.inGroup (ctxPart x) ∧ s.executing i then (s.inst i).boundaryFrom d else d

/-- MIGRATE (R376, R397). -/
def execMigrate (r : RingId) (s : State) : Host.Outcome State Fault Refusal :=
  .next (s.descr r (fun d => d.opcode = 0x0D) fun a d s =>
    let x := d.le 8 2
    let dest := d.le 0xA 1
    let e := d.le 0x10 8
    let board := s.boardPeer dest && (s.ownedTrails x).all fun i => (s.inst i).image.scope ≠ 2
    if !d.clean 1 [(8, 2), (0xA, 1), (0xC, 4), (0x10, 8)] ∨ x ≥ 4096 ∨ dest = s.sdid then s.finish a d 0x01
    else if !s.cLive x ∨ (s.migOf x).isSome then s.finish a d 0x03
    else if e < s.now + s.lead (if board then 1 else 2) then s.finish a d 0x0F
    else
      let b := s.migB x (e + d.le 0xC 4)
      let s : State := { s with opSeq := s.opSeq + 1 }
      let msg := fun t : Nat => CtrlMsg.migrate (BitVec.ofNat 8 s.sdid) (BitVec.ofNat 8 dest) (Fin.ofNat 4096 x) e b
        (BitVec.ofNat 8 (s.fld VF_CTX_STATUS.EPOCH x)) (BitVec.ofNat 64 t) s.opSeq
      let s : State := { s with migs := s.migs ++ [{ ctx := x, dest := dest, e := e, d := e + d.le 0xC 4, b := b
                                                     seq := s.opSeq, done := some (d.later a) }] }
      (s.ownedTrails x).foldl (fun s i => s.tellMembers i (msg (s.inst i).image.trailId)) (s.tellDevice dest (msg 0) []))

/-- The destination is armed for a source context: ZXL_MIG_IN names it, its context is OPEN, its pool is one of that
context, and the map entries lie in a writable data object of it (R397). -/
def State.migArmed (s : State) (sdid x : Nat) : Bool :=
  let y := s.fld ZXL_MIG_IN.DST_CTX 0
  let h := s.fld ZXL_MIG_IN.POOL 0
  decide (s.fld ZXL_MIG_MAP.ARM 0 = 1) && decide (s.fld ZXL_MIG_IN.SRC_SDID 0 = sdid) && decide (s.fld ZXL_MIG_IN.SRC_CTX 0 = x)
    && decide (s.cState y = cOpen) && decide (h / 2 ^ 20 = y)
    && (match s.findObj h with | some o => decide (o.kind = 2) | none => false)
    && (match s.objAt y (s.fld ZXL_MIG_MAP.MAP_OVA 0 * 64) with | some o => decide (o.kind = 0) && o.writable | none => false)

/-- Tells the source of a migration what became of it here: sequences landed so far, or a refusal. -/
def State.tellSource (s : State) (sdid x moved : Nat) (ok : Bool) : State :=
  s.tellDevice sdid (.migrateDone (BitVec.ofNat 8 sdid) (Fin.ofNat 4096 x) moved ok) []

/-- A MIGRATE arrives at its destination (`trail` = 0) or at a member of a trail that the context owns. -/
def State.takeMigrate (s : State) (sdid dest x e b epoch trail seq : Nat) : State :=
  let m := s.instant.margin (if s.boardPeer sdid then 1 else 2) e
  let s := m.2
  if trail = 0 then
    if dest ≠ s.sdid then s
    else if m.1 then (s.lateEvent (s.instOf (ctxPart (s.fld ZXL_MIG_IN.DST_CTX 0)))).tellSource sdid x 0 false
    else if !s.migArmed sdid x then s.tellSource sdid x 0 false
    else { s with migIns := s.migIns ++ [{ sdid := sdid, srcCtx := x, dest := true, ctx := s.fld ZXL_MIG_IN.DST_CTX 0, e := e, b := b
                                           epoch := epoch, seq := seq }] }
  else
    ((List.range 16).filter fun i => (s.inst i).image.scope ≠ 0 ∧ (s.inst i).image.trailId = trail ∧ s.trailActive i).foldl (fun s i =>
      if m.1 then s.lateArrival i
      else { s with migIns := s.migIns ++ [{ sdid := sdid, srcCtx := x, dest := false, ctx := (s.inst i).owner, inst := i, e := e, b := b
                                             epoch := epoch, seq := seq }] }) s

/-- The source gives a migration up with a status; members that wait for B hear of it. -/
def State.abandonMig (s : State) (g : MigOut) (status : Nat) : State :=
  let s := s.dropMig g.ctx
  let s := (s.ownedTrails g.ctx).foldl (fun s i =>
    s.tellMembers i (.migrateDone (BitVec.ofNat 8 s.sdid) (Fin.ofNat 4096 g.ctx) 0 false)) s
  match g.done with
  | some l => s.completeLater l status 0 0
  | none => s

/-- MIGRATION_TICK at E (R397, R398). -/
def execMigrationTick (x : Fin 4096) (s : State) : Host.Outcome State Fault Refusal :=
  .next (
    let s := match s.migOf x with
      | none => s
      | some g =>
        let wait : Bool := (s.ownedTrails x).any fun i => !s.opTurn i (g.e, s.sdid, g.seq)
        if g.phase ≠ 0 ∨ g.e > s.now ∨ wait then s
        else if g.refused then s.abandonMig g 0x03
        else s.putMig { g with phase := 1 }
    let gone := s.migIns.filter fun g => g.dest && decide (g.ctx = x.val) && decide (g.e ≤ s.now) && !g.past && !s.migArmed g.sdid g.srcCtx
    gone.foldl (fun s g => (s.dropMigIn g.sdid g.srcCtx).tellSource g.sdid g.srcCtx 0 false) s)

/-! ### At B (R398) -/

/-- A context's epoch and that of each of its PTEs become `ep`. -/
def State.setEpoch (s : State) (x ep : Nat) : State :=
  let s := s.setFld VF_CTX_STATUS.EPOCH x ep
  let s := s.modCtx x fun c => { c with pages := c.pages.map fun (e : Nat × Pte) => (e.1, { e.2 with epoch := ep }) }
  s.eventTo x 0x4 x (leBytes ep 1)

/-- Every step of context `x` not yet completed ends with STOPPED and releases nothing. -/
def State.stopSteps (s : State) (x : Nat) : State :=
  let p := ctxPart x
  let mine := fun r : StepRec => decide (r.ctx = x)
  let live := (s.stepsOf p).filter mine
  let ends := live ++ (s.replays.get [] p).filter mine ++ (s.waiting.get [] p).filter mine
  let s := live.foldl (fun s r => s.discardStep r) s
  let s := s.setSteps p ((s.stepsOf p).filter fun r => !mine r)
  let s := { s with replays := s.replays.set [] p ((s.replays.get [] p).filter fun r => !mine r)
                    waiting := s.waiting.set [] p ((s.waiting.get [] p).filter fun r => !mine r) }
  (ends.foldl (fun s r => s.stepRefused r 0x0C 0) s).applyCloses p

/-- What the destination is told of sequence `q`, or its bytes. -/
def State.tellSeq (s : State) (dest q : Nat) (bs : List Byte) : State :=
  let e := s.seq q
  s.tellDevice dest (.migrateSeq (BitVec.ofNat 8 s.sdid) (Fin.ofNat 4096 e.ctx) (BitVec.ofNat 18 q) (BitVec.ofNat 64 e.kvl) e.cap e.len
    (e.lastTok.getD 0) e.lastTok.isSome (decide (e.state = .frozen))) bs

/-- Every sequence has landed: the source kills the context. -/
def State.endMig (s : State) (g : MigOut) : State :=
  if g.left ≠ [] then s.putMig g
  else
    let s := (s.dropMig g.ctx).startKill g.ctx false
    match g.done with
    | some l => s.completeLater l 0 0 g.moved
    | none => s

/-- At B the source stops the context's steps and trails, advances its epoch, and announces its sequences. -/
def State.migSourceB (s : State) (g : MigOut) : State :=
  let ep := (s.fld VF_CTX_STATUS.EPOCH g.ctx + 1) % 256
  let s := s.stopSteps g.ctx
  let s := (s.ownedTrails g.ctx).foldl (fun s i => s.stopTrail i 1) s
  let s := s.setEpoch g.ctx ep
  let qs := s.snapSeqs g.ctx
  let s := qs.foldl (fun s q => s.tellSeq g.dest q []) s
  let s := s.tellDevice g.dest (.migrateDone (BitVec.ofNat 8 s.sdid) (Fin.ofNat 4096 g.ctx) qs.length true) []
  s.endMig { g with phase := 2, left := qs }

/-- At B another device's migration advances this device's context, and stops its trail. -/
def State.migPeerB (s : State) (g : MigIn) : State :=
  let s := { s with migIns := (s.migIns.map fun h => if h = g then { h with past := true } else h).filter fun h => h.dest || !h.past }
  let s := if !g.dest ∧ s.trailActive g.inst then s.stopTrail g.inst 1 else s
  s.setEpoch g.ctx ((g.epoch + 1) % 256)

/-- MIGRATE_BOUNDARY of the migrations that concern context `x` of this device. -/
def execMigrateBoundary (x : Fin 4096) (s : State) : Host.Outcome State Fault Refusal :=
  .next (
    let s := match s.migOf x with
      | some g => if g.phase = 1 ∧ g.b ≤ s.now then s.migSourceB g else s
      | none => s
    (s.migIns.filter fun g => decide (g.ctx = x.val) && decide (g.b ≤ s.now) && !g.past).foldl State.migPeerB s)

/-! ### Transfer (R398) -/

/-- A sequence as the destination opens it. -/
def MigSeq.ent (m : MigSeq) (y pool : Nat) : SeqEnt :=
  { state := if m.frozen then .frozen else .opened, ctx := y, pool := pool, kvl := m.kvl, cap := m.cap, lastTok := m.lastTok }

/-- Page slots a sequence takes: its table and its pages. -/
def MigSeq.slots (m : MigSeq) : Nat :=
  let np := (m.len + 255) / 256
  (m.ent 0 0).tblSlots + kvLayers m.kvl * (np - xferFirst m.kvl np)

/-- The pool and the partition's table hold every announced sequence. -/
def State.migFits (s : State) (g : MigIn) : Bool :=
  let h := s.fld ZXL_MIG_IN.POOL 0
  let p := ctxPart g.ctx
  let room := ((List.range' (p * 16384) 16384).filter fun q => (s.seq q).state = .closed ∧ (s.seq q).exporting = []).length
  decide ((g.seqs.map MigSeq.slots).sum ≤ (s.free h).count) && decide (g.seqs.length ≤ room)
    && g.seqs.all fun m => decide (kvEB m.kvl = kvEB (s.poolKvl h)) && decide (kvSB m.kvl = kvSB (s.poolKvl h))

/-- The destination hears of a sequence, or receives its bytes. -/
def State.takeMigSeq (s : State) (sdid x : Nat) (m : MigSeq) (bs : List Byte) : State :=
  s.modMigIn sdid x fun g =>
    if bs = [] then { g with seqs := g.seqs ++ [m] }
    else { g with seqs := g.seqs.map fun h => if h.handle = m.handle then { h with data := some bs } else h }

/-- Every sequence is announced: the destination answers whether its pool holds them. -/
def State.takeMigTotal (s : State) (g : MigIn) (n : Nat) : State :=
  if n ≠ g.seqs.length ∨ !s.migFits g then (s.dropMigIn g.sdid g.srcCtx).tellSource g.sdid g.srcCtx 0 false
  else if n = 0 then (s.dropMigIn g.sdid g.srcCtx).setFld ZXL_MIG_MAP.DONE 0 1
  else (s.modMigIn g.sdid g.srcCtx fun h => { h with total := some n }).tellSource g.sdid g.srcCtx 0 true

/-- The source hears from the destination. -/
def State.takeMigAnswer (s : State) (g : MigOut) (moved : Nat) (ok : Bool) : State :=
  match g.phase, ok with
  | 0, false => s.putMig { g with refused := true }
  | 1, false => s.abandonMig g 0x03
  | 2, false => s.abandonMig g 0x05
  | 2, true => g.left.foldl (fun s q => s.tellSeq g.dest q (s.exportBytes q)) (s.putMig { g with phase := 3 })
  | 3, true => s.endMig { g with left := g.left.drop (moved - g.moved), moved := max g.moved moved }
  | _, _ => s

/-- A migration's answer or announcement arrives (R398). -/
def State.takeMigDone (s : State) (sdid x moved : Nat) (ok : Bool) : State :=
  if sdid = s.sdid then
    match s.migOf x with
    | some g => s.takeMigAnswer g moved ok
    | none => s
  else if ok then
    match s.migInOf sdid x with
    | some g => s.takeMigTotal g moved
    | none => s
  else { s with migIns := s.migIns.filter fun g => g.dest || !(decide (g.sdid = sdid) && decide (g.srcCtx = x)) }

/-- The destination opens a sequence that has arrived, lands its pages and writes its map entry. -/
def State.landSeq (s : State) (g : MigIn) (m : MigSeq) (bs : List Byte) : State :=
  match s.newSeq (ctxPart g.ctx) with
  | (none, s) => s
  | (some q, s) =>
    let pool := s.fld ZXL_MIG_IN.POOL 0
    let s := (s.setSeq q (m.ent g.ctx pool)).takeTable q
    let s := (s.freshPages q m.len).landPages q bs
    let s := s.writeOva g.ctx (s.fld ZXL_MIG_MAP.MAP_OVA 0 * 64 + 8 * g.moved) (leBytes (m.handle + q * 2 ^ 32) 8)
    let n := g.moved + 1
    let s := s.modMigIn g.sdid g.srcCtx fun h => { h with moved := n, seqs := h.seqs.filter fun k => k.handle ≠ m.handle }
    let s := if g.total = some n then (s.dropMigIn g.sdid g.srcCtx).setFld ZXL_MIG_MAP.DONE 0 1 else s
    s.tellSource g.sdid g.srcCtx n true

/-- MIGRATE_SEQUENCE_LANDED: at the destination, sequence `seq` of the source opens in context `x`; at the source, it has
landed. -/
def execMigrateSequenceLanded (x : Fin 4096) (seq : Fin 262144) (s : State) : Host.Outcome State Fault Refusal :=
  .next (
    let s := match s.migOf x with
      | some g => if g.phase = 3 ∧ seq.val ∈ g.left then s.endMig { g with left := g.left.erase seq.val, moved := g.moved + 1 } else s
      | none => s
    match s.migIns.find? fun g => g.dest && g.past && decide (g.ctx = x.val) && g.total.isSome with
    | none => s
    | some g =>
      match g.seqs.find? fun m => m.handle = seq.val ∧ m.data.isSome with
      | some m => s.landSeq g m (m.data.getD [])
      | none => s)

end Sys2Proof.Machine
end

