-- ==== Sys2Proof/Machine/Links.lean ====
section
/-! DEFINITION. Zapiex links, their frames and their lanes; RoCEv2; boards and spans (R384 to R396). -/

namespace Sys2Proof.Machine

/-! ### Link states (R384, R385) -/

/-- The event of a link or lane (R402, R408). -/
def linkEvt (l lane evt : Nat) : Evt := { cls := 7, ins := l * 16 + lane, evt := evt, loc := l + (if lane = 15 then 0 else lane * 16) }

def State.linkState (s : State) (l : Nat) : Nat := s.fld ZXL_LNK_STATUS.STATE l
def State.setLinkState (s : State) (l st : Nat) : State := s.setFld ZXL_LNK_STATUS.STATE l st

/-- A link is down: it carries nothing, and what it held is gone. -/
def State.linkDown (s : State) (l st : Nat) : State :=
  let was := s.linkState l
  let s := (s.setLinkState l st).setFld ZXL_LNK_STATUS.WIDTH l 0
  let s := s.setLink l { spareFor := (s.link l).spareFor }
  if was = lkActive ∨ was = lkRetrain then s.timeLinkDown l else s

/-- The link enters FAILED, CABLE_ERR or INCOMPAT, which is reported (R384). -/
def State.linkBad (s : State) (l st : Nat) : State := (s.linkDown l st).raise (linkEvt l 15 0x7)

/-- The link enters RETRAIN; frames wait in their senders (R385, R386). -/
def State.startRetrain (s : State) (l : Nat) : State :=
  if s.linkState l = lkActive then (s.setLinkState l lkRetrain).modLink l fun x => { x with since := s.ntu.elapsed } else s

/-- Lanes in use: 8, or 4 on the half that holds only good lanes, or 0. The spare lane works in the place of `spare`. -/
def linkWidth (retired : Nat) (spare : Option Nat) : Nat :=
  let bad := fun h : Nat =>
    (List.range' (h * 4) 4).any (fun i => maskBit retired i && decide (spare ≠ some i))
      || (maskBit retired 8 && (match spare with | some i => decide (i / 4 = h) | none => false))
  if !bad 0 && !bad 1 then 8 else if bad 0 && bad 1 then 0 else 4

/-- The retired lanes with one more, and the lane whose place the spare takes. -/
def retireMask (retired : Nat) (spare : Option Nat) (lane : Nat) : Nat × Option Nat :=
  if maskBit retired lane ∨ lane > 8 then (retired, spare)
  else (retired + 2 ^ lane, if lane < 8 ∧ spare = none ∧ !maskBit retired 8 then some lane else spare)

/-- A lane is retired (R385). -/
def State.retireLane (s : State) (l lane : Nat) : State :=
  let m := s.fld ZXL_LNK_STATUS.RETIRED l
  if maskBit m lane ∨ lane > 8 then s
  else
    let r := retireMask m (s.link l).spareFor lane
    let w0 := s.fld ZXL_LNK_STATUS.WIDTH l
    let s := (s.setFld ZXL_LNK_STATUS.RETIRED l r.1).modLink l fun x => { x with spareFor := r.2 }
    let s := s.raise { linkEvt l lane 0x5 with retire := true }
    if s.linkState l ≠ lkActive ∧ s.linkState l ≠ lkRetrain then s.afterRetire (s.reg .HUB_CAP_RES 0)
    else
      let w := linkWidth r.1 r.2
      let s := if w = 0 then s.linkBad l lkFailed else (s.startRetrain l).setFld ZXL_LNK_STATUS.WIDTH l w
      let v := s.reg .HUB_CAP_RES 0
      s.afterRetire (if w0 = 8 ∧ w < 8 then HUB_CAP_RES.ZX_LINKS.put v (HUB_CAP_RES.ZX_LINKS.of v - 1) else v)

/-- RETIRE_GO (R385). -/
def execLaneRetire (link : Fin 8) (lane : Fin 9) (s : State) : Host.Outcome State Fault Refusal := .next (s.retireLane link lane)

/-- A lane's uncorrectable-codeword rate is over its limit (R385). -/
def execLaneErrorRate (link : Fin 8) (lane : Fin 9) (s : State) : Host.Outcome State Fault Refusal :=
  .next (if s.linkState link = lkActive ∨ s.linkState link = lkRetrain then s.retireLane link lane else s)

/-- A retrain has not reached ACTIVE within 10 ms (R386). -/
def execRetrainTimeout (link : Fin 8) (s : State) : Host.Outcome State Fault Refusal :=
  .next (
    if s.linkState link = lkRetrain ∧ s.ntu.elapsed ≥ (s.link link).since + 10000 then s.linkBad link lkFailed else s)

/-- A link's EN is written (R384). -/
def State.enableLink (s : State) (l : Nat) (en : Bool) : State :=
  if en then
    if s.fld ZXL_LNK_CTL.EN l = 1 then s else (s.setFld ZXL_LNK_CTL.EN l 1).setLinkState l lkDetect
  else (s.setFld ZXL_LNK_CTL.EN l 0).linkDown l lkDisabled

def execLinkEnable (link : Fin 8) (en : Bool) (s : State) : Host.Outcome State Fault Refusal := .next (s.enableLink link en)

/-- A link in DETECT detects a peer; none leaves DETECT while ENUM_DONE reads 0 (R384, R391). -/
def execPeerDetected (link : Fin 8) (s : State) : Host.Outcome State Fault Refusal :=
  .next (
    if s.linkState link = lkDetect ∧ s.fld ZXL_LNK_CTL.EN link = 1 ∧ s.fld ZXL_BOARD.ENUM_DONE 0 = 1 then s.setLinkState link lkTrain
    else s)

/-- The capabilities this end sends in CONFIG (R384, R388). -/
def State.ownCaps (s : State) (l : Nat) : List Byte :=
  leBytes (s.fld ZXL_CAP.ZXP_VERSIONS 0) 2 ++ leBytes (s.fld ZXL_BOARD.BOARD_ID 0) 1 ++ leBytes (s.fld ZXL_BOARD.BDID 0) 1
    ++ leBytes s.sdid 1 ++ leBytes (s.fld ZXL_SPAN.SPAN_ID 0) 2 ++ leBytes (511 - s.fld ZXL_LNK_STATUS.RETIRED l) 2
    ++ leBytes 64 2 ++ leBytes 1024 2 ++ leBytes 2048 2

/-- A TRAIN frame: the peer's capabilities arrive, and this end sends its own (R384). -/
def execTrain (f : FrameIn) (caps : LinkCaps) (s : State) : Host.Outcome State Fault Refusal :=
  .next (
    let l := f.link.val
    if !f.crcOk then s
    else if s.linkState l = lkTrain ∨ s.linkState l = lkConfig then
      let s := (s.setLinkState l lkConfig).modLink l fun x => { x with caps := some caps, peer := true }
      let s := (s.setFld ZXL_LNK_STATUS.PEER_BOARD l caps.board.toNat).setFld ZXL_LNK_STATUS.PEER_BDID l caps.bdid.toNat
      s.send (.frame l { typ := 0x0B, vc := 3, dst := 0xFF, payload := s.ownCaps l })
    else s)

/-- The peer is the one R392 puts on the link. -/
def State.cableOk (s : State) (l : Nat) (c : LinkCaps) : Bool :=
  let b := s.fld ZXL_BOARD.BDID 0
  let g := s.fld ZXL_BOARD.BOARD_ID 0
  if l < 7 then decide (c.board.toNat = g) && decide (c.bdid.toNat = b ^^^ (l + 1))
  else decide (c.board.toNat ≠ g) && decide (c.bdid.toNat = b)

/-- The highest version of a bitmap. -/
def topBit (m : Nat) : Nat := ((List.range 16).reverse.find? (maskBit m)).getD 0

/-- Frames sent and not acknowledged are sent again, in order. -/
def State.resend (s : State) (l : Nat) : State := (s.link l).unacked.foldl (fun s f => s.send (.frame l f)) s

/-- LINK_ACTIVE: training, or a retrain, ends (R384 to R386, R392). -/
def execLinkActive (link : Fin 8) (s : State) : Host.Outcome State Fault Refusal :=
  .next (
    let l := link.val
    if s.linkState l = lkRetrain then
      (((s.setLinkState l lkActive).modLink l fun x => { x with replays := 0 }).resend l).flushLink l
    else
      match decide (s.linkState l = lkConfig), (s.link l).caps with
      | true, some c =>
        let both := c.versions.toNat &&& s.fld ZXL_CAP.ZXP_VERSIONS 0
        if !s.cableOk l c then s.linkBad l lkCableErr
        else if both = 0 then s.linkBad l lkIncompat
        else
          let bad := (List.range 9).filter fun i => !maskBit c.goodLanes.toNat i
          let r := bad.foldl (fun (r : Nat × Option Nat) i => retireMask r.1 r.2 i) (s.fld ZXL_LNK_STATUS.RETIRED l, (s.link l).spareFor)
          let w := linkWidth r.1 r.2
          if w = 0 then s.linkBad l lkFailed
          else
            let s := ((s.setFld ZXL_LNK_STATUS.RETIRED l r.1).setFld ZXL_LNK_STATUS.WIDTH l w).setFld ZXL_LNK_STATUS.ZXP_VER l (topBit both)
            let s := s.modLink l fun x => { x with
              txSeq := 0, rxSeq := 0, unacked := [], replays := 0, spareFor := r.2, credits := [c.cr0, c.cr1, c.cr2] }
            (s.setLinkState l lkActive).flushLink l
      | _, _ => s)

/-! ### Frames of a link in sequence (R386, R388) -/

/-- Asks for a replay from the next frame expected. -/
def State.askReplay (s : State) (l : Nat) : State := s.sendCtl l 0x02 ((s.link l).rxSeq + 4096)

/-- FEC checks a frame that arrives (R386, R420): whether it can be used. -/
def State.fecFrame (s : State) (l : Nat) (crcOk : Bool) : Bool × State :=
  let h := s.fecHit 0x70 l
  match h.1 with
  | none => (crcOk, h.2)
  | some false => (crcOk, h.2.inc ZXL_LNK_CNT.FEC_CORR l)
  | some true => (false, h.2.inc ZXL_LNK_CNT.FEC_UNCORR l)

/-- A frame of a virtual channel arrives: in sequence it is acknowledged, its credits go back and `body` takes it; a damaged
one, or one ahead of the sequence, is answered with a NAK; one already delivered is acknowledged again. -/
def State.inSeq (s : State) (f : FrameIn) (body : State → State) : State :=
  let l := f.link.val
  let next := (s.link l).rxSeq
  let d := (f.seq.toNat + 4096 - next) % 4096
  let (ok, t) := s.fecFrame l f.crcOk
  if s.linkState l ≠ lkActive then s
  else if !ok then t.askReplay l
  else if d = 0 then
    let s := t
    let s := s.modLink l fun x => { x with rxSeq := (next + 1) % 4096 }
    let s := (s.sendCtl l 0x02 next).sendCtl l 0x01 (max 1 ((f.payload.length + 63) / 64) * 2 ^ (16 * (f.vc.toNat % 3)))
    body s
  else if d < 2048 then t.askReplay l
  else t.sendCtl l 0x02 ((next + 4095) % 4096)

/-- A frame of no virtual channel arrives: it carries the number of the next frame of its sender. -/
def State.linkLocal (s : State) (f : FrameIn) (body : State → State) : State :=
  let l := f.link.val
  let (ok, t) := s.fecFrame l f.crcOk
  if s.linkState l ≠ lkActive then s
  else if !ok then t.askReplay l
  else
    let s := t
    let ahead := (f.seq.toNat + 4096 - (s.link l).rxSeq) % 4096
    body (if ahead ≠ 0 ∧ ahead < 2048 then s.askReplay l else s)

/-- IDLE carries nothing. -/
def execIdle (f : FrameIn) (s : State) : Host.Outcome State Fault Refusal := .next (s.linkLocal f id)

/-- CREDIT (R388): 16 bits per channel. -/
def execCredit (f : FrameIn) (s : State) : Host.Outcome State Fault Refusal :=
  .next (s.linkLocal f fun s =>
    let a := f.arg.toNat
    (s.modLink f.link fun x => { x with credits := x.credits.mapIdx fun i c => c + a / 2 ^ (16 * i) % 65536 }).flushLink f.link)

/-- Frames up to number `n` are acknowledged. -/
def Link.acked (x : Link) (n : Nat) : Link :=
  let left := x.unacked.filter fun g => (n + 4096 - g.seq) % 4096 ≥ 2048
  { x with unacked := left, replays := if left.length = x.unacked.length then x.replays else 0 }

/-- ACK (R386). -/
def execAck (f : FrameIn) (s : State) : Host.Outcome State Fault Refusal :=
  .next (s.linkLocal f fun s => s.modLink f.link fun x => x.acked (f.arg.toNat % 4096))

/-- NAK (R386): earlier frames are acknowledged and the rest is replayed in order; a NAK after three replays of one frame
puts the link in RETRAIN. -/
def execNak (f : FrameIn) (s : State) : Host.Outcome State Fault Refusal :=
  .next (s.linkLocal f fun s =>
    let l := f.link.val
    let s := s.modLink l fun x => x.acked ((f.arg.toNat + 4095) % 4096)
    let x := s.link l
    if x.unacked = [] then s
    else if x.replays ≥ 3 then s.startRetrain l
    else ((s.modLink l fun x => { x with replays := x.replays + 1 }).incr ZXL_LNK_CNT.REPLAYS l x.unacked.length).resend l)

/-- A frame of reserved TYPE is dropped and counted (R387). -/
def execFrameReservedType (f : FrameIn) (s : State) : Host.Outcome State Fault Refusal :=
  .next (s.inSeq f fun s => s.inc ZXL_LNK_CNT.FEC_UNCORR f.link)

/-! ### Transfers from other devices (R133, R135, R265, R389) -/

/-- The trail instance a frame between two members belongs to: the lowest that is active and lists both, else the lowest that
is loaded. -/
def State.frameInst (s : State) (src dst : Nat) : Option Nat :=
  let ok := fun i : Nat => decide ((s.inst i).image.scope ≠ 0) && decide (s.iState i ≠ iEmpty)
    && decide (src < (s.inst i).image.members.length) && decide (dst < (s.inst i).image.members.length)
  match (List.range 16).find? fun i => ok i && s.trailActive i with
  | some i => some i
  | none => (List.range 16).find? ok

def RxXfer.adds (x : RxXfer) : Option Bool := if x.typ = 4 then none else some (decide (x.typ = 6))
/-- The issuing core. -/
def RxXfer.lcid (x : RxXfer) : Nat := x.tag / 2 ^ 23

/-- The first frame of a transfer: a kind-0 target is admitted into its window now (R133). -/
def State.rxStart (s : State) (i : Nat) (f : FrameIn) (typ : Nat) : RxXfer :=
  let a := f.arg
  let x : RxXfer := { typ := typ, src := f.src.toNat, tag := f.tag.toNat, epoch := f.epoch.toNat, arg := a.toNat, land := f.land, inst := i }
  if wbits a 63 63 = 1 then x
  else
    let tc := wbits a 47 39
    let w := (s.core tc).wins.get {} (wbits a 38 36)
    let ep := (s.boundCtx tc).map fun c => s.fld VF_CTX_STATUS.EPOCH c
    let ok := s.coreInst tc = i ∧ w.admits x.src x.lcid ∧ s.fld PRT_CNP_STATUS.CLEAR_BUSY tc = 0 ∧ (!f.land ∨ w.land ≠ none) ∧ ep ≠ none
    { x with inst := s.coreInst tc
             stale := decide (ep ≠ none ∧ ep ≠ some x.epoch)
             adm := if ok then some (w.base + wbits a 20 0, w.base + w.bound, if f.land then w.land else none) else none }

/-- A transfer waits at core `tc` for its landing cell (R135). -/
def State.rxLand (s : State) (x : RxXfer) (tc ofs cell : Nat) : State :=
  let o : Op := { id := (s.core tc).nextOp, arrival := s.arrivals, t := 9, a := BitVec.ofNat 64 x.arg, data := x.data
                  word := BitVec.ofNat 64 ((if x.typ = 4 then 0x34 else 0x35) * 2 ^ 56 + if x.typ = 6 then 2 ^ 24 else 0)
                  ctx := (s.boundCtx tc).getD 0, since := s.ntu.elapsed, turn := true, adm := some (tc, ofs, some cell)
                  reply := some (x.src, x.tag) }
  { s.modCore tc fun k => { k with ops := k.ops ++ [o], nextOp := k.nextOp + 1 } with arrivals := s.arrivals + 1 }

/-- Writes or adds the bytes of an admitted kind-1 transfer, in ascending address order: the RESP status. -/
def State.rxBlocks (s : State) (x : RxXfer) (ctx : Nat) : Nat → Nat → List Byte → Nat × State
  | 0, _, _ => (0, s)
  | fuel + 1, ova, bs =>
    if bs = [] then (0, s)
    else
      let n := min 64 (65536 - ova % 65536)
      let r : Nat × State := match place ((s.pte ctx ova).dpa ova) with
        | .canopy tc ofs =>
          match s.canopyBlocks tc x.adds 2 ofs 0 (bs.take n) with
          | (some _, s) => (3, s.endBuf tc portRemote)
          | (none, s) => (0, s.endBuf tc portRemote)
        | _ =>
          match s.trunkBlocks (ctxPart ctx) ctx x.adds 2 ova 0 (bs.take n) with
          | (some f, s) => (if f.cause = causePoison then 3 else 4, s)
          | (none, s) => (0, s)
      if r.1 ≠ 0 then r else r.2.rxBlocks x ctx fuel (ova + n) (bs.drop n)

/-- OVAs at which the pages of a range begin, its own first byte for the first. -/
def pageStarts (ova n : Nat) : List Nat :=
  (List.range ((ova + n - 1) / 65536 + 1 - ova / 65536)).map fun j => max ova ((ova / 65536 + j) * 65536)

/-- A kind-1 transfer with PF = 1 (R134, R135): its bytes lie in one range of Canopy and match a window with a landing cell, for
which it waits; else it is refused. -/
def State.rxLandOva (s : State) (x : RxXfer) (ctx ova : Nat) : Option Nat × State :=
  match s.canopySegs ctx ova x.data.length with
  | [(tc, ofs, n)] =>
    if n ≠ x.data.length then (some 1, s)
    else
      let m := s.matchWin tc ctx x.src x.lcid ofs n
      match m.1.bind (·.land) with
      | some cell => (none, m.2.rxLand x tc ofs cell)
      | none => (some 1, if m.1.isSome then m.2.inc PRT_CNP_WIN.REFUSED tc else m.2)
  | _ => (some 1, s)

/-- A kind-1 transfer passes the windows of every core whose Canopy it touches (R133, R134). -/
def State.rxAdmit (s : State) (x : RxXfer) (ctx ova : Nat) : Bool × State :=
  (s.canopySegs ctx ova x.data.length).foldl (fun r g =>
    if r.1 then
      let m := r.2.matchWin g.1 ctx x.src x.lcid g.2.1 g.2.2
      (m.1.isSome, m.2)
    else r) (true, s)

/-- A whole transfer to a kind-1 target: the status, or that it waits for a landing cell; `none` while a migration or the
restore of a golden copy holds it. -/
def State.rxTrunk (s : State) (x : RxXfer) : Option (Option Nat × State) :=
  let ctx := (s.inst x.inst).owner
  let ova := x.arg % 2 ^ 48
  let ps := (pageStarts ova x.data.length).map fun a => (a, s.pte ctx a)
  if ps.any fun p => !p.2.present then some (some 4, s)
  else if ps.any fun p => p.2.epoch ≠ x.epoch then some (some 2, s.inc PRT_XL_STREAM.EPOCH_DROP (ctxPart ctx))
  else if x.typ ≠ 4 ∧ ps.any (fun p => p.2.tier = .root) then some (some 4, s)
  else if (ps.any fun p => s.migBlocks ctx p.1 1) || s.claspOn ctx ova x.data.length || (decide (x.typ ≠ 4) && s.goldenWait ctx ova x.data.length) then none
  else if x.land then some (s.rxLandOva x ctx ova)
  else
    match s.rxAdmit x ctx ova with
    | (false, s) => some (some 1, s)
    | (true, s) =>
      let r := s.rxBlocks x ctx (x.data.length / 64 + ps.length + 1) ova x.data
      some (some r.1, r.2)

/-- A whole transfer to a window: the status, or `none` where it waits for its landing cell. -/
def State.rxWindow (s : State) (x : RxXfer) : Option Nat × State :=
  let tc := x.arg / 2 ^ 39 % 512
  if x.stale then (some 2, s.inc PRT_XL_STREAM.EPOCH_DROP (partOf tc))
  else
    match x.adm with
    | none => (some 1, s.inc PRT_CNP_WIN.REFUSED tc)
    | some (ofs, stop, land) =>
      if ofs + x.data.length > stop then (some 1, s.inc PRT_CNP_WIN.REFUSED tc)
      else
        match land with
        | none =>
          match s.canopyBlocks tc x.adds (x.data.length / 64 + 1) ofs 0 x.data with
          | (some _, s) => (some 3, s.endBuf tc portRemote)
          | (none, s) => (some 0, s.endBuf tc portRemote)
        | some cell => (none, s.rxLand x tc ofs cell)

/-- A transfer whose last frame is here is applied whole, and answered. -/
def State.rxEnd (s : State) (x : RxXfer) : State :=
  if x.arg / 2 ^ 63 % 2 = 1 then
    match s.rxTrunk x with
    | some (some st, s) => s.respond x.inst x.src x.tag st
    | some (none, s) => s
    | none =>
      let s := if x.whole then s else s.inc PRT_XL_MIG.MIG_WAITS (ctxPart (s.inst x.inst).owner)
      { s with rx := s.rx ++ [{ x with whole := true }] }
  else
    match s.rxWindow x with
    | (some st, s) => s.respond x.inst x.src x.tag st
    | (none, s) => s

/-- Transfers that a migration held go on. -/
def State.rxRetry (s : State) : State :=
  let held := s.rx.filter (·.whole)
  held.foldl State.rxEnd { s with rx := s.rx.filter fun x => !x.whole }

/-- A WRITE, ADD_F or ADD_I frame for this device. -/
def State.rxFrame (s : State) (i : Nat) (f : FrameIn) (typ : Nat) : State :=
  let mine := fun x : RxXfer => decide (x.src = f.src.toNat) && decide (x.tag = f.tag.toNat) && !x.whole
  let x := (s.rx.find? mine).getD (s.rxStart i f typ)
  let x := { x with data := x.data ++ f.payload }
  let s : State := { s with rx := s.rx.filter fun y => !mine y }
  if f.last then s.rxEnd x else { s with rx := s.rx ++ [x] }

/-- A RESP acknowledges a transfer of this device, or traps its issuer (R389). -/
def State.takeResp (s : State) (arg : Nat) : State :=
  let tag := arg / 256 % 2 ^ 32
  let c := tag / 2 ^ 23
  match (s.core c).ops.find? fun o => o.remote ∧ o.id % 2 ^ 23 = tag % 2 ^ 23 with
  | none => s
  | some o =>
    let bad := fun cause : Nat => s.failOp c o { cause := cause, addr := o.a, noGolden := true }
    match arg % 256 with
    | 0 => s.endOp c o
    | 1 => bad causeWindow
    | 2 => (s.inc ZXL_CNT.EPOCH_NAK 0).endOp c o
    | 3 => bad causePoison
    | 4 => bad causeProt
    | _ => s

/-- A TILE frame (R75, R387): mirrored data, or bytes of a cell, which the last frame fills. ARG: [8:0] LCID, [19:9] cell,
[47:24] byte offset. -/
def State.takeTile (s : State) (i : Nat) (f : FrameIn) : State :=
  let a := f.arg
  if wbits a 63 63 = 1 then s.takeMirror i f.src.toNat a.toNat f.payload
  else
    let c := wbits a 8 0
    let k := wbits a 19 9
    let x := s.cell c k
    match s.boundCtx c with
    | none => s
    | some ctx =>
      if s.fld VF_CTX_STATUS.EPOCH ctx ≠ f.epoch.toNat then s.inc PRT_XL_STREAM.EPOCH_DROP (partOf c)
      else if !x.claimable false ∨ wbits a 47 24 + f.payload.length > x.size then s
      else
        let s := (s.portWrite c portRemote (x.base + wbits a 47 24) f.payload).endBuf c portRemote
        if f.last then s.setTag c k true else s

/-! ### Control (R52, R59, R61, R70, R76, R387, R415, R421) -/

/-- Active instances that hold a trail. -/
def State.trailsOf (s : State) (trail : Nat) : List Nat :=
  (List.range 16).filter fun i => (s.inst i).image.scope ≠ 0 ∧ (s.inst i).image.trailId = trail ∧ s.trailActive i

/-- A global operation for tick `e` arrives for a trail: performed unless it is late (R52). -/
def State.globalOp (s : State) (trail e : Nat) (body : State → Nat → State) : State :=
  (s.trailsOf trail).foldl (fun s i =>
    let m := s.margin (s.inst i).image.scope e
    if m.1 then m.2.lateArrival i else body m.2 i) s.instant

/-- The instance that holds the image a TRAIL_START names. -/
def State.startInst (s : State) (digest : BitVec 384) : Option Nat :=
  (List.range 16).find? fun i => decide ((s.inst i).image.scope ≠ 0) && decide (s.iState i ≠ iEmpty)
    && decide ((s.inst i).image.digest = digest)

/-- What a TRAIL_START message says of its trail: ID, SCOPE, period, members. -/
structure StartInfo where
  trailId : Word
  scope : Nat
  period : Nat
  members : List MemberId
deriving DecidableEq, Repr

/-- This device refuses a start for tick `e`: it says so to the issuer, and, unless the trail names it as a reserve (R60),
it announces a stop with cause 0x05 to the other members (R59). -/
def State.refuseStart (s : State) (t : StartInfo) (e issuer : Nat) : State :=
  match t.members.findIdx? fun m => m.sdid = s.sdid with
  | none => s
  | some me =>
    let s := s.tellDevice issuer (.armed t.trailId (BitVec.ofNat 8 me) false) []
    if ((t.members[me]?).map (·.role)) = some 2 then s
    else
      let s := s.nextOp
      let msg := CtrlMsg.trailStop t.trailId (s.refuseBoundary e t.period (s.lead t.scope)) 5 (BitVec.ofNat 8 s.sdid) s.opSeq
      (t.members.mapIdx fun j m => (j, m)).foldl (fun s q =>
        if q.1 = me then s
        else s.sendMember { sdid := q.2.sdid, bdid := q.2.bdid, role := q.2.role, board := q.2.board, mask := 0 }
          { typ := 0x09, vc := 0, dst := q.1, src := me, msg := some msg }) s

/-- A TRAIL_START of another member arrives (R59, R395, R396): an instance that holds the image, is LOADED or STOPPED and
has its time bit enters ARMED; otherwise the device refuses. -/
def State.takeStart (s : State) (digest : BitVec 384) (e epoch issuer seq : Nat) (t : StartInfo) : State :=
  let m := s.instant.margin t.scope e
  let s := m.2
  let at_ := s.startInst digest
  if m.1 then match at_ with | some i => s.lateArrival i | none => s.lateEvent 0
  else
    let clash := s.sdidConflict || decide (issuer = s.sdid)
    let s := if clash then s.inc ZXL_CNT.SDID_CONFLICT 0 else s
    match at_ with
    | some i =>
      if !clash ∧ s.startOk i digest ∧ s.fld VF_CTX_STATUS.EPOCH (s.inst i).owner = epoch then
        (s.arm i e (issuer, seq) none).tellDevice issuer (.armed t.trailId (BitVec.ofNat 8 (s.memberIdx i)) true) []
      else s.refuseStart t e issuer
    | none => s.refuseStart t e issuer

/-- A control message arrives. -/
def State.takeCtrl (s : State) (f : FrameIn) (m : CtrlMsg) : State :=
  match m with
  | .trailStart digest e epoch issuer seq trail scope period members =>
      s.takeStart digest e epoch.toNat issuer.toNat seq ⟨trail, scope, period, members⟩
  | .trailStop trail e cause issuer seq => s.globalOp trail.toNat e fun s i => s.noteStop i e cause.toNat (issuer.toNat, seq)
  | .slip trail e slot issuer seq => s.globalOp trail.toNat e fun s i =>
      s.modInst i fun x => x.noteSlip e slot.toNat (issuer.toNat, seq)
  | .takeover trail e member issuer seq => s.globalOp trail.toNat e fun s i => s.modInst i fun x =>
      let new : Inst := { x with takeoverAt := some (e, member.toNat, issuer.toNat), takeoverBy := (issuer.toNat, seq) }
      match x.takeoverAt with
      | some (e0, _, _) => if opBefore (e, issuer.toNat, seq) (e0, x.takeoverBy) then new else x
      | none => new
  | .heartbeat trail member => (s.trailsOf trail.toNat).foldl (fun s i => s.modInst i fun x =>
      { x with missed := x.missed.set 0 member.toNat 0 }) s
  | .armed trail member ok => (s.trailsOf trail.toNat).foldl (fun s i => s.modInst i fun x =>
      if x.begun ∨ x.startReq.isNone then x
      else if ok then { x with armed := x.armed ++ [member.toNat] } else { x with refused := x.refused ++ [member.toNat] }) s
  | .snapshot trail e id issuer seq => s.globalOp trail.toNat e fun s i =>
      s.setSnaps i (s.snapsOf i ++ [{ snapId := id.toNat, e := e, sdid := issuer.toNat, seq := seq, done := none }])
  | .snapshotDone trail id member st => ((List.range 16).filter fun i => (s.inst i).image.trailId = trail.toNat).foldl (fun s i =>
      s.snapReport i id.toNat member.toNat st.toNat) s
  | .migrate src dest ctx e b epoch trail seq => s.takeMigrate src.toNat dest.toNat ctx e b epoch.toNat trail.toNat seq
  | .migrateSeq src ctx h kvl cap len tok hasLast frozen => s.takeMigSeq src.toNat ctx
      { handle := h.toNat, kvl := kvl.toNat, cap := cap, len := len, lastTok := if hasLast then some tok else none, frozen := frozen } f.payload
  | .migrateDone src ctx moved ok => s.takeMigDone src.toNat ctx moved ok

/-- Bytes of Canopy that a broken transfer had written are poisoned, with one UE event (R139, R438). -/
def State.breakCanopy (s : State) (c ofs n : Nat) : State :=
  if n = 0 then s
  else
    let words := List.range' (ofs / 8) ((ofs + n - 1) / 8 + 1 - ofs / 8)
    let s := words.foldl (fun s w => (s.setCMark c w .poison).modCore c fun k => { k with golden := k.golden.erase w }) s
    (s.inc PRT_CNP_ECC.UE_CNT c).raise (canopyEvt c (ofs / 8) 0x2)

/-- Bytes of Trunk that a broken transfer had written are poisoned, with one UE event (R296, R438). -/
def State.breakTrunk (s : State) (dpa n : Nat) : State :=
  match place dpa with
  | .trunk st o =>
    let (q, b, r) := s.trunkPlaceNow st o
    (((s.poisonDpa dpa n).inc TRK_ECC.UE_CNT st).raise (trunkEvt st q b r (trunkSector o) 0x2)).tellPoison dpa
  | _ => s

/-- A transfer whose sender has entered the fatal state is broken (R438): the bytes of the frames that have arrived count as
written, unless it waits for its landing cell or is refused. -/
def State.breakXfer (s : State) (x : RxXfer) : State :=
  let n := x.data.length
  if x.whole ∨ x.land then s
  else if x.arg / 2 ^ 63 % 2 = 1 then
    let ctx := (s.inst x.inst).owner
    let ova := x.arg % 2 ^ 48
    let ps := (pageStarts ova n).map fun a => s.pte ctx a
    if n = 0 ∨ ps.any fun e => !e.present || decide (e.epoch ≠ x.epoch) then s
    else
      match s.rxAdmit x ctx ova with
      | (false, s) => s
      | (true, s) => (ovaPieces (n / 65536 + 2) ova n).foldl (fun s q =>
          match place ((s.pte ctx q.1).dpa q.1) with
          | .canopy tc ofs => s.breakCanopy tc ofs q.2
          | _ => s.breakTrunk ((s.pte ctx q.1).dpa q.1) q.2) s
  else
    match x.adm with
    | some (ofs, stop, none) => if x.stale ∨ ofs + n > stop then s else s.breakCanopy (x.arg / 2 ^ 39 % 512) ofs n
    | _ => s

/-- Member `m` of instance `i` has entered the fatal state: every transfer of its not yet answered is broken. -/
def State.breakAll (s : State) (i m : Nat) : State :=
  let mine := fun x : RxXfer => decide (x.src = m) && decide (x.inst = i)
  let gone := s.rx.filter mine
  let s : State := { s with rx := s.rx.filter fun x => !mine x }
  let s := gone.foldl State.breakXfer s
  (maskParts (s.inst i).image.groupMask).foldl (fun s p => (List.range' (p * 32) 32).foldl (fun s c =>
    s.modCore c fun k => { k with ops := k.ops.filter fun o => (o.reply.map Prod.fst) ≠ some m }) s) s

/-- A peer's fault record arrives: where it reports the sender retired, its role passes on; where the sender is in the fatal
state, its transfers are broken (R76, R406, R414, R438). -/
def State.takeFault (s : State) (f : FrameIn) (r : PeerFault) : State :=
  if r.retired then
    match s.frameInst f.src.toNat f.dst.toNat with
    | some i => (if r.flags.toNat % 4 = 2 then s.breakAll i f.src.toNat else s).memberRetired i f.src.toNat
    | none => s
  else s

/-! ### Delivery and forwarding (R392) -/

/-- TYPE of a body (R387). -/
def frameType (b : FrameBody) : Nat :=
  match b with
  | .idle => 0x00 | .credit => 0x01 | .ack => 0x02 | .nak => 0x02 | .time _ => 0x03 | .write => 0x04 | .addF => 0x05 | .addI => 0x06
  | .resp => 0x07 | .tile => 0x08 | .ctrl _ => 0x09 | .fault _ => 0x0A | .train _ => 0x0B | .reserved => 0xFF

/-- The frame as it is sent on. -/
def onward (f : FrameIn) (b : FrameBody) : TxFrame :=
  { typ := frameType b, vc := f.vc.toNat, dst := f.dst.toNat, src := f.src.toNat, epoch := f.epoch.toNat, hops := (f.hops.toNat + 1) % 256
    arg := f.arg.toNat, tag := f.tag.toNat, last := f.last, land := f.land, payload := f.payload
    msg := match b with | .ctrl m => some m | _ => none
    retired := match b with | .fault r => r.retired | _ => false }

/-- A frame for this device does its work. -/
def State.local_ (s : State) (f : FrameIn) (b : FrameBody) : State :=
  match b with
  | .write | .addF | .addI =>
    match s.frameInst f.src.toNat f.dst.toNat with
    | some i => s.rxFrame i f (frameType b)
    | none => s
  | .resp => s.takeResp f.arg.toNat
  | .tile =>
    match s.frameInst f.src.toNat f.dst.toNat with
    | some i => s.takeTile i f
    | none => s
  | .ctrl m => s.takeCtrl f m
  | .fault r => s.takeFault f r
  | _ => s

/-- A frame is delivered: it is for this device, or is forwarded without touching its memory (R392). -/
def State.accept (s : State) (f : FrameIn) (b : FrameBody) : State :=
  if f.dst = 0xFF then s.local_ f b
  else
    match s.frameInst f.src.toNat f.dst.toNat with
    | none => s.local_ f b
    | some i =>
      if s.memberIdx i = f.dst.toNat then s.local_ f b
      else
        match (s.inst i).image.members[f.dst.toNat]? with
        | some m => (s.inc ZXL_CNT.FWD_FRAMES 0).sendMember m (onward f b)
        | none => s

/-- TIME (R38, R390). -/
def execTime (f : FrameIn) (t : TimeInfo) (s : State) : Host.Outcome State Fault Refusal :=
  .next (s.inSeq f fun s => s.takeTime f.link f.hops.toNat t)
/-- WRITE (R389). -/
def execWrite (f : FrameIn) (s : State) : Host.Outcome State Fault Refusal := .next (s.inSeq f fun s => s.accept f .write)
/-- ADD_F (R389). -/
def execAddF (f : FrameIn) (s : State) : Host.Outcome State Fault Refusal := .next (s.inSeq f fun s => s.accept f .addF)
/-- ADD_I (R389). -/
def execAddI (f : FrameIn) (s : State) : Host.Outcome State Fault Refusal := .next (s.inSeq f fun s => s.accept f .addI)
/-- RESP (R389). -/
def execResp (f : FrameIn) (s : State) : Host.Outcome State Fault Refusal := .next (s.inSeq f fun s => s.accept f .resp)
/-- TILE (R387). -/
def execTile (f : FrameIn) (s : State) : Host.Outcome State Fault Refusal := .next (s.inSeq f fun s => s.accept f .tile)
/-- CTRL (R387). -/
def execCtrl (f : FrameIn) (m : CtrlMsg) (s : State) : Host.Outcome State Fault Refusal :=
  .next (s.inSeq f fun s => s.accept f (.ctrl m))
/-- FAULT (R387, R406). -/
def execFault (f : FrameIn) (r : PeerFault) (s : State) : Host.Outcome State Fault Refusal :=
  .next (s.inSeq f fun s => s.accept f (.fault r))

/-! ### Boards and spans (R391, R395) -/

/-- The device is given a dynamic address, which it answers only while ENUM_IN is asserted (R391). -/
def execDynamicAddressAssignment (da : BitVec 7) (s : State) : Host.Outcome State Fault Refusal :=
  .next (((s.setFld ZXL_BOARD.BDID 0 (da.toNat % 8)).setFld ZXL_BOARD.ENUM_DONE 0 1).modPower fun p => { p with enumOut := true })

/-- A write of ZXL_SPAN (R395). -/
def execZxlSpanWrite (v : Word) (s : State) : Host.Outcome State Fault Refusal :=
  .next (
    if (List.range 16).any fun i => decide ((s.inst i).image.scope = 2) && s.trailActive i then s
    else ((s.setFld ZXL_SPAN.VALID 0 (ZXL_SPAN.VALID.of v)).setFld ZXL_SPAN.SPAN_ID 0 (ZXL_SPAN.SPAN_ID.of v)).setFld ZXL_SPAN.SDID 0
      (ZXL_SPAN.SDID.of v))

/-! ### RoCEv2 (R393, R394) -/

/-- The port of a QP carries traffic. -/
def State.portUp (s : State) (q : Nat) : Bool := s.fld ETH_PORT_STATUS.LINK_UP (s.fld ETH_QP_CFG.PORT q) = 1

/-- A packet arrives on the port of a QP: whether FEC lets it through (R420); the sender sends one that is lost again. A lane
group whose bucket is full is retired, and the port goes on with the other (R412, R413). -/
def State.fecPacket (s : State) (q : Nat) : Bool × State :=
  let port := s.fld ETH_QP_CFG.PORT q
  let src := s.flt.injSource
  let h := s.fecHit 0x80 port
  match h.1 with
  | some true =>
    let t := (h.2.inc ETH_PORT_STATUS.FEC_UNCORR port).bucketAdd (bkEth port (src / 4 % 2)) true
    (false, if t.2 then t.1.raise { cls := 8, ins := src % 256, evt := 0x5, loc := port + src % 16 * 16, inj := true, retire := true } else t.1)
  | _ => (true, h.2)

/-- A remote-access NAK. -/
def State.qpNak (s : State) (q va : Nat) : State := (s.inc ETH_PORT_STATUS.QP_NAKS (s.fld ETH_QP_CFG.PORT q)).send (.roce q true va [])

/-- An RDMA WRITE may land in the object: a writable data object of the context, every page of the range in Trunk. -/
def State.rdmaOk (s : State) (x h va n : Nat) : Bool :=
  match s.findObj h with
  | some o => decide (h / 2 ^ 20 = x) && decide (o.kind = 0) && o.writable && decide (va + n ≤ o.bytes)
      && (n = 0 || (pageStarts (o.ova + va) n).all fun a => (s.pte x a).present && decide ((s.pte x a).tier = .trunk))
  | none => false

/-- Bytes that land in the header of one of a context's device-resident rings act as a doorbell (R367). -/
def State.ringHit (s : State) (x ova n : Nat) : State :=
  let c := s.ctx x
  let hit := fun r : RingDesc => r.dev && decide (ova < r.base + 64) && decide (r.base < ova + n)
  if hit c.sq || hit c.cq then s.headerDoorbell x else s

/-- RDMA_WRITE (R345, R394). -/
def execRdmaWrite (qp : Fin 8192) (rkey : BitVec 32) (va : Nat) (data : List Byte) (s : State) : Host.Outcome State Fault Refusal :=
  .next (
    let q := qp.val
    let (ok, t) := s.fecPacket q
    if s.fld ETH_QP_CFG.VALID q = 0 ∨ !s.portUp q then s
    else if !ok then t
    else
      let s := t.modQp q fun x => { x with rxPsn := (x.rxPsn + 1) % 2 ^ 24 }
      let x := s.fld ETH_QP_CFG.CTX q
      if s.cState x = cKilling then s.inc PRT_ISO_CNT.ISO_DROP (ctxPart x)
      else if s.fld ETH_QP_CFG.KIND q > 1 ∨ !s.cLive x ∨ !s.rdmaOk x rkey.toNat va data.length then s.qpNak q va
      else
        match s.findObj rkey.toNat with
        | some o => (s.writeOva x (o.ova + va) data).ringHit x (o.ova + va) data.length
        | none => s)

/-- RDMA_WRITE_WITH_IMMEDIATE: a Zapiex frame on a span QP, without credits or link sequence (R394). -/
def execRdmaWriteWithImmediate (qp : Fin 8192) (f : FrameIn) (b : FrameBody) (s : State) : Host.Outcome State Fault Refusal :=
  .next (
    let q := qp.val
    let (ok, t) := s.fecPacket q
    if s.fld ETH_QP_CFG.VALID q = 0 ∨ !s.portUp q then s
    else if !ok then t
    else
      let s := t.modQp q fun x => { x with rxPsn := (x.rxPsn + 1) % 2 ^ 24 }
      if s.fld ETH_QP_CFG.KIND q ≠ 3 then s.qpNak q 0 else s.accept f b)

/-- A RoCEv2 acknowledgement: messages up to its number are acknowledged. -/
def execRoceAcknowledgement (qp : Fin 8192) (psn : BitVec 24) (s : State) : Host.Outcome State Fault Refusal :=
  .next (s.modQp qp fun x => { x with unacked := x.unacked.filter fun n => (psn.toNat + 2 ^ 24 - n) % 2 ^ 24 ≥ 2 ^ 23 })

/-- A port's link comes up in a mode, or goes down (R393, R400). -/
def execEthPortLinkChange (port : Fin 2) (mode : BitVec 2) (s : State) : Host.Outcome State Fault Refusal :=
  .next (
    if mode = 3 then s
    else
      let s := (s.setFld ETH_PORT_STATUS.MODE port mode.toNat).setFld ETH_PORT_STATUS.LINK_UP port (if mode = 0 then 0 else 1)
      if mode = 0 then s.timePortDown port else s)

end Sys2Proof.Machine
end

