-- ==== Sys2Proof/Machine/Trunk.lean ====
section
/-! DEFINITION. The Trunk controllers: address map, arbitration, check code, scrub, refresh, row repair, pseudo-channel
retirement, maintenance, traffic generators (R286 to R306, R411, R418). -/

namespace Sys2Proof.Machine

/-- A Trunk-controller-class event. -/
def ctrlEvt (st evt : Nat) : Evt := { cls := 3, ins := st, evt := evt, loc := st }

/-! ### Arbitration (R289 to R293, R444) -/

/-- Charges `cost` units to a partition, if the window has them (R291, R293). -/
def State.chargeUnits (s : State) (st p cost : Nat) : Option State :=
  let k := s.stack st
  if k.shut ∨ (k.used.map Prod.snd).sum + cost > s.windowUnits st
      ∨ (s.trkMode st = 2 ∧ k.used.get 0 p + cost > s.shareNow st p) then none
  else some (s.countUnits st p none cost)

/-- Grants a block at a place to a partition, for context `x` where one is known; `none` where it waits: for the window, for
a row that is being copied, or for a burst. -/
def State.grantBlock (s : State) (st p : Nat) (x : Option Nat) (q b r : Nat) : Option State :=
  let k := s.stack st
  let copying := k.remaps.any fun m => m.q = q ∧ m.bank = b ∧ m.row = r ∧ m.copying
  let burst := match k.burst with | some x => maskBit x.mask q && decide (s.ntu.elapsed < x.stop) | none => false
  if copying || burst || (s.chargeUnits st p (s.blockCost st p q b r)).isNone then none else some (s.serveBlock st p x q b r)

/-! ### Row repair (R299) -/

/-- The copy of the oldest remap under way ends. -/
def execRowRemapEnd (s : PartId) (st : State) : Host.Outcome State Fault Refusal :=
  .next (
    match (st.stack s).remaps.reverse.find? (·.copying) with
    | none => st
    | some m => st.modStack s fun k => { k with remaps := k.remaps.map fun x => if x = m then { x with copying := false } else x })

/-! ### Requests and their arbitration (R288 to R293, R375) -/

/-- The context of a partition whose frame a DPA lies in. -/
def State.dpaCtx (s : State) (p dpa : Nat) : Option Nat :=
  ((s.frameOwners (dpa / 65536)).find? fun e => ctxPart e.1 = p).map Prod.fst

/-- BW_SHARE of the request's context holds it back: the context has had its percentage of the partition's units in this
window, and another context of the partition has a request pending (R375). -/
def State.bwHolds (s : State) (st : Nat) (r : TrkReq) : Bool :=
  match s.dpaCtx r.part r.dpa with
  | none => false
  | some x =>
    let share := (s.ctx x).bwShare
    decide (share ≠ 0) && decide ((s.stack st).ctxUsed.get 0 x ≥ s.shareNow st r.part * share / 100)
      && (s.stack st).pend.any fun o => o.part = r.part && (match s.dpaCtx o.part o.dpa with | some y => decide (y ≠ x) | none => false)

/-- A granted request is performed: a read checks its sector; a write stores data with fresh check bytes (R294, R296, R420). -/
def State.performReq (s : State) (st : Nat) (r : TrkReq) : State :=
  match r.data with
  | none => s.readSector st r.dpa r.seen
  | some d =>
    (s.writeDpa r.dpa (leBytes d.toNat 32)).injectWrite r.dpa 32

/-- A request is granted and performed, if it can be now. -/
def State.serveReq (s : State) (st : Nat) (r : TrkReq) : Option State :=
  let w := s.trunkPlaceNow st (r.dpa % 0x1000000000)
  if s.bwHolds st r ∨ s.claspHolds r.arr r.dpa 32 then none
  else (s.grantBlock st r.part (s.dpaCtx r.part r.dpa) w.1 w.2.1 w.2.2).map fun s => s.performReq st r

/-- The first pending request that `f` names and that no earlier one to its sector holds (R288), granted and performed. -/
def State.takeReq (s : State) (st : Nat) (f : TrkReq → Bool) : Option State :=
  let l := (s.stack st).pend
  (List.range l.length).findSome? fun i =>
    match l[i]? with
    | some r =>
      if f r && !((l.take i).any fun e => e.dpa = r.dpa) then
        (s.modStack st fun k => { k with pend := l.eraseIdx i }).serveReq st r
      else none
    | none => none

/-- A partition's next request in a pass: 0 latency-critical ones and 1 normal ones in priority mode, 2 in regulated mode
while its bucket is positive, 3 any. In sealed mode a run keeps the order of arrival (R290, R292, R293). -/
def State.passReq (s : State) (st p pass : Nat) : Option State :=
  match pass with
  | 0 => s.takeReq st fun r => r.part = p && r.crit
  | 1 => s.takeReq st fun r => r.part = p && !r.crit
  | 2 =>
    let k := s.stack st
    if k.spent.get 0 p < (TRK_REG.DEPTH.of (s.trkReg st p) : Int) then s.takeReq st fun r => r.part = p else none
  | _ => s.takeReq st fun r => r.part = p && decide (s.trkMode st ≠ 2 ∨ ((s.stack st).pend.find? fun e => e.part = p) = some r)

/-- The first partition in `ord` with a request that a pass can grant. -/
def State.nextReq (s : State) (st pass : Nat) (ord : List Nat) : Option (Nat × State) :=
  ord.findSome? fun p => (s.passReq st p pass).map fun x => (p, x)

/-- Grants in a pass, partition after partition in rotation, or run after run. -/
def State.drainPass (s : State) (st pass : Nat) : Nat → List Nat → State
  | 0, _ => s
  | n + 1, ord =>
    match s.nextReq st pass ord with
    | some (p, x) => x.drainPass st pass n (if s.trkMode st = 2 then ord else ord.erase p ++ [p])
    | none => s

/-- Grants in priority mode: latency-critical blocks first, but at least 1 grant in 8 to a normal block while one is pending
(R290). -/
def State.drainPrio (s : State) (st : Nat) : Nat → List Nat → State
  | 0, _ => s
  | n + 1, ord =>
    let first := if (s.stack st).crits ≥ 7 then 1 else 0
    let got := match s.nextReq st first ord with
      | some r => some (first, r)
      | none => (s.nextReq st (1 - first) ord).map fun r => (1 - first, r)
    match got with
    | some (c, p, x) =>
      (x.modStack st fun k => { k with crits := if c = 0 ∧ k.pend.any (fun r => !r.crit) then k.crits + 1 else 0 }).drainPrio st n
        (ord.erase p ++ [p])
    | none => s

/-- Requesters 0 to 15 in the order of R67 at tick `t`. -/
def rankOrder (t : Nat) : List Nat := (List.range 16).map fun r => (r + t) % 16

/-- Pending requests are granted as the stack's mode says. -/
def State.drainReqs (s : State) (st : Nat) : State :=
  let n := (s.stack st).pend.length
  let ord := rankOrder s.now
  match s.trkMode st with
  | 0 => s.drainPrio st n ord
  | 1 => (s.drainPass st 2 n ord).drainPass st 3 n ord
  | _ => s.drainPass st 3 n ord

/-- A request arrives: it is served at once if it can be and no request of its partition or to its sector waits; else it
waits for a grant. -/
def State.newReq (s : State) (st : Nat) (r : TrkReq) : State :=
  let r := { r with arr := s.arrivals }
  let s := { s with arrivals := s.arrivals + 1 }
  if (s.stack st).pend.any fun e => e.part = r.part ∨ e.dpa = r.dpa then s.modStack st fun k => { k with pend := k.pend ++ [r] }
  else (s.serveReq st r).getD (s.modStack st fun k => { k with pend := k.pend ++ [r] })

/-- A service window begins: settings take effect, buckets are refilled, counts restart, and requests that wait are granted
(R291 to R293, R306). -/
def execServiceWindow (s : PartId) (st : State) : Host.Outcome State Fault Refusal :=
  .next (
    let x := st.modStack s fun k => { k with arbNow := none, regNow := [], used := [], ctxUsed := [], met := [], shut := false }
    let x := if x.trkMode s ≠ 1 then x else
      x.modStack s fun k => { k with spent := (List.range 16).foldl (fun (m : SMap Int) p =>
        m.set 0 p (max 0 (m.get 0 p - x.shareNow s p))) k.spent }
    if x.tkServes s then x.drainReqs s else x)

/-- A partition's read of a sector, of the class its source fixes (R288 to R296). -/
def execTrunkRead (p : PartId) (dpa : Nat) (latCrit : Bool) (seen : List Seen) (st : State) :
    Host.Outcome State Fault Refusal :=
  .next (
    let s := dpa / 0x1000000000
    if dpa % 32 ≠ 0 ∨ !st.tkServes s then st
    else st.newReq s { part := p, dpa := dpa, crit := latCrit, data := none, seen := seen })

/-- A partition's write of a sector: writes are always normal (R289, R294, R296). -/
def execTrunkWrite (p : PartId) (dpa : Nat) (data : BitVec 256) (st : State) : Host.Outcome State Fault Refusal :=
  .next (
    let s := dpa / 0x1000000000
    if dpa % 32 ≠ 0 ∨ !st.tkServes s then st
    else st.newReq s { part := p, dpa := dpa, crit := false, data := some data, seen := [] })

/-! ### Scrub and repair (R295, R297) -/

/-- The scrubber rewrites the first sector of its queue (R295). -/
def execRepairQueueRewrite (s : PartId) (st : State) : Host.Outcome State Fault Refusal :=
  .next (
    match (st.stack s).rewriteQ with
    | [] => st
    | k :: rest =>
      let x := st.modStack s fun q => { q with rewriteQ := rest }
      let m := x.tmarks.get .clean k
      if m = .ce ∨ m = .cb then x.setMark (k * 32) .clean else x)

/-- A patrol pass ends (R297): every sector has been read, corrected ones are rewritten, poisoned ones left. -/
def execPatrolScrubPassEnd (s : PartId) (st : State) : Host.Outcome State Fault Refusal :=
  .next (
    if st.fld TRK_CTL.SCRUB_EN s = 0 ∨ !st.tkServes s then st
    else
      let mine := st.tmarks.filter fun (e : Nat × Mark) => e.1 * 32 / 0x1000000000 = s
      let x := mine.foldl (fun x (e : Nat × Mark) =>
        match e.2 with
        | .ce => (x.sectorFixed s (e.1 * 32) false false false).setMark (e.1 * 32) .clean
        | .cb => (x.sectorFixed s (e.1 * 32) true false false).setMark (e.1 * 32) .clean
        | .ue => x.sectorLost s (e.1 * 32) false 3
        | _ => x) st
      x.setReg .TRK_SCRUB s (BitVec.ofNat 64 x.now))

/-! ### Refresh and temperature (R286, R298) -/

/-- A bank's refresh falls due: issued, or postponed while a clasp segment runs, which is split rather than postpone a
fifth; `rfm` is a management command. -/
def execRefreshDue (s : PartId) (q : Fin 64) (bank : Fin 64) (rfm : Bool) (st : State) : Host.Outcome State Fault Refusal :=
  .next (
    if !st.tkServes s then st
    else if rfm then st.inc TRK_REF.RFM_CNT s
    else
      let key := q.val * 64 + bank
      let n := (st.stack s).postponed.get 0 key
      if (st.stack s).clasp.any (·.started) then
        if n < 4 then st.modStack s fun k => { k with postponed := k.postponed.set 0 key (n + 1) }
        else (st.inc TRK_REF.SEG_SPLIT s).modStack s fun k => { k with postponed := k.postponed.set 0 key 0 }
      else st.modStack s fun k => { k with postponed := k.postponed.set 0 key 0 })

/-- The stack temperature is read; from 85 °C the refresh interval halves. -/
def execTemperatureReadout (s : PartId) (temp : BitVec 8) (st : State) : Host.Outcome State Fault Refusal :=
  .next (
    if st.tkState s = tkOff then st
    else (st.setFld TRK_STATUS.TEMP_C s temp.toNat).setFld TRK_STATUS.REF_2X s (if temp.toNat ≥ 85 then 1 else 0))

/-! ### Pseudo-channel retirement (R301 to R303) -/

/-- First frame that a retirement withdraws. -/
def pcFrame : Nat := 999424

/-- Retirement of a pseudo-channel: by the driver it is ignored unless the stack is ONLINE with none retired; a second one
that meets the criteria leaves the stack DEGRADED. -/
def State.retirePc (s : State) (st q : Nat) (driver : Bool) : State :=
  if s.tkState st ≠ tkOnline then s
  else if s.fld TRK_STATUS.PC_RETIRED st = 1 then
    if driver ∨ s.fld TRK_STATUS.RETIRED_PC st = q ∨ s.fld TRK_STATUS.DEGRADED st = 1 then s
    else (s.setFld TRK_STATUS.DEGRADED st 1).raise (ctrlEvt st 0x7)
  else
    let s := (s.setFld TRK_STATUS.STATE st tkRetiring).setFld TRK_STATUS.RETIRED_PC st q
    let n := swFrames - pcFrame
    let s := (s.setFrames st ((s.frames st).remove pcFrame n)).setPend st ((s.pendFrames st).remove pcFrame n)
    let s := s.modMem st fun m => { m with stageFree := m.stageFree.remove pcFrame n }
    s.placeStage st (s.stageFirst st) (s.stageTop st - s.stageFirst st)

/-- RETIRE_GO (R301, R302). -/
def execTrkRetire (s : PartId) (q : Fin 64) (st : State) : Host.Outcome State Fault Refusal := .next (st.retirePc s q true)

/-- Every 2 MiB page of a context with a frame in the withdrawn range of a stack becomes pages of 64 KiB. -/
def State.splitTop (s : State) (x st : Nat) : State :=
  let lo := trunkFrame st pcFrame
  let hi := trunkFrame st swFrames
  let pages := (s.ctx x).pages
  let split := pages.foldl (fun (m : SMap Pte) (e : Nat × Pte) =>
    if e.2.big ∧ e.2.frame < hi ∧ lo < e.2.frame + 32 then
      (List.range 32).foldl (fun m k => m.set {} (e.1 + k) { e.2 with big := false, frame := e.2.frame + k }) m
    else m) pages
  s.modCtx x fun c => { c with pages := split }

/-- Entries that name a frame. -/
def State.entriesOf (s : State) (frame : Nat) : List (Nat × Nat) :=
  s.ctxs.flatMap fun (e : Nat × Ctx) => (e.2.pages.filter fun (p : Nat × Pte) => p.2.frame = frame).map fun p => (e.1, p.1)

/-- An allocated frame in the withdrawn range moves to a free frame of the stack, or is poisoned in every sector. -/
def State.evacuate (s : State) (st f : Nat) : State :=
  let old := trunkFrame st f
  match s.takeRun false st 1 false with
  | (none, s) => (List.range 2048).foldl (fun s k => s.setMark (old * 65536 + k * 32) .poison) s
  | (some g, s) =>
    let new := trunkFrame st g
    let marks := (s.tmarks.filter fun (m : Nat × Mark) => m.1 / 2048 = old).map fun m => (m.1 % 2048, m.2)
    let s := (s.writeDpa (new * 65536) (s.readDpa (old * 65536) 65536)).inc PRT_XL_MIG.TILES_MOVED st
    let s := marks.foldl (fun s (m : Nat × Mark) => s.setMark (new * 65536 + m.1 * 32) m.2) s
    let owners := s.frameOwners old
    let s := (s.entriesOf old).foldl (fun s (e : Nat × Nat) => s.setPte e.1 e.2 { (s.ctx e.1).pages.get {} e.2 with frame := new }) s
    let ctxs := s.ctxs.map fun (e : Nat × Ctx) =>
      if ctxPart e.1 = st then (e.1, { e.2 with areaFrames := e.2.areaFrames.map fun a => if a = f then g else a }) else e
    let s : State := { s with ctxs := ctxs }
    owners.foldl (fun s (e : Nat × Obj) =>
      match (s.entriesOf new).find? fun p => p.1 = e.1 with
      | some p => s.refreshSlots e.2 (p.2 - e.2.ova / 65536)
      | none => s) s

/-- Evacuation and copy end (R302). -/
def execPcRetireEnd (s : PartId) (st : State) : Host.Outcome State Fault Refusal :=
  .next (
    if st.tkState s ≠ tkRetiring then st
    else
      let x := st.ctxList.foldl (fun x c => x.splitTop c s) st
      let lo := trunkFrame s pcFrame
      let hi := trunkFrame s swFrames
      let used := (x.ctxs.flatMap fun (e : Nat × Ctx) => (e.2.pages.map fun (p : Nat × Pte) => p.2.frame)).filter fun f => lo ≤ f ∧ f < hi
      let x := (used.dedup.mergeSort (· ≤ ·)).foldl (fun x f => x.evacuate s (f % 2 ^ 20)) x
      let q := x.fld TRK_STATUS.RETIRED_PC s
      let x := (x.setFld TRK_STATUS.STATE s tkOnline).setFld TRK_STATUS.PC_RETIRED s 1
      let x := x.raise { trunkEvt s q 0 0 0 0x5 with retire := true }
      let v := x.reg .HUB_CAP_RES 0
      x.afterRetire (HUB_CAP_RES.TRUNK_GIB.put v (HUB_CAP_RES.TRUNK_GIB.of v - 1)))

/-! ### Maintenance (R304) -/

/-- The conditions of R304 for maintenance of a stack. -/
def State.maintOk (s : State) (st : Nat) : Bool :=
  decide (s.tkState st = tkOnline)
    && (List.range 16).all (fun i => !(maskBit (s.inst i).image.groupMask st) || decide (s.iState i ∈ [iEmpty, iLoaded, iStopped]))
    && s.ctxs.all (fun (e : Nat × Ctx) => e.2.pages.all fun (p : Nat × Pte) =>
        !(p.2.present && decide (p.2.tier = .trunk) && decide (p.2.frame / 2 ^ 20 = st)))
    && decide (s.fld RTF_STATUS.STATE st = 3)
    && (List.range' (st * 256) 256).all (fun x => s.cState x = cFree)
    && (List.range 16).all fun t => decide (t = st) || decide ((s.tower t).mapHost ≠ some st)

/-- MAINT = 1 is written. -/
def execMaintEnter (s : PartId) (st : State) : Host.Outcome State Fault Refusal :=
  .next (
    if st.maintOk s then
      ((st.setFld TRK_CTL.MAINT s 1).setFld TRK_STATUS.STATE s tkMaint).modStack s fun k => { k with mirrorOff := true, leaving := false }
    else st)

/-- Bytes and marks of a stack's rows 0 to 16,382 are cleared. -/
def State.clearStack (s : State) (st : Nat) : State :=
  let a := trunkDpa st 0
  { s with trunk := zeroBytes s.trunk a spareArea
           tmarks := s.tmarks.filter fun (m : Nat × Mark) => decide (m.1 * 32 < a) || decide (a + spareArea ≤ m.1 * 32) }

/-- MAINT = 0 is written: runs stop, the stack is cleared, and the mirror begins to be rewritten. -/
def execMaintExit (s : PartId) (st : State) : Host.Outcome State Fault Refusal :=
  .next (
    if st.tkState s ≠ tkMaint ∨ st.fld TRK_CTL.MAINT s = 0 then st
    else
      let x := (List.range 64).foldl (fun x q => x.setFld TRK_BIST_STAT.BUSY (s * 64 + q) 0) (st.setFld TRK_CTL.MAINT s 0)
      (x.clearStack s).modStack s fun k => { k with leaving := true })

/-- A tower begins to mount (R334). -/
def State.startMount (s : State) (t : Nat) : State :=
  if s.fld RTF_STATUS.STATE t = 3 then s.setFld RTF_STATUS.STATE t 1 else s

/-- The mirror is rewritten, the stack leaves MAINT and the tower mounts. -/
def execMaintExitEnd (s : PartId) (st : State) : Host.Outcome State Fault Refusal :=
  .next (
    if st.tkState s = tkMaint ∧ (st.stack s).leaving then
      ((st.setFld TRK_STATUS.STATE s tkOnline).modStack s fun k => { k with mirrorOff := false, leaving := false }).startMount s
    else st)

/-! ### Traffic generators (R305) -/

/-- START. A reserved pattern starts no run. -/
def State.bistStart (s : State) (st q : Nat) : State :=
  let i := st * 64 + q
  if s.tkState st ≠ tkMaint ∨ (s.stack st).leaving ∨ s.fld TRK_BIST_STAT.BUSY i = 1 ∨ s.fld TRK_BIST_CFG.PATTERN i > 3 then s
  else ((s.setFld TRK_BIST_STAT.BUSY i 1).setFld TRK_BIST_STAT.ACCESSES i 0).setFld TRK_BIST_STAT.FAILS i 0

def execBistStart (s : PartId) (q : Fin 64) (st : State) : Host.Outcome State Fault Refusal := .next (st.bistStart s q)

/-- STOP. -/
def State.bistStop (s : State) (st q : Nat) : State := s.setFld TRK_BIST_STAT.BUSY (st * 64 + q) 0

def execBistStop (s : PartId) (q : Fin 64) (st : State) : Host.Outcome State Fault Refusal := .next (st.bistStop s q)

/-- A run ends after COUNT accesses, with `fails` mismatches, the first at the place given. -/
def execBistRunEnd (s : PartId) (q : Fin 64) (accesses fails : Nat) (row : Fin 16384) (bank : Fin 64) (sector : Fin 32)
    (mask : BitVec 36) (st : State) : Host.Outcome State Fault Refusal :=
  .next (
    let i := s.val * 64 + q
    if st.fld TRK_BIST_STAT.BUSY i = 0 ∨ st.fld TRK_BIST_CFG.COUNT i = 0 then st
    else
      let x := (st.setFld TRK_BIST_STAT.BUSY i 0).setFld TRK_BIST_STAT.ACCESSES i accesses
      if fails = 0 then x
      else if x.fld TRK_BIST_STAT.FAIL i = 1 then x.incr TRK_BIST_STAT.FAILS i fails
      else
        let x := (x.setFld TRK_BIST_STAT.FAIL i 1).incr TRK_BIST_STAT.FAILS i (fails - 1)
        (((x.setFld TRK_BIST_FAIL.ROW i row).setFld TRK_BIST_FAIL.BANK i bank).setFld TRK_BIST_FAIL.SECTOR i sector).setFld
          TRK_BIST_FAIL.BYTE_MASK i mask.toNat)

/-- A write of TRK_REG (R291, R306): it takes effect at the next window. -/
def execTrkRegWrite (s : PartId) (p : PartId) (v : Word) (st : State) : Host.Outcome State Fault Refusal :=
  .next (
    let i := s.val * 16 + p
    let others := ((List.range 16).filter (· ≠ p.val)).map fun k => st.fld TRK_REG.SHARE (s * 16 + k)
    if others.sum + TRK_REG.SHARE.of v > 2240 then st
    else
      let x := st.modStack s fun k => { k with regNow := if (k.regNow.find p).isSome then k.regNow else k.regNow.insert p (st.reg .TRK_REG i) }
      (x.setFld TRK_REG.SHARE i (TRK_REG.SHARE.of v)).setFld TRK_REG.DEPTH i (TRK_REG.DEPTH.of v))

end Sys2Proof.Machine
end

