-- ==== Sys2Proof/Machine/Clasp.lean ====
section
/-! DEFINITION. The clasp units: command records, unit operations, modes and budgets (R307 to R322). -/

namespace Sys2Proof.Machine

/-! ### Records (R312, R314) -/

/-- Refusal code of a record (R314, R322), 0 for none. `devUnit`: a unit of the device wrote it, whose logic operations may
name the mask area (R311). -/
def claspRefusal (st : Nat) (w : Rec64) (devUnit : Bool) : Nat :=
  let n := claspFrames w
  let ofs := fun d : Nat => d % 0x1000000000
  let inArea : Nat → Bool := fun d =>
    decide (d / 0x1000000000 = st) && decide (d % 65536 = 0) &&
      (decide (ofs d / 65536 + n ≤ swFrames)
        || (devUnit && claspLogic w && decide (maskArea ≤ ofs d) && decide (ofs d + n * 65536 ≤ tableArea)))
  if claspOp w = 0 ∨ claspOp w > 6 ∨ recLe w 1 1 > 1 ∨ n > 256 ∨ recLe w 0x30 16 ≠ 0
      ∨ (claspOp w = 2 ∧ claspA w ≠ 0) ∨ (!claspLogic w ∧ claspB w ≠ 0) ∨ (claspOp w ≠ 2 ∧ recLe w 0x28 8 ≠ 0) then 1
  else if claspByte0 w % 32 ≠ 0 ∨ claspBytes w % 32 ≠ 0 ∨ claspBytes w = 0 ∨ claspByte0 w + claspBytes w > 65536 then 5
  else if !(claspRuns w).all inArea then 2
  else if !(List.range n).all fun i => (claspRuns w).all fun d =>
      decide (bankPair (ofs d + i * 65536) = bankPair (ofs (claspC w) + i * 65536)) then 4
  else 0

/-! ### Unit operations (R315) -/

/-- Row activations and cost units of an operation (R308). -/
def claspActs (w : Rec64) : Nat := if claspOp w = 1 then 2 else if claspOp w = 2 then 1 else 3
def claspCost (w : Rec64) : Nat := if claspOp w = 1 then 12 else if claspOp w = 2 then 7 else 17

/-- One result sector (R308). -/
def claspByteOf (w : Rec64) (x y : Byte) (k : Nat) : Byte :=
  match claspOp w with
  | 1 => x
  | 2 => BitVec.ofNat 8 (recLe w (0x28 + k % 8) 1)
  | 3 => x &&& y
  | 4 => x ||| y
  | 5 => x ^^^ y
  | _ => x &&& ~~~y

/-- Pseudo-channel `q` is retired on a stack: its operations are the controller's (R315). -/
def State.pcGone (s : State) (st q : Nat) : Bool :=
  s.fld TRK_STATUS.PC_RETIRED st = 1 ∧ s.fld TRK_STATUS.RETIRED_PC st = q

/-- Performs operation `n` of a record: every selected operand sector is read before a sector of C is written. A sector is
written poisoned where an operand is poisoned or uncorrectable, or the status word says so (R309, R310). The answer holds
the number of sectors written poisoned. -/
def State.claspPerform (s : State) (w : Rec64) (n mask : Nat) : State × Nat :=
  let (i, q) := claspAt w n
  let bad : Nat → Bool := fun d => s.poisonedAt d 32
  let outs := (claspSectors w q).map fun e =>
    let o := i * 65536 + e.2
    let a := if claspOp w = 2 then [] else s.readDpa (claspA w + o) 32
    let b := if claspLogic w then s.readDpa (claspB w + o) 32 else []
    let p : Bool := decide (claspOp w ≠ 2) && (bad (claspA w + o) || (claspLogic w && bad (claspB w + o)) || maskBit mask e.1)
    (claspC w + o, (List.range 32).map fun k => claspByteOf w (a.getD k 0) (b.getD k 0) k, p)
  let s := outs.foldl (fun (s : State) (e : Nat × List Byte × Bool) =>
    let s := s.writeDpa e.1 e.2.1
    if e.2.2 then s.setMark e.1 .poison else s) s
  (s, (outs.filter fun e => e.2.2).length)

/-! ### Modes and budgets (R319, R320) -/

/-- A partition's records run in its trail's bursts only: Profiles 0 and 1, its trail is RUNNING, and no share of an
outside partition on a sealed stack forbids the bursts. -/
def State.claspDedicated (s : State) (st p : Nat) : Bool :=
  decide (s.fld PWR_STATUS.PROFILE 0 ≤ 1) && s.inGroup p && s.executing (s.instOf p)
    && !(decide (s.trkMode st = 2) && (List.range 16).any fun k =>
        !maskBit (s.inst (s.instOf p)).image.groupMask k && decide (TRK_REG.SHARE.of (s.trkReg st k) ≠ 0))

/-- Activations charged to a partition on a stack in this tick. -/
def State.claspActsNow (s : State) (st p : Nat) : Nat :=
  if (s.stack st).actTick = s.ntu.elapsed then (s.stack st).acts.get 0 p else 0

/-- Counts the start of an operation of `n` activations. -/
def State.claspCharge (s : State) (st p n : Nat) : State :=
  let s := s.modStack st fun k => { k with
    acts := (if k.actTick = s.ntu.elapsed then k.acts else []).set 0 p (s.claspActsNow st p + n), actTick := s.ntu.elapsed }
  s.incr PRT_CLP_BUD.ACTS_USED (st * 16 + p) n

/-- Marks the operation of record `n` of a stack. -/
def State.claspMark (s : State) (st n : Nat) (started held : Bool) : State :=
  s.modStack st fun k => { k with clasp := listMod k.clasp n fun r => { r with started := started, held := held } }

/-- Frames that a record's runs hold: first DPA and bytes. -/
def claspSpans (w : Rec64) : List (Nat × Nat) := (claspRuns w).map fun a => (a, claspFrames w * 65536)

/-- A record waits for an earlier one: with ORDERED for every one of its writer, else for one with a frame in common (R314,
R315). -/
def claspAfter (l : List ClaspRec) (r : ClaspRec) : Bool :=
  l.any fun e => (decide (recLe r.word 1 1 = 1) && decide (e.part = r.part) && decide (e.drv = r.drv)) ||
    (claspSpans e.word).any fun a => (claspSpans r.word).any fun b => decide (a.1 < b.1 + b.2) && decide (b.1 < a.1 + a.2)

/-- A request that the controller accepted before the record waits for a sector of its next operation (R315). -/
def State.claspLate (s : State) (st : Nat) (r : ClaspRec) : Bool :=
  (s.stack st).pend.any fun q => decide (q.arr < r.arr) && claspTouches r.word r.done q.dpa

/-- Starts the next operation of record `n`, if nothing runs and order, mode, budget and window let it. -/
def State.claspTry (s : State) (st n : Nat) : State :=
  let l := (s.stack st).clasp
  match l[n]? with
  | none => s
  | some r =>
    let q := (claspAt r.word r.done).2
    let k := claspActs r.word
    if l.any (·.started) ∨ claspAfter (l.take n) r ∨ s.claspLate st r then s
    else if s.pcGone st q then s.claspMark st n true false
    else
      let ded := s.claspDedicated st r.part
      let inBurst := match (s.stack st).burst with
        | some x => decide (x.inst = s.instOf r.part) && maskBit x.mask q && decide (s.ntu.elapsed < x.stop)
        | none => false
      if ded && !inBurst then s
      else if s.claspActsNow st r.part + k > s.fld PRT_CLP_BUD.BUDGET (st * 16 + r.part) then
        if r.held then s else (s.inc PRT_CLP_WAIT.BUDGET_WAITS st).claspMark st n false true
      else if ded then ((s.claspCharge st r.part k).claspMark st n true false).setFld PRT_CLP_STATUS.CLASP_MODE st 1
      else
        match s.chargeUnits st r.part (claspCost r.word) with
        | none => s
        | some s => ((s.claspCharge st r.part k).claspMark st n true false).setFld PRT_CLP_STATUS.CLASP_MODE st 1

/-- Starts the operation of the first record that may start one: records of partitions that wait hold no other's (R319). -/
def State.claspStart (s : State) (st : Nat) : State := (List.range (s.stack st).clasp.length).foldl (fun s n => s.claspTry st n) s

/-- The record whose operation runs. -/
def State.claspRun (s : State) (st : Nat) : Option (Nat × ClaspRec) :=
  ((s.stack st).clasp.mapIdx fun n r => (n, r)).find? fun e => e.2.started

/-- A driver's record ends or is refused. -/
def State.claspDrvEnd (s : State) (st tag : Nat) : State :=
  (s.setFld PRT_CLP_DRV.TAG_DONE st tag).setFld PRT_CLP_DRV.BUSY st 0

/-- The operation of record `n` has ended: the record goes on, or it completes (R315). -/
def State.claspNext (s : State) (st n : Nat) (r : ClaspRec) : State :=
  let s := s.inc PRT_CLP_OPS.UNIT_OPS st
  let s := s.modStack st fun k => { k with reissues := 0 }
  if r.done + 1 < claspCount r.word then
    s.modStack st fun k => { k with clasp := listMod k.clasp n fun r => { r with done := r.done + 1, started := false, held := false } }
  else
    let s := (s.modStack st fun k => { k with clasp := k.clasp.eraseIdx n }).inc PRT_CLP_OPS.RECORDS st
    let s := if r.drv then s.claspDrvEnd st (recLe r.word 4 4) else s
    let inBurst := match (s.stack st).burst with | some x => decide (s.ntu.elapsed < x.stop) | none => false
    if (s.stack st).clasp = [] ∧ !inBurst then s.setFld PRT_CLP_STATUS.CLASP_MODE st 0 else s

/-- The controller performs the operation of record `n` itself, on substitute rows (R315). -/
def State.claspSubstitute (s : State) (st n : Nat) (r : ClaspRec) : State :=
  let t := s.claspPerform r.word r.done 0
  ((t.1.incr PRT_CLP_ERR.POISON_WR st t.2).inc PRT_CLP_ERR.SUBST_OPS st).claspNext st n r

/-- A record is accepted behind those that the stack has. -/
def State.claspAccept (s : State) (st p : Nat) (drv : Bool) (w : Rec64) : State :=
  let s := s.modStack st fun k => { k with clasp := k.clasp ++ [{ part := p, drv := drv, word := w, arr := s.arrivals }] }
  ({ s with arrivals := s.arrivals + 1 } : State).claspStart st

/-- The base die checks the command word of an operation on pair `k` of pseudo-channel `q`, written to column 0 of row 16,383 of
bank 2k (R317): an armed injection meets it there (R420). -/
def State.claspInject (s : State) (st q k : Nat) : Option Bool × State :=
  let h := s.injHit (0x400 + st * 16 + q / 4) (trunkDpa st (rowFrame (2 * k) 16383 * 65536 + q * 256)) 32 false
  if h.1 = some false then (h.1, h.2.raise { trunkEvt st q (2 * k) 16383 0 0x1 with cb := true, inj := true }) else h

/-! ### Commands -/

/-- A unit of the device writes a record for partition `p` (R313, R314). -/
def execClaspRecord (s : PartId) (p : PartId) (r : Rec64) (st : State) : Host.Outcome State Fault Refusal :=
  .next (
    if st.tkState s = tkOff ∨ st.tkState s = tkTrain then st
    else if claspRefusal s r true ≠ 0 then st.inc PRT_CLP_ERR.REC_REJ s
    else st.claspAccept s p false r)

/-- GO = 1 (R313, R322): the record held in PRT_CLP_REC0 to PRT_CLP_REC7. -/
def State.claspGo (s : State) (st : Nat) : State :=
  if s.fld PRT_CLP_DRV.BUSY st = 1 then s
  else
    let w := recOf ((List.range 8).flatMap fun i => leBytes (s.reg .PRT_CLP_REC (st * 8 + i)).toNat 8)
    let code := if s.tkState st ≠ tkMaint then 3 else claspRefusal st w false
    let s := s.setFld PRT_CLP_DRV.REJ_CODE st code
    if code ≠ 0 then (s.inc PRT_CLP_ERR.REC_REJ st).setFld PRT_CLP_DRV.TAG_DONE st (recLe w 4 4)
    else
      (s.setFld PRT_CLP_DRV.BUSY st 1).claspAccept st st true w

def execClaspDrvGo (s : PartId) (st : State) : Host.Outcome State Fault Refusal := .next (st.claspGo s)

/-- t_op has passed and the status word is read (R317, R318, R411, R420). -/
def execClaspUnitOpEnd (s : PartId) (w : ClaspStatus) (st : State) : Host.Outcome State Fault Refusal :=
  .next (
    let x := st.claspStart s
    match x.claspRun s with
    | none => x
    | some (n, r) =>
      let (i, q) := claspAt r.word r.done
      let (_, b, row) := trunkPlace ((claspC r.word + i * 65536) % 0x1000000000)
      let e := trunkEvt s q b row 0 0x2
      let (hit, x) := x.claspInject s q (b / 2)
      let w := if hit = some true then { w with state := 3, err := 1 } else w
      if x.pcGone s q then x.claspSubstitute s n r
      else if w.state.toNat = 2 then
        let t := x.claspPerform r.word r.done w.poisMask.toNat
        let x := t.1.incr PRT_CLP_ERR.POISON_WR s t.2
        let x := if t.2 = 0 then x else x.raise e
        let x := if w.corr = 0 then x else (x.inc PRT_CLP_ERR.CORR_OPS s).raise { e with evt := 0x1 }
        let x := if (x.stack s).reissues = 0 then x else x.raise { e with evt := 0x4, retries := (x.stack s).reissues }
        (x.claspNext s n r).claspStart s
      else if w.state.toNat = 3 then
        let x := x.raise { e with evt := 0x9 }
        if w.err.toNat = 1 ∧ (x.stack s).reissues < 3 then x.modStack s fun k => { k with reissues := k.reissues + 1 }
        else
          let x := if w.err.toNat = 1 then x.retirePc s q false else x
          (x.claspSubstitute s n r).claspStart s
      else if w.state.toNat = 1 then ((x.retirePc s q false).claspSubstitute s n r).claspStart s
      else x)

/-- A held operation fits its budget again (R319). -/
def execClaspBudgetResume (s : PartId) (st : State) : Host.Outcome State Fault Refusal := .next (st.claspStart s)

/-- A dedicated burst ends (R320). -/
def execDedBurstEnd (s : PartId) (st : State) : Host.Outcome State Fault Refusal :=
  .next (
    match (st.stack s).burst with
    | some x =>
      if x.stop ≤ st.ntu.elapsed then
        let y := st.modStack s fun k => { k with burst := none }
        if (y.stack s).clasp.any (·.started) then y else y.setFld PRT_CLP_STATUS.CLASP_MODE s 0
      else st
    | none => st)

/-- A write of PRT_CLP_BUD (R322). -/
def State.writeBudget (s : State) (st p n : Nat) : State :=
  let others := (((List.range 16).filter (· ≠ p)).map fun k => s.fld PRT_CLP_BUD.BUDGET (st * 16 + k)).sum
  if others + n > 8192 then s else s.setFld PRT_CLP_BUD.BUDGET (st * 16 + p) n

def execPrtClpBudWrite (s : PartId) (p : PartId) (v : Word) (st : State) : Host.Outcome State Fault Refusal :=
  .next (st.writeBudget s p (PRT_CLP_BUD.BUDGET.of v))

end Sys2Proof.Machine
end

