-- ==== Sys2Proof/Machine/Root.lean ====
section
/-! DEFINITION. The Root towers: tile reads and writes, relocation, grants, mounts, retirement (R323 to R339, R418). -/

namespace Sys2Proof.Machine

/-! ### Relocation (R328, R329) -/

/-- Tiles of a region that are mapped. -/
def State.regionTiles (s : State) (t r : Nat) : Nat :=
  ((List.range' (r * 256) 256).filter fun k => !(s.tiles t).mem k).length

/-- A region whose count has reached RD_THRESH has been relocated. -/
def execRelocationEnd (t : PartId) (region : Nat) (s : State) : Host.Outcome State Fault Refusal :=
  .next (
    let x := s.tower t
    if s.rtServes t ∧ region < rootTiles / 256 ∧ RTF_CFG.RD_THRESH.of (s.rtfCfg t) ≤ x.counts.get x.countBase region then
      let s := s.modTower t fun x => { x with counts := x.counts.set x.countBase region 0, ladder := x.ladder.erase region }
      (s.inc RTF_RELOC.RELOCS t).wear t (s.regionTiles t region) true
    else s)

/-! ### Retirement of dies and channels (R337, R338, R413) -/

/-- Dies are retired; requests while not ONLINE, and those for dies already retired, are ignored. -/
def State.retireDies (s : State) (t : Nat) (dies : List Nat) : State :=
  let new := dies.filter fun d => d ∉ (s.tower t).deadDies
  if s.rtState t ≠ rtOnline ∨ new = [] then s
  else
    let s := (s.modTower t fun x => { x with deadDies := x.deadDies ++ new }).setFld RTF_STATUS.STATE t rtRebuilding
    let dead := (s.tower t).deadDies
    let s := (s.setFld RTF_STATUS.DIES_RETIRED t dead.length).setFld RTF_STATUS.DIE_PRESENT t
      (((List.range 16).filter (· ∉ dead)).map (2 ^ ·)).sum
    let s := new.foldl (fun s d => s.raise { rootEvt t d 0 0x5 with retire := true }) s
    s.afterRetire (s.reg .HUB_CAP_RES 0)

def execRootDieRetire (t : PartId) (die : Fin 16) (s : State) : Host.Outcome State Fault Refusal := .next (s.retireDies t [die.val])
def execRootChannelRetire (t : PartId) (ch : Fin 8) (s : State) : Host.Outcome State Fault Refusal :=
  .next (s.retireDies t [2 * ch.val, 2 * ch.val + 1])

/-- A rebuild ends: ONLINE, or READ_ONLY with three or more dies retired. How many tiles the dies held is not stated. -/
def execRebuildEnd (t : PartId) (s : State) : Host.Outcome State Fault Refusal :=
  .next (
    if s.rtState t ≠ rtRebuilding then s
    else
      let (k, s) := s.draw
      let n := Config.freeChoice k % (rootTiles - (s.tiles t).count + 1)
      let s := (s.incr RTF_RETRY.RECON t n).wear t n true
      if s.fld RTF_STATUS.DIES_RETIRED t < 3 then s.setFld RTF_STATUS.STATE t rtOnline
      else
        let s := (s.setFld RTF_STATUS.STATE t rtReadOnly).raise (rootEvt t 0 0 0x7)
        let v := s.reg .HUB_CAP_RES 0
        s.afterRetire (HUB_CAP_RES.ROOT_TIB.put v (HUB_CAP_RES.ROOT_TIB.of v - 6)))

/-! ### Reading a tile (R323 to R327) -/

/-- A tile whose retries and rebuild have failed is poisoned (R326, R417). -/
def State.tileLost (s : State) (t die tile : Nat) (inj : Bool) : State :=
  let s : State := { s with rmarks := s.rmarks.set .clean (rootFrame t tile) .poison }
  ((s.inc RTF_RETRY.UE_TILES t).raise { rootEvt t die tile 0x2 with inj := inj }).tellPoison (rootFrame t tile * 65536)

/-- An event of a die counts in its bucket, and a full bucket retires it (R412, R413). -/
def State.dieError (s : State) (t die : Nat) (inj : Bool) : State :=
  let b := s.bucketAdd (bkDie t die) inj
  if b.2 then b.1.retireDies t [die] else b.1

/-- A tile is sensed for a read: the retry ladder's outcome, its counts, the region's count (R325, R326, R328). -/
def State.senseTile (s : State) (t : Nat) (r : TileReq) : State :=
  let frame := rootFrame t r.tile
  let s := s.countRegion t r.tile
  let (k, s) := s.draw
  let live := (List.range 16).filter fun d => d ∉ (s.tower t).deadDies
  let die := live.getD (Config.freeChoice k % max 1 live.length) 0
  let h := s.injHit (0x500 + t * 16 + die) (frame * 65536) 64 false
  let s := h.2.setFld RTF_READ.LAT_MAX_US t (max (s.fld RTF_READ.LAT_MAX_US t) (min r.latUs RTF_READ.LAT_MAX_US.max))
  let got : TileOutcome := match h.1, r.out with
    | some true, .step _ => .rebuilt
    | some false, .step k => .step (if k = 0 then 1 else k)
    | _, o => o
  match got with
  | .step k =>
    let s := (s.inc RTF_READ.TILE_READS t).modTower t fun x => { x with ladder := x.ladder.set 0 (regionOf r.tile) k.val }
    if k.val = 0 then s else if k.val = 7 then s.inc RTF_RETRY.RETRY_SOFT t else s.inc RTF_RETRY.RETRY_HARD t
  | .rebuilt =>
    let s := (((s.inc RTF_READ.TILE_READS t).inc RTF_RETRY.RECON t).wear t 1 true)
    (s.raise { rootEvt t die r.tile 0x4 with retries := 8, inj := h.1.isSome }).dieError t die h.1.isSome
  | .lost => (s.tileLost t die r.tile h.1.isSome).dieError t die h.1.isSome

/-- A request that holds a grant is served: from the buffer, as poison, with the data that another sensing brought, or by
a sensing of its own, which serves every request for the tile that waits beside it (R326, R327). -/
def State.readTile (s : State) (t : Nat) (r : TileReq) : State :=
  let frame := rootFrame t r.tile
  if r.tile ∈ (s.tower t).buffer ∨ s.rmarks.get .clean frame = .poison ∨ r.sensed then s
  else
    (s.modTower t fun x => { x with pend := x.pend.map fun q => if q.tile = r.tile then { q with sensed := true } else q }).senseTile t r

/-- The first waiting read of partition `p` that a pass can grant is served: a pass of its own grants, or of lent ones
(R332). -/
def State.passTile (s : State) (t p : Nat) (lent : Bool) : Option State :=
  let l := (s.tower t).pend
  match l.findIdx? (fun r => r.part = p) with
  | none => none
  | some i =>
    match l[i]? with
    | some r =>
      if !lent && decide ((s.tower t).used.get 0 p ≥ s.slotsNow t p) then none
      else (s.takeGrant t p).map fun s => (s.modTower t fun x => { x with pend := l.eraseIdx i }).readTile t r
    | none => none

/-- Waiting reads are granted partition after partition: in rotation in shared mode, run after run in sealed mode. -/
def State.drainTiles (s : State) (t : Nat) (lent : Bool) : Nat → List Nat → State
  | 0, _ => s
  | n + 1, ord =>
    match ord.findSome? fun p => (s.passTile t p lent).map fun x => (p, x) with
    | some (p, x) => x.drainTiles t lent n (if s.rtfMode t = 1 then ord else ord.erase p ++ [p])
    | none => s

/-- Reads that wait at a tower which serves are granted: those within their partitions' own grants, then lent ones. -/
def State.grantTiles (s : State) (t : Nat) : State :=
  if s.rtServes t then
    let n := (s.tower t).pend.length
    let ord := rankOrder s.now
    let s := s.drainTiles t false n ord
    if s.rtfMode t = 1 then s else s.drainTiles t true n ord
  else s

/-- A read window begins at a tick that is a multiple of 16: settings take effect, grants are fresh, and reads that wait are
granted (R332). -/
def execRootReadWindow (t : PartId) (s : State) : Host.Outcome State Fault Refusal :=
  .next (
    if s.now % 16 ≠ 0 then s
    else (s.modTower t fun x => { x with used := [], cfgNow := none, slotNow := [], shut := false }).grantTiles t)

/-- A partition's read of a tile. It waits while its tower mounts or is not mounted, while an earlier read of its partition
waits, and for a grant (R332, R334, R335); a blank tile reads as zero and takes none (R323). -/
def execRootTileRead (t : PartId) (p : PartId) (tile : Nat) (out : TileOutcome) (latUs : Nat) (s : State) :
    Host.Outcome State Fault Refusal :=
  .next (
    let r : TileReq := { part := p, tile := tile, out := out, latUs := latUs }
    let wait := fun (s : State) => s.modTower t fun x => { x with pend := x.pend ++ [r] }
    if s.rtServes t && s.tileBlank t tile (rootFrame t tile) then s
    else if !s.rtServes t || (s.tower t).pend.any (fun q => q.part = r.part) then wait s
    else
      match s.takeGrant t p with
      | none => wait s
      | some s => s.readTile t r)

/-! ### Writing a tile (R331, R426) -/

/-- A tile write is acknowledged: its bytes are in the protected buffer. -/
def State.ackTile (s : State) (t tile : Nat) (data : List Byte) : State :=
  let f := rootFrame t tile
  let s : State := { s with root := setBytes s.root (f * 65536) data, rmarks := s.rmarks.erase f }
  let s := s.modTower t fun x => { x with buffer := x.buffer ++ [tile] }
  (s.setFld RTF_STATUS.BUF_TILES t (s.tower t).buffer.length).wear t 1 false

/-- Room in the write buffer, with VHOLD good. -/
def State.bufferOpen (s : State) (t : Nat) : Bool :=
  decide ((s.tower t).buffer.length < 64) && decide (s.fld PWR_STATUS.VHOLD_OK 0 = 1)

/-- Writes that wait are acknowledged while there is room. -/
def State.takeWrites (s : State) (t : Nat) : Nat → State
  | 0 => s
  | n + 1 =>
    match (s.tower t).waitWr with
    | [] => s
    | w :: rest =>
      if s.rtServes t ∧ s.bufferOpen t then ((s.modTower t fun x => { x with waitWr := rest }).ackTile t w.1 w.2).takeWrites t n else s

def execRootTileWrite (t : PartId) (tile : Nat) (data : List Byte) (s : State) : Host.Outcome State Fault Refusal :=
  .next (
    if s.rtState t = rtReadOnly ∨ tile ≥ rootTiles ∨ data.length ≠ 65536 then s
    else if (s.tower t).waitWr = [] ∧ s.rtServes t ∧ s.bufferOpen t then s.ackTile t tile data
    else
      let s := if (s.tower t).buffer.length < 64 then s else s.inc RTF_RELOC.BUF_WAITS t
      s.modTower t fun x => { x with waitWr := x.waitWr ++ [(tile, data)] })

/-- The oldest tile of the buffer is programmed. -/
def execRootBufferProgram (t : PartId) (s : State) : Host.Outcome State Fault Refusal :=
  .next (
    match (s.tower t).buffer with
    | [] => s
    | _ :: rest =>
      let s := (s.modTower t fun x => { x with buffer := rest }).setFld RTF_STATUS.BUF_TILES t rest.length
      s.takeWrites t 1)

/-! ### Mount and unmount (R334 to R336) -/

/-- MOUNT = 1 is written. -/
def execMount (t : PartId) (s : State) : Host.Outcome State Fault Refusal := .next (s.startMount t)

/-- A mount ends, in the way given. -/
def State.endMount (s : State) (t kind us kib : Nat) : State :=
  let s := s.setFld RTF_STATUS.STATE t (if (s.tower t).deadDies.length ≥ 3 then rtReadOnly else rtOnline)
  let s := (s.setFld RTF_STATUS.MOUNT_KIND t kind).setReg .RTF_MOUNT t
    (BitVec.ofNat 64 (kib % 2 ^ 32 + us % 2 ^ 32 * 2 ^ 32))
  let s := s.modTower t fun x => { x with ladder := [], leaving := false, mapWait := false }
  let s := s.setFld RTF_STATUS.DIE_PRESENT t (((List.range 16).filter (· ∉ (s.tower t).deadDies)).map (2 ^ ·)).sum
  let s := s.setFld RTF_WEAR.WEAR_PCT t (min RTF_WEAR.WEAR_PCT.max ((s.tower t).lifeTiles * 100 / (134217728 * 3000)))
  if kind = 3 then s.modTower t fun x => { x with counts := [], countBase := RTF_CFG.RD_THRESH.of (s.reg .RTF_CFG t) / 2 } else s

/-- A tower is mounted: accesses that waited for it go on (R334). -/
def State.mounted (s : State) (t kind us kib : Nat) : State :=
  let s := s.endMount t kind us kib
  (s.takeWrites t (s.tower t).waitWr.length).grantTiles t

def execMountEnd (t : PartId) (kind : Fin 4) (us : Nat) (replayKib : Nat) (s : State) : Host.Outcome State Fault Refusal :=
  .next (if s.rtState t = rtMounting ∧ kind ≠ 0 then s.mounted t kind us replayKib else s)

/-- A frame lies in a tower. -/
def inTower (t frame : Nat) : Bool := rootFrame t 0 ≤ frame ∧ frame < rootFrame (t + 1) 0

/-- An object has a page in a tower. -/
def State.objInTower (s : State) (x : Nat) (o : Obj) (t : Nat) : Bool := (s.objPages x o).any fun e => inTower t e.2.frame

/-- A migration, KV move or snapshot copy involves a tower. -/
def State.towerBusy (s : State) (t : Nat) : Bool :=
  s.mems.any (fun (e : Nat × MemPart) => e.2.mig.any fun m =>
      (decide (m.tier = .root) && decide (m.unit = t)) || (s.findObj m.obj).any fun o => s.objInTower m.ctx o t)
    || s.snaps.any fun (e : Nat × List Snap) => e.2.any fun g =>
      g.data.isSome && g.own.isNone && (s.findObj ((s.inst e.1).owner * 2 ^ 20 + g.snapId)).any fun o =>
        s.objInTower (s.inst e.1).owner o t

/-- UNMOUNT = 1 is written. -/
def State.startUnmount (s : State) (t : Nat) : State :=
  let held := (List.range 16).any fun i =>
    maskBit (s.inst i).image.groupMask t && decide (s.iState i ∈ [iArmed, iRunning, iStopping])
  if s.rtState t ≠ rtOnline ∨ held ∨ s.towerBusy t then s else s.modTower t fun x => { x with leaving := true }

def execUnmount (t : PartId) (s : State) : Host.Outcome State Fault Refusal := .next (s.startUnmount t)

/-- The buffer, the journal and a checkpoint are written, and the map area is released. -/
def State.endUnmount (s : State) (t : Nat) : State :=
  ((s.modTower t fun x => { x with buffer := [], leaving := false, mapWait := false }).setFld RTF_STATUS.BUF_TILES t 0).setFld
    RTF_STATUS.STATE t rtUnmounted

def execUnmountEnd (t : PartId) (s : State) : Host.Outcome State Fault Refusal :=
  .next (if (s.tower t).leaving then s.endUnmount t else s)

/-- A poisoned sector of the map has been reloaded (R418). -/
def execRootMapReloadEnd (t : PartId) (s : State) : Host.Outcome State Fault Refusal :=
  .next (
    if (s.tower t).mapWait then
      let r := s.mapRange t
      let s := s.modTower t fun x => { x with mapWait := false }
      { s with tmarks := s.tmarks.filter fun (m : Nat × Mark) =>
          !(decide (m.2 = .poison) && decide (trunkDpa r.1 r.2.1 ≤ m.1 * 32) && decide (m.1 * 32 < trunkDpa r.1 r.2.2)) }
    else s)

/-! ### Settings -/

/-- A write of RTF_SLOT: the sum of the grants is at most 100, in Seedling 24 (R332, R429). -/
def State.writeSlots (s : State) (t p n : Nat) : State :=
  let others := (((List.range 16).filter (· ≠ p)).map fun k => s.fld RTF_SLOT.SLOTS (t * 16 + k)).sum
  if others + n > (if s.fld PWR_STATUS.PROFILE 0 = 3 then 24 else 100) then s
  else
    let old := s.reg .RTF_SLOT (t * 16 + p)
    let s := s.modTower t fun x => { x with slotNow := if (x.slotNow.find p).isSome then x.slotNow else x.slotNow.insert p old }
    s.setFld RTF_SLOT.SLOTS (t * 16 + p) n

def execRtfSlotWrite (t : PartId) (p : PartId) (v : Word) (s : State) : Host.Outcome State Fault Refusal :=
  .next (s.writeSlots t p (RTF_SLOT.SLOTS.of v))

end Sys2Proof.Machine
end

