-- ==== Sys2Proof/Machine/Collector.lean ====
section
/-! DEFINITION. The Canopy scrubber, restoration of golden copies, leaky buckets, FAULT_N, injection, UCIe edges, and the
classes of events (R140, R404, R410 to R420). -/

namespace Sys2Proof.Machine

/-! ### The Canopy scrubber (R140) -/

/-- The scrubber has read a word: corrected or poisoned as any read does; a word poisoned before is left. -/
def execCanopyScrubRead (c : Lcid) (word : Fin 262144) (seen : Seen) (s : State) : Host.Outcome State Fault Refusal :=
  .next (
    if s.fld PRT_CANOPY_CFG.SCRUB_EN (partOf c) = 0 ∨ s.cMark c word = .poison then s
    else
      match s.cMark c word, seen with
      | .clean, .fixable cb => s.canopyCe c word cb false
      | .clean, .unfixable => s.canopyUe c word false
      | _, _ => (s.checkWord c word).2)

/-- A pass ends: every word has been read. -/
def execCanopyScrubPassEnd (c : Lcid) (s : State) : Host.Outcome State Fault Refusal :=
  .next (
    if s.fld PRT_CANOPY_CFG.SCRUB_EN (partOf c) = 0 then s
    else
      let s := (s.core c).cmarks.foldl (fun (s : State) (e : Nat × Mark) =>
        match e.2 with
        | .ce => s.canopyCe c e.1 false false
        | .cb => s.canopyCe c e.1 true false
        | .ue => s.canopyUe c e.1 false
        | _ => s) s
      s.setReg .PRT_CNP_SCRUB c (BitVec.ofNat 64 s.now))

/-! ### Golden copies (R416) -/

/-- Poisoned Trunk frames of a stack, lowest first, with the DPA of a golden copy that reads clean. -/
def State.restorable (s : State) (st : Nat) : List (Nat × Nat) :=
  let frames := ((s.tmarks.filter fun (e : Nat × Mark) => e.2 = .poison ∧ e.1 * 32 / 0x1000000000 = st).map fun e => e.1 / 2048).dedup
  frames.filterMap fun f =>
    (s.frameOwners f).findSome? fun (e : Nat × Obj) =>
      if !e.2.backed then none
      else
        ((s.objPages e.1 e.2).find? fun p => p.2.frame ≤ f ∧ f < p.2.frame + (if p.2.big then 32 else 1)).bind fun p =>
          match e.2.golden[p.1 + (f - p.2.frame) - e.2.ova / 65536]? with
          | some g => if s.poisonedAt g 65536 then none else some (f, g)
          | none => none

/-- The migration engine reads the golden copy of the lowest poisoned tile of a partition's stack, once its tower grants the
read, and writes it into the tile's frame (R21, R23, R416). -/
def execGoldenCopyRestore (p : PartId) (s : State) : Host.Outcome State Fault Refusal :=
  .next (
    match s.restorable p with
    | [] => s
    | (f, g) :: _ =>
      match place g with
      | .root _ _ =>
        match s.rootTile p (g / 65536) true with
        | none => s
        | some s => ((s.writeDpa (f * 65536) (s.readDpa g 65536)).chargeTrunk p none (f * 65536) 65536).inc FLT_CNT.GOLDEN_FETCH 0
      | _ => s)

/-! ### Buckets, FAULT_N, injection, edges -/

/-- PERIOD ÷ THRESH seconds have passed for a bucket (R412). -/
def execLeakyBucketDecay (bucket : Nat) (s : State) : Host.Outcome State Fault Refusal :=
  .next { s with flt := { s.flt with buckets := s.flt.buckets.set 0 bucket (s.flt.buckets.get 0 bucket - 1) } }

/-- The FAULT_N pin outside a pulse follows LEVEL (R410). -/
def State.settlePin (s : State) : State :=
  if s.fld FLT_PIN_CTL.PULSE 0 = 1 then s else { s with flt := { s.flt with pinLow := decide (s.fld FLT_PIN_CTL.LEVEL 0 = 1) } }

def execFaultNPulseEnd (s : State) : Host.Outcome State Fault Refusal := .next ((s.setFld FLT_PIN_CTL.PULSE 0 0).settlePin)

/-- GO is written (R420). -/
def State.armInjection (s : State) : State :=
  let n := s.fld FLT_INJ_TGT.COUNT 0
  if s.fld FLT_INJ_CTL.ACTIVE 0 = 1 ∨ n = 0 then s
  else
    let s : State := { s with flt := { s.flt with
      injSource := s.fld FLT_INJ_TGT.SOURCE 0, injMode := decide (s.fld FLT_INJ_TGT.MODE 0 = 1),
      injLeak := decide (s.fld FLT_INJ_TGT.LEAK 0 = 1), injAddr := s.fld FLT_INJ_ADDR.ADDR 0, injMask := s.fld FLT_INJ_MASK.MASK 0 } }
    (s.setFld FLT_INJ_CTL.REMAIN 0 n).setFld FLT_INJ_CTL.ACTIVE 0 1

def execFltInjGo (s : State) : Host.Outcome State Fault Refusal := .next s.armInjection

/-- A flit of a UCIe edge fails its CRC: replays or lane repair succeed, or the device enters the fatal state (R406, R411). -/
def execUcieFlitCrcError (inst : BitVec 8) (retries : Nat) (recovered : Bool) (s : State) : Host.Outcome State Fault Refusal :=
  .next (
    let i := inst.toNat
    if i / 4 ≠ 4 ∧ i / 4 ≠ 8 then s
    else
      let h := s.injHit (0x600 + i) 0 64 false
      h.2.raise { cls := 6, ins := i, evt := if recovered then 0x4 else 0xE, loc := i, retries := min retries 255, inj := h.1.isSome })

/-- A write of FLT_SEV_CFG for the pair FLT_SEV_SEL names (R404). -/
def State.writeSeverity (s : State) (v : Nat) : State :=
  let e := s.fld FLT_SEV_SEL.EVT 0
  let i := s.fld FLT_SEV_SEL.SCLASS 0 * 16 + e
  if v > 2 ∨ (v < evtDefault e ∧ !evtDemotable e) then s else s.setFld FLT_SEV_CFG.SEV i v

def execFltSevCfgWrite (v : Word) (s : State) : Host.Outcome State Fault Refusal := .next (s.writeSeverity (FLT_SEV_CFG.SEV.of v))

end Sys2Proof.Machine
end

