-- ==== Sys2Proof/Machine/Control.lean ====
section
/-! DEFINITION. Control instructions (R91, R95 to R99), and the events that end a thread slot's wait. -/

namespace Sys2Proof.Machine

/-- NOP (R91). -/
def execNop (c : Lcid) (t : TSlot) (s : State) : Host.Outcome State Fault Refusal :=
  .next (s.issue 0x00 c t fun _ s => s.advance c t)

/-- JMP (R95). -/
def execJmp (c : Lcid) (t : TSlot) (s : State) : Host.Outcome State Fault Refusal :=
  .next (s.issue 0x01 c t fun w s => s.modThr c t fun x => { x with pc := wbits w 13 0 })

/-- COND of R95 against zero, read as a signed value. -/
def brcCond (cond : Nat) (a : Word) : Bool :=
  match cond with
  | 0 => a.toInt = 0
  | 1 => a.toInt ≠ 0
  | 2 => a.toInt < 0
  | 3 => a.toInt ≥ 0
  | 4 => a.toInt > 0
  | _ => a.toInt ≤ 0

/-- BRC (R95). -/
def execBrc (c : Lcid) (t : TSlot) (s : State) : Host.Outcome State Fault Refusal :=
  .next (s.issue 0x02 c t fun w s => s.modThr c t fun x =>
    if brcCond (wbits w 46 44) (x.rs (wbits w 51 47)) then { x with pc := wbits w 13 0 } else { x with pc := x.pc + 1 })

/-- LOOP (R96). -/
def execLoop (c : Lcid) (t : TSlot) (s : State) : Host.Outcome State Fault Refusal :=
  .next (s.issue 0x03 c t fun w s =>
    let x := s.thr c t
    let count := if wbits w 46 46 = 1 then wbits w 37 14 else (x.rs (wbits w 51 47)).toNat
    let stop := wbits w 13 0
    if count > 2 ^ 32 - 1 then s.trap c t causeLoop (BitVec.ofNat 64 count)
    else if count = 0 then s.setThr c t { x with pc := stop + 1 }
    else if x.loops.length ≥ 4 then s.trap c t causeLoop (BitVec.ofNat 64 count)
    else s.setThr c t { x with loops := ⟨count, stop, x.pc + 1⟩ :: x.loops, pc := x.pc + 1 })

/-- ENDL (R96). -/
def execEndl (c : Lcid) (t : TSlot) (s : State) : Host.Outcome State Fault Refusal :=
  .next (s.issue 0x04 c t fun _ s =>
    let x := s.thr c t
    match x.loops with
    | [] => s.trap c t causeLoop (BitVec.ofNat 64 x.pc)
    | l :: rest =>
      if l.stop ≠ x.pc then s.trap c t causeLoop (BitVec.ofNat 64 x.pc)
      else if l.count - 1 ≠ 0 then s.setThr c t { x with loops := { l with count := l.count - 1 } :: rest, pc := l.start }
      else s.setThr c t { x with loops := rest, pc := x.pc + 1 })

/-- The schedule position (k, ofs) has been reached at tick `now`, the slips declared so far counted (R69, R97). -/
def Inst.reached (x : Inst) (now k ofs : Nat) : Bool :=
  decide (k < x.schedAt now) || (decide (k = x.schedAt now) && x.passed now ofs)

/-- WTICK (R97): a target at or before the current tick completes at once and counts LATE_CNT. A thread slot that waits has
not executed its WTICK: its program counter stays there (R109). -/
def execWtick (c : Lcid) (t : TSlot) (s : State) : Host.Outcome State Fault Refusal :=
  .next (s.issue 0x05 c t fun w s =>
    let x := s.thr c t
    let i := s.inst (s.coreInst c)
    let target : Wait :=
      if wbits w 46 46 = 0 then .tick (x.rs (wbits w 51 47)).toNat
      else .sched (i.schedAt s.now + wbits w 31 24) (wbits w 23 0)
    let late : Bool := match target with
      | .tick n => decide (n ≤ s.now)
      | .sched k ofs => i.reached s.now k ofs
      | _ => true
    if late then s.setThr c t { x with pc := x.pc + 1, lateCnt := min 65535 (x.lateCnt + 1) }
    else s.setThr c t { x with state := .waitTick, wait := target, since := s.ntu.elapsed })

/-- HALT (R98). -/
def execHalt (c : Lcid) (t : TSlot) (s : State) : Host.Outcome State Fault Refusal :=
  .next (s.issue 0x06 c t fun _ s => s.modThr c t fun x => { x with state := .halted })

/-- TRAP (R98). -/
def execTrap (c : Lcid) (t : TSlot) (s : State) : Host.Outcome State Fault Refusal :=
  .next (s.issue 0x07 c t fun w s => s.trap c t causeTrap (BitVec.ofNat 64 (wbits w 15 0)))

/-- FENCE class of an opcode as a mask bit (R99). -/
def fenceClass (op : Nat) : Nat :=
  if op = 0x34 ∨ op = 0x35 then 2
  else if 0x30 ≤ op ∧ op ≤ 0x33 then 1
  else if op = 0x40 ∨ op = 0x41 ∨ op = 0x42 ∨ op = 0x60 then 4
  else 8

/-- An earlier operation of thread slot `t` in a class of the mask has not completed (R99). -/
def Core.fenceWaits (k : Core) (t mask upto : Nat) : Bool :=
  k.allOps.any fun o => o.t = t ∧ o.id < upto ∧ (if mask = 0 then 15 else mask) &&& fenceClass (wOp o.word) ≠ 0

/-- FENCE (R99). -/
def execFence (c : Lcid) (t : TSlot) (s : State) : Host.Outcome State Fault Refusal :=
  .next (s.issue 0x08 c t fun w s =>
    let x := s.thr c t
    let k := s.core c
    let mask := wbits w 3 0
    if k.fenceWaits t mask k.nextOp then
      s.setThr c t { x with state := .blocked, wait := .fence mask k.nextOp, since := s.ntu.elapsed }
    else s.setThr c t { x with pc := x.pc + 1 })

/-- A thread in FENCE resumes once the masked earlier operations have completed (R99). -/
def execFenceRelease (c : Lcid) (t : TSlot) (s : State) : Host.Outcome State Fault Refusal :=
  .next (
    let x := s.thr c t
    match x.state, x.wait with
    | .blocked, .fence mask upto =>
      if (s.core c).fenceWaits t mask upto then s
      else s.setThr c t { x with state := .running, wait := .none, pc := x.pc + 1 }
    | _, _ => s)

/-- A thread leaves WAIT_TICK at its target tick, after the events of R66 for that tick (R97). -/
def execWtickWake (c : Lcid) (t : TSlot) (s : State) : Host.Outcome State Fault Refusal :=
  .next (
    let x := s.thr c t
    let i := s.inst (s.coreInst c)
    let due : Bool := match x.wait with
      | .tick n => decide (n ≤ s.now)
      | .sched k ofs => i.reached s.now k ofs
      | _ => false
    if x.state = .waitTick ∧ due ∧ s.turn (s.coreInst c) 7 0 then
      -- a forward step that passed the target counts as late (R33, R97)
      let late : Bool := match x.wait with
        | .tick n => decide (n < s.now)
        | _ => false
      s.setThr c t { x with state := .running, wait := .none, pc := x.pc + 1,
                            lateCnt := if late then min 65535 (x.lateCnt + 1) else x.lateCnt }
    else s)

end Sys2Proof.Machine
end

