-- ==== Sys2Proof/Machine/Security.lean ====
section
/-! DEFINITION. The security engine: debug, lifecycle, erasure, attestation, firmware update (R349 to R354). -/

namespace Sys2Proof.Machine

/-- Lifecycle states (R351). -/
def lcManufacture : Nat := 1
def lcSecured : Nat := 2
def lcRma : Nat := 3
def lcRetired : Nat := 4

/-! ### Erasure (R354) -/

/-- Step 1: every partition undergoes a partition reset; the clears it starts are step 2. -/
def State.eraseStart (s : State) : State := (List.range 16).foldl State.partReset s

/-- Every core's clear has ended, and none waits to start. -/
def State.coresClear (s : State) : Bool := (List.range 512).all fun c => !s.clearPending c

/-- The software frames of an operating stack that can be free: those not withdrawn, below what a pseudo-channel retirement
or hosted maps take. -/
def State.allFrames (s : State) (st : Nat) : Ranges :=
  if s.tkState st = tkOff ∨ s.tkState st = tkTrain then []
  else
    let k := s.stack st
    let n := ((List.range 16).filter fun t => (s.tower t).mapHost = some st).length
    let low : Ranges := [(0, pcFrame - 16384 * n)]
    let all := if s.fld TRK_STATUS.PC_RETIRED st = 1 then low else low.add pcFrame (swFrames - pcFrame)
    (k.withdrawn ++ k.withdraw).foldl (fun (r : Ranges) (e : Nat × Nat) => r.remove e.1 e.2) all

/-- Every frame of a stack waits for clearing. -/
def State.pendAll (s : State) (st : Nat) : State :=
  ((s.setFrames st []).setPend st (s.allFrames st)).modMem st fun m => { m with stageFree := [], streams := [] }

/-- Steps 3 to 5: keys, erase nonce, translation maps and the writes that wait to enter them, retained objects, frames. -/
def State.eraseStores (s : State) : State :=
  let (k, s) := s.draw
  let s : State := { s with
    sec := { s.sec with keys := [], groupKey := [], retained := [], eraseNonce := k + 1 }, root := [], rmarks := [] }
  let s : State := { s with ctxs := s.ctxs.map fun (e : Nat × Ctx) => (e.1, { e.2 with key := 0 }) }
  let s := (List.range 16).foldl (fun s t => 
    if s.rtState t = rtOff then s
    else ((s.setTiles t [(0, rootTiles)]).modTower t fun x => { x with waitWr := [], buffer := [] }).setFld RTF_STATUS.BUF_TILES t 0) s
  (List.range 16).foldl (fun s st => s.pendAll st) s

/-! ### Debug (R353) -/

/-- A debug request passes the checks of R353. -/
def State.debugOk (s : State) (tok : DebugToken) : Bool :=
  let lc := s.fld SEC_LC.STATE 0
  tok.fresh && decide (s.fld SEC_DBG.DEBUG_STATE 0 = 0) && s.sec.eraseLc.isNone
    && (decide (lc = lcManufacture) || (decide (lc = lcSecured) && tok.fenfort && tok.owner) || (decide (lc = lcRma) && tok.fenfort))

def execDebugRequest (tok : DebugToken) (s : State) : Host.Outcome State Fault Refusal :=
  .next (if s.debugOk tok then (s.setFld SEC_DBG.DEBUG_STATE 0 1).eraseStart else s.inc SEC_DBG.DBG_REFUSED 0)

/-- The erasure ends: debug opens, unless a change of the lifecycle state caused it. In RETIRED no erase nonce is left (R351). -/
def execDebugOpen (s : State) : Host.Outcome State Fault Refusal :=
  .next (
    if !s.coresClear then s
    else if s.fld SEC_DBG.DEBUG_STATE 0 = 1 then (s.eraseStores).setFld SEC_DBG.DEBUG_STATE 0 2
    else if s.sec.eraseLc.isSome then
      let s := s.eraseStores
      { s with sec := { s.sec with eraseLc := none, eraseNonce := if s.sec.eraseLc = some lcRetired then 0 else s.sec.eraseNonce } }
    else s)

/-! ### Lifecycle (R351) -/

/-- The directions in which the lifecycle state changes. -/
def lcNext (a b : Nat) : Bool := (a, b) ∈ [(lcManufacture, lcSecured), (lcSecured, lcRma), (lcSecured, lcRetired), (lcRma, lcRetired)]

def execLifecycleChange (next : BitVec 4) (s : State) : Host.Outcome State Fault Refusal :=
  .next (
    if !lcNext (s.fld SEC_LC.STATE 0) next.toNat then s
    else
      let s := s.setFld SEC_LC.STATE 0 next.toNat
      if next.toNat = lcSecured then s
      else ({ s with sec := { s.sec with eraseLc := some next.toNat } } : State).eraseStart)

/-! ### Attestation and firmware (R350, R352) -/

/-- The measurement of a code image: not stated, one value for each version that runs. `part`: 0 firmware, 1 microcode. -/
def State.codeHash (s : State) (part : Nat) : List Byte :=
  let v := ((s.fld HUB_ID.FW_MAJOR 0 * 256 + s.fld HUB_ID.FW_MINOR 0) * 2 ^ 32 + s.fld SEC_BOOT.FW_SVN 0) * 2 + part
  (List.range 48).map fun k => Config.freeByte (2 ^ 64 + v * 64 + k)

/-- Content of a measurement block, if there is one. -/
def State.measurement (s : State) (index : Nat) : Option (List Byte) :=
  if index = 0x01 then
    some [BitVec.ofNat 8 (s.fld SEC_LC.STATE 0), BitVec.ofNat 8 (s.fld SEC_BOOT.BOOT_STATE 0), BitVec.ofNat 8 (s.fld SEC_DBG.DEBUG_STATE 0)]
  else if index = 0x02 then some (s.codeHash 0)
  else if index = 0x03 then some (s.codeHash 1)
  else if index = 0x04 then some (leBytes (s.fld SEC_BOOT.ROLLBACK 0) 4 ++ leBytes (s.fld SEC_BOOT.FW_SVN 0) 4)
  else if 0x10 ≤ index ∧ index < 0x20 then
    let i := index - 0x10
    let im := (s.inst i).image
    some (if s.iState i = iEmpty then List.replicate 51 0
      else (leBytes im.digest.toNat 48).reverse ++ leBytes im.groupMask 2 ++ leBytes (s.iState i) 1)
  else none

def execSpdmGetMeasurements (index : BitVec 8) (s : State) : Host.Outcome State Fault Refusal :=
  .next (match s.measurement index.toNat with | some bs => s.send (.spdm index.toNat bs) | none => s)

/-- A firmware image offered over PLDM: kept for the next start unless its signature or security version is refused. -/
def execPldmFirmwareUpdate (img : FwImage) (s : State) : Host.Outcome State Fault Refusal :=
  .next (
    if img.signed ∧ s.fld SEC_BOOT.ROLLBACK 0 ≤ img.svn.toNat then
      { s with sec := { s.sec with fwMajor := img.major.toNat, fwMinor := img.minor.toNat, bootSvn := img.svn.toNat } }
    else s)

end Sys2Proof.Machine
end

