-- ==== Sys2Proof/Machine/Power.lean ====
section
/-! DEFINITION. Power, profiles, start-up and resets (R425 to R446). -/

namespace Sys2Proof.Machine

/-! ### Profiles (R427, R428) -/

/-- Partitions a profile powers, and its Trunk stacks: the lowest of each. -/
def profParts (p : Nat) : Nat := match p with | 0 => 16 | 1 => 8 | 2 => 4 | 3 => 1 | _ => 0
def profStacks (p : Nat) : Nat := match p with | 0 => 16 | 1 => 16 | 2 => 8 | 3 => 2 | _ => 0

def State.profile (s : State) : Nat := s.fld PWR_STATUS.PROFILE 0
/-- The device runs: its supply is good and no save is under way. -/
def State.running (s : State) : Bool := s.power.on && s.power.save.isNone
/-- A state of a stack other than OFF: it is powered and did not fail its training. -/
def State.stackUp (s : State) (st : Nat) : Bool := s.tkState st ≠ tkOff

/-- The stack that hosts a tower's map where its home stack does not hold it. -/
def State.hostOf (s : State) (t : Nat) : Option Nat :=
  let up := (List.range 16).filter s.stackUp
  if t ∈ up then none else up[t % up.length]?

/-- Maps hosted by a stack. -/
def State.hosted (s : State) (st : Nat) : Nat := ((List.range 16).filter fun t => (s.tower t).mapHost = some st).length

/-- Every tower's map goes to its host: a mounted tower whose host changes is unmounted and mounts again; hosted maps take
free frames of their hosts and give them back to be cleared. -/
def State.rehost (s : State) : State :=
  let old := (List.range 16).map s.hosted
  let s := (List.range 16).foldl (fun s t =>
    let h := s.hostOf t
    if (s.tower t).mapHost = h then s
    else
      let s := if s.rtState t ∈ [rtOnline, rtRebuilding, rtReadOnly] then (s.endUnmount t).setFld RTF_STATUS.STATE t rtMounting else s
      s.modTower t fun x => { x with mapHost := h }) s
  (List.range 16).foldl (fun s st =>
    let a := old.getD st 0
    let b := s.hosted st
    if !s.stackUp st ∨ a = b then s
    else if a < b then
      let lo := pcFrame - 16384 * b
      let s := (s.setFrames st ((s.frames st).remove lo (pcFrame - lo))).setPend st ((s.pendFrames st).remove lo (pcFrame - lo))
      let s := s.modMem st fun m => { m with stageFree := m.stageFree.remove lo (pcFrame - lo) }
      s.placeStage st (s.stageFirst st) (s.stageTop st - s.stageFirst st)
    else s.setPend st ((s.pendFrames st).add (pcFrame - 16384 * a) (16384 * (a - b)))) s

/-- Resources in service (R18, R427, R428). -/
def State.capsNow (s : State) : Word :=
  let parts := (List.range (profParts s.profile)).filter fun p => s.stackUp p && (List.range' (p * 32) 32).any fun c => c ∉ s.absent
  let cores := ((List.range 512).filter fun c => partOf c ∈ parts ∧ c ∉ s.absent).length
  let gib := (((List.range 16).filter s.stackUp).map fun st => 62 - s.fld TRK_STATUS.PC_RETIRED st - s.hosted st).sum
  let tib := 6 * ((List.range 16).filter fun t => s.rtState t ∉ [rtOff, rtReadOnly]).length
  let links := ((List.range 8).filter fun l => s.fld ZXL_LNK_STATUS.STATE l = lkActive ∧ s.fld ZXL_LNK_STATUS.WIDTH l ≥ 8).length
  let v := HUB_CAP_RES.PART_PRESENT.put (s.reg .HUB_CAP_RES 0) (parts.map (2 ^ ·)).sum
  let v := HUB_CAP_RES.TRUNK_GIB.put (HUB_CAP_RES.CORES_ACTIVE.put v cores) gib
  HUB_CAP_RES.ZX_LINKS.put (HUB_CAP_RES.ROOT_TIB.put v tib) links

/-! ### What resets keep (R436, R349, R407, R446, R459) -/

/-- Registers a warm reset keeps whole, and fields it keeps of others: counters, retirements, epochs, the I3C address
(log 65). -/
def warmWhole : List RegId :=
  [.HUB_ID, .HUB_CAP_RES, .NTU_CTL, .NTU_STATUS, .NTU_TE, .NTU_GUARD, .NTU_LEAD, .NTU_SERVO, .NTU_PTP_CFG, .NTU_TOD_SET, .NTU_ZX_ASYM,
   .NTU_MARGIN, .NTU_EVT, .NTU_STEP_DELTA, .PRT_CNP_ECC, .PRT_CNP_WIN, .PRT_LAT_CNT, .PRT_LAT_ECC, .PRT_OUT_CNT, .PRT_OUT_TRK,
   .PRT_KV_COW, .PRT_KV_CNT, .PRT_KV_ATT, .PRT_KV_XFER, .PRT_DS_ACC, .PRT_DS_SEQ, .PRT_DS_SMP, .PRT_DS_RTE, .PRT_DS_ERR]
  ++ [.PRT_XL_MIG, .PRT_XL_STREAM, .TRK_ECC, .TRK_REF, .PRT_CLP_OPS, .PRT_CLP_ERR, .PRT_CLP_WAIT, .RTF_READ, .RTF_RETRY, .RTF_RELOC,
   .RTF_WEAR, .PRT_ISO_CNT, .SEC_LC, .SEC_BOOT, .SEC_DBG, .VF_INFO, .VF_CTX_CNT, .ZXL_CNT, .ZXL_LNK_CNT, .FLT_CNT, .PWR_STATUS,
   .PWR_CNT, .PWR_SAG]
def warmFields : List Fld :=
  [PRT_CNP_STATUS.CLEAR_CNT, PRT_RADD_STATUS.UNORD_CNT, PRT_OUT_STATUS.INVALID_DRAINS, TRK_STATUS.PC_RETIRED, TRK_STATUS.RETIRED_PC,
   TRK_STATUS.DEGRADED, TRK_REG.SERVED, TRK_REPAIR.REMAP_CNT, TRK_REPAIR.FRAMES_WD, PRT_CLP_STATUS.DED_BURSTS, PRT_CLP_BUD.ACTS_USED,
   RTF_STATUS.DIES_RETIRED, RTF_SLOT.SERVED, HIF_STATUS.BAD_ACCESS, VF_CTX_STATUS.EPOCH, ZXL_BOARD.ENUM_DONE, ZXL_BOARD.BDID,
   ZXL_LNK_STATUS.RETIRED,
   ETH_PORT_STATUS.FEC_UNCORR, ETH_PORT_STATUS.QP_NAKS, FLT_CTL.LOG_RD, FLT_STATUS.LOG_WR, FLT_STATUS.LOST]

/-- The same of a cold reset: what Root metadata and fuses hold, and what says why the device restarts. -/
def coldWhole : List RegId := [.SEC_LC, .PWR_CNT, .PWR_SAG]
def coldFields : List Fld :=
  [TRK_STATUS.PC_RETIRED, TRK_STATUS.RETIRED_PC, TRK_STATUS.DEGRADED, RTF_STATUS.DIES_RETIRED, SEC_BOOT.ROLLBACK,
   ZXL_LNK_STATUS.RETIRED, PWR_STATUS.SAG_LOG_VALID, PWR_STATUS.RESET_CAUSE]

/-- The registers a reset leaves: kept fields with their values, the rest at reset values. -/
def State.keptRegs (s : State) (cold : Bool) : SMap Word :=
  let whole := (if cold then coldWhole else warmWhole).map RegId.num
  let fields := if cold then coldFields else warmFields
  let kept := s.regs.filter fun (e : Nat × Word) => e.1 % 256 ∈ whole
  let part := s.regs.foldl (fun (m : SMap Word) (e : Nat × Word) =>
    let mine := fields.filter fun f => f.reg.num = e.1 % 256
    match mine.head? with
    | none => m
    | some f0 =>
      let r := regReset f0.reg (e.1 / 256)
      m.set r e.1 (mine.foldl (fun w f => f.put w (f.of e.2)) r)) []
  part.foldl (fun (m : SMap Word) (e : Nat × Word) => m.insert e.1 e.2) kept

/-- Objects that a reset retains besides those not adopted: a name, and every tile in Root, or a golden copy. -/
def State.retainNow (s : State) : List Retained :=
  s.ctxs.flatMap fun (e : Nat × Ctx) => if !s.cLive e.1 then [] else e.2.objs.filterMap fun o =>
    let frames := s.objFrames e.1 o
    let inRoot : Bool := decide (o.kind ∈ [0, 1, 3]) && frames.all fun f => decide (rootBase ≤ f * 65536) && decide (f * 65536 < canopyBase)
    if o.rname = 0 ∨ o.owner ≠ e.1 ∨ !(o.backed || inRoot) then none
    else
      let tiles := if o.backed then o.golden.map (· / 65536) else frames
      some { rname := o.rname, part := ctxPart e.1, kind := o.kind, bytes := o.bytes, big := o.big, key := o.key
             groupKey := o.groupKey, backed := o.backed, tower := (tiles.headD 0 - rootFrame 0 0) / 134217728, tiles := tiles }

/-- What is left of cores whose contents are lost: the counters of their thread slots. -/
def State.countedCores (s : State) : SMap Core :=
  s.cores.foldl (fun (m : SMap Core) (e : Nat × Core) => m.set {} e.1
    { threads := e.2.threads.foldl (fun (t : SMap Thread) (x : Nat × Thread) =>
        t.set {} x.1 { trapCnt := x.2.trapCnt, lateCnt := x.2.lateCnt }) [] }) []

/-- The device after a reset wipes what R436 says it wipes. -/
def State.wipe (s : State) (cold : Bool) : State :=
  let kept := s.sec.retained ++ s.retainNow
  let tiles := kept.flatMap (·.tiles)
  let keys : SMap KeyEnt := s.sec.keys.filter fun (e : Nat × KeyEnt) => kept.any fun o => o.key = e.1
  { pending := s.pending, freeCnt := s.freeCnt, outs := s.outs, host := s.host
    regs := s.keptRegs cold
    ntu := if cold then {} else s.ntu
    cores := if cold then [] else s.countedCores
    nextObj := s.nextObj, arrivals := s.arrivals, opSeq := s.opSeq
    ctxs := if cold then [] else (s.ctxs.filter fun (e : Nat × Ctx) => e.2.used).map fun e => (e.1, { used := true })
    root := s.root.filter fun (e : Nat × Byte) => e.1 / 65536 ∈ tiles
    rmarks := s.rmarks.filter fun (e : Nat × Mark) => e.1 ∈ tiles
    hbm := (List.range 16).foldl (fun (m : SMap Stack) st =>
      m.set {} st { withdrawn := (s.stack st).withdraw.foldl (fun (r : Ranges) e => r.add e.1 e.2) (s.stack st).withdrawn }) []
    towers := (List.range 16).foldl (fun (m : SMap Tower) t =>
      let x := s.tower t
      m.set {} t { counts := x.counts, countBase := x.countBase, deadDies := x.deadDies, lifeTiles := x.lifeTiles
                   wrTiles := if cold then 0 else x.wrTiles, relocTiles := if cold then 0 else x.relocTiles }) []
    power :=
      if cold then { pins := s.power.pins, servoSaved := s.power.servoSaved }
      else { stages := s.power.stages.filter (· ≤ 4), on := s.power.on, before := s.power.before, temp := s.power.temp, pins := s.power.pins
             wakeLow := s.power.wakeLow, perstHigh := s.power.perstHigh, enumOut := s.power.enumOut, servoSaved := s.power.servoSaved }
    absent := s.absent, dead := s.dead, lcidPos := s.lcidPos
    flt := if cold then { saved := s.flt.saved } else { log := s.flt.log, saved := s.flt.saved, storeEcc := s.flt.storeEcc }
    sec := { s.sec with keys := keys, groupKey := s.sec.groupKey.filter fun (e : Nat × Nat) => (keys.find e.2).isSome, retained := kept } }

/-- The clears that a warm reset performs on every core are counted (R142). DESIGN CHOICE (log 83): those of a cold reset,
which clears CLEAR_CNT, leave it 0. -/
def State.countClears (s : State) : State :=
  ((List.range 512).filter fun c => c ∉ s.absent).foldl (fun s c => s.inc PRT_CNP_STATUS.CLEAR_CNT c) s

/-- Remaps have been made permanent by a reset: their number (R300). -/
def State.afterRepair (s old : State) : State :=
  (List.range 16).foldl (fun s st => s.setFld TRK_REPAIR.PPR_CNT st (min TRK_REPAIR.PPR_CNT.max (old.stack st).remaps.length)) s

def State.resetAll (s : State) (cold : Bool) : State :=
  let t := ((s.wipe cold).afterRepair s).setFld PWR_STATUS.THROT_LEVEL 0 0
  if cold then t else t.countClears


/-! ### Start sequence (R434, R435) -/

/-- Stages that a stage depends on. -/
def stageDeps (k : Nat) : List Nat :=
  match k with
  | 2 => [1] | 3 => [2] | 4 => [3] | 5 => [4] | 6 => [4] | 7 => [6] | 8 => [5] | 9 => [1] | 10 => [5, 6, 7, 8, 9] | 11 => [4] | _ => []

/-- Stage `k` may end now. -/
def State.stageDue (s : State) (k : Nat) : Bool :=
  s.running && !s.warming && decide (1 ≤ k) && decide (k ≤ 11) && decide (k ∉ s.power.stages) && decide (s.profile ≤ 3)
    && (stageDeps k).all fun j => j ∈ s.power.stages

def State.endStage (s : State) (k : Nat) : State := s.modPower fun p => { p with stages := k :: p.stages }

/-- Training of the profile's stacks begins. -/
def State.startTrain (s : State) : State :=
  if 4 ∉ s.power.stages then s
  else (List.range (profStacks s.profile)).foldl (fun s st => if s.tkState st = tkOff then s.setFld TRK_STATUS.STATE st tkTrain else s) s

/-- A stack has trained: its free frames wait for clearing. -/
def State.bringUp (s : State) (st : Nat) : State := s.setFld TRK_STATUS.STATE st tkOnline

/-- Working positions of a cluster, in ascending order. -/
def State.workPos (s : State) (cl : Nat) : List Nat := (List.range 9).filter fun q => !maskBit (s.dead.get 0 cl) q

/-- Firmware maps each LCID of the partitions given to a working core of its cluster; those of a cluster with more than one
retired core that find none, the highest-numbered, are absent (R13). -/
def State.mapLcids (s : State) (parts : List Nat) : State :=
  let pos := fun c : Nat => (s.workPos (c / 8))[c % 8]?
  let mine := (List.range 512).filter fun c => partOf c ∈ parts
  { s with
    absent := (s.absent.filter fun c => partOf c ∉ parts) ++ mine.filter fun c => (pos c).isNone
    lcidPos := mine.foldl (fun (m : SMap Nat) c => m.set 0 c (match pos c with | some q => q + 1 | none => 0)) s.lcidPos }

/-- Tiles that retained objects hold. -/
def State.keptTiles (s : State) (t : Nat) : List Nat :=
  (s.sec.retained.flatMap (·.tiles)).filterMap fun f => if inTower t f then some (f - rootFrame t 0) else none

/-- A powered tower begins to mount at start-up. -/
def State.firstMount (s : State) (t : Nat) : State :=
  if !s.stackUp t ∧ (s.tower t).mapHost = none then s
  else
    let s := s.setTiles t ((s.keptTiles t).foldl (fun (r : Ranges) k => r.remove k 1) [(0, rootTiles)])
    s.setFld RTF_STATUS.STATE t rtMounting

/-- Stage 6: the stacks have trained, but for those of a mask. -/
def State.endTraining (s : State) (bad : Nat) : State :=
  let s := (List.range (profStacks s.profile)).foldl (fun s st =>
    if s.tkState st ≠ tkTrain then s
    else if maskBit bad st then (s.setFld TRK_STATUS.STATE st tkOff).raise { ctrlEvt st 0x5 with retire := true }
    else s.bringUp st) s
  let s := s.rehost
  let s := (List.range 16).foldl (fun s st => s.pendAll st) s
  (List.range 16).foldl State.firstMount s

/-- Stage 7: the towers have mounted, but for those of a mask. -/
def State.endMounts (s : State) (bad : Nat) : State :=
  (List.range 16).foldl (fun s t =>
    if s.rtState t = rtMounting ∧ maskBit bad t then (s.setFld RTF_STATUS.STATE t rtOff).raise { rootEvt t 0 0 0x5 with retire := true }
    else s) s

/-- Stage 2: the firmware image is verified, or refused (R350). -/
def State.verify (s : State) (ok : Bool) : State :=
  if ok ∧ s.fld SEC_BOOT.ROLLBACK 0 ≤ s.sec.bootSvn then
    let s := (s.setFld SEC_BOOT.BOOT_STATE 0 1).setFld SEC_BOOT.FW_SVN 0 s.sec.bootSvn
    ((s.setFld HUB_ID.FW_MAJOR 0 s.sec.fwMajor).setFld HUB_ID.FW_MINOR 0 s.sec.fwMinor).endStage 2
  else s.setFld SEC_BOOT.BOOT_STATE 0 2

/-- Stage 10: HUB_CAP_RES is written and the device is ready. -/
def State.becomeReady (s : State) : State :=
  let s := ((s.rewriteCaps s.capsNow).setFld HIF_STATUS.READY 0 1).endStage 10
  let n := min s.sec.bootSvn SEC_BOOT.ROLLBACK.max
  if s.fld SEC_BOOT.ROLLBACK 0 < n then s.setFld SEC_BOOT.ROLLBACK 0 n else s

/-- A stage ends: `ok` and `bad` say what failed. Stage 3 ends by PROF_SAMPLE. -/
def execStartStageEnd (stage : Fin 12) (ok : Bool) (bad : BitVec 16) (s : State) : Host.Outcome State Fault Refusal :=
  .next (
    let k := stage.val
    if !s.stageDue k then s
    else
      match k with
      | 2 => s.verify ok
      | 3 => s
      | 4 => if s.ntu.pllLocked then (s.endStage 4).startTrain else s
      | 5 => ((List.range 8).foldl (fun s l =>
          if s.fld ZXL_LNK_CTL.EN l = 1 ∧ s.linkState l = lkDisabled then s.setLinkState l lkDetect else s) (s.mapLcids (List.range 16))).endStage 5
      | 6 => (s.endTraining bad.toNat).endStage 6
      | 7 =>
        let s' := s.endMounts bad.toNat
        if (List.range 16).all fun t => decide (s'.rtState t ≠ rtMounting) then s'.endStage 7 else s
      | 9 => if s.fld PWR_STATUS.VHOLD_OK 0 = 1 then s.endStage 9 else s
      | 10 => s.becomeReady
      | 11 => if s.dState = dLocked then s.endStage 11 else s
      | _ => s.endStage k)

/-- PROF[1:0] has been steady for 1,000 samples (R430, R453). -/
def execProfSample (v : BitVec 2) (s : State) : Host.Outcome State Fault Refusal :=
  .next (
    let s := s.modPower fun p => { p with pins := v.toNat }
    if s.stageDue 3 then ((s.setFld PWR_STATUS.PROF_PINS 0 v.toNat).setFld PWR_STATUS.PROFILE 0 v.toNat).endStage 3 else s)

/-! ### Supplies (R425, R426) -/

/-- VIN48 has been at or above 42 V for 10 ms; a device that is off starts, one that saves will once the save has ended
(R442). -/
def execVin48Good (vq : BitVec 8) (s : State) : Host.Outcome State Fault Refusal :=
  .next (
    let s := s.setFld PWR_STATUS.VIN48_Q 0 vq.toNat
    if vq.toNat < 168 then s
    else if s.power.on then (if s.power.save.isSome then s.modPower fun p => { p with vinBack := true } else s)
    else s.modPower fun p => { p with on := true })

/-- VIN48 has been below 40 V for 100 ms. -/
def execVin48Low (vq : BitVec 8) (s : State) : Host.Outcome State Fault Refusal :=
  .next (
    let s := s.setFld PWR_STATUS.VIN48_Q 0 vq.toNat
    if s.running ∧ vq.toNat < 160 then s.raise { cls := 0xB, ins := 0, evt := 0x7, value := vq.toNat } else s)

/-- VHOLD reaches 52 V: tile writes that waited for it are acknowledged. -/
def execVholdOkRise (vq : BitVec 8) (s : State) : Host.Outcome State Fault Refusal :=
  .next (
    let s := s.setFld PWR_STATUS.VHOLD_Q 0 vq.toNat
    if vq.toNat < 208 then s
    else
      let s := s.setFld PWR_STATUS.VHOLD_OK 0 1
      let s := if s.stageDue 9 then s.endStage 9 else s
      (List.range 16).foldl (fun s t => s.takeWrites t (s.tower t).waitWr.length) s)

/-- VHOLD falls below 52 V. -/
def execVholdOkFall (vq : BitVec 8) (s : State) : Host.Outcome State Fault Refusal :=
  .next (
    let s := s.setFld PWR_STATUS.VHOLD_Q 0 vq.toNat
    if vq.toNat ≥ 208 ∨ s.fld PWR_STATUS.VHOLD_OK 0 = 0 then s
    else
      let s := s.setFld PWR_STATUS.VHOLD_OK 0 0
      if s.running then (s.raise { cls := 0xB, ins := 1, evt := 0x7, value := vq.toNat }).inc PWR_CNT.VHOLD_LOSS 0 else s)

/-- PERST_N is deasserted: the endpoint answers configuration with a link of the width, in lanes, and the PCIe generation
given (R358, R433). -/
def execPerstNDeassert (width rate : Nat) (s : State) : Host.Outcome State Fault Refusal :=
  .next (
    if !s.running ∨ s.profile = 4 then s
    else
      let w := match width with | 1 => 1 | 4 => 2 | 8 => 3 | 16 => 4 | _ => 0
      let s := s.modPower fun p => { p with perstHigh := true, wakeLow := false }
      (s.setFld HIF_STATUS.LINK_WIDTH 0 w).setFld HIF_STATUS.LINK_RATE 0 (rate - 1))

/-! ### Warm reset (R436 to R438) -/

/-- The link or port that time is taken from carries it (R41). -/
def State.timeSourceUp (s : State) : Bool :=
  if s.tsrc ≥ 8 then decide (s.fld ZXL_LNK_STATUS.STATE (s.tsrc - 8) ∈ [lkActive, lkRetrain])
  else if s.tsrc ∈ [1, 2, 3] then decide (s.fld ETH_PORT_STATUS.LINK_UP (s.fld NTU_STATUS.TSRC_ACTIVE 0 - 1) = 1)
  else false

/-- What a warm reset resets; network time goes on, and a source whose link goes down with the reset is lost (R41). -/
def State.warmAll (s : State) : State :=
  let t := s.resetAll false
  if s.timeSourceUp ∧ !t.timeSourceUp then t.loseLock else t

/-- The device restarts warm, from stage 5. -/
def State.restart (s : State) (cause : Nat) : State :=
  ((s.warmAll.setFld PWR_STATUS.RESET_CAUSE 0 cause)).startTrain

/-- Leaving Watch, in a profile: what a warm reset resets was reset on entry, and nothing has run since (R433). -/
def State.leaveWatch (s : State) (profile : Nat) : State :=
  let s := (s.setFld PWR_STATUS.PROFILE 0 profile).modPower fun p => { p with wakeLow := true, perstHigh := false }
  (s.setFld PWR_STATUS.RESET_CAUSE 0 5).startTrain

/-- Every sensor of which a reading is known is below its leave temperature (R445). -/
def pointThrottle (inst : Nat) : Nat := if inst < 0x30 then 100 else if inst < 0x40 then 95 else 80
def State.cool (s : State) : Bool := s.power.temp.all fun (e : Nat × Nat) => e.2 < pointThrottle e.1 - 5
def State.mayLeave (s : State) : Bool := decide (s.profile = 4) && (decide (s.fld PWR_STATUS.RESET_CAUSE 0 ≠ 4) || s.cool)

/-- Stores still buffered: tile writes not acknowledged and frames not sent. -/
def State.buffered (s : State) : Bool :=
  s.towers.any (fun (e : Nat × Tower) => e.2.waitWr ≠ []) || s.links.any fun (e : Nat × Link) => e.2.waiting ≠ []

/-- RESET_N is held low, or a PCIe fundamental reset arrives. -/
def execWarmReset (cause : Fin 3) (s : State) : Host.Outcome State Fault Refusal :=
  .next (
    if !s.running ∨ cause = 0 ∨ s.warming then s
    else if s.profile = 4 then if cause = 1 ∧ s.mayLeave then s.leaveWatch s.power.before else s
    else
      let s := if cause = 2 then s.modPower fun p => { p with perstHigh := false } else s
      if s.fatal then s.restart cause
      else
        let s := (List.range 16).foldl (fun s t => s.takeWrites t (s.tower t).waitWr.length) s
        if s.buffered then s.modPower fun p => { p with warm := some cause.val } else s.restart cause)

/-- 10 µs have passed: stores still buffered are discarded. -/
def execBufferedStoreTimeout (s : State) : Host.Outcome State Fault Refusal :=
  .next (match s.power.warm with | some c => s.restart c | none => s)

/-- FLR of PF0 (R360). -/
def execFlrPf0 (s : State) : Host.Outcome State Fault Refusal :=
  .next (
    [RegId.HIF_ADM_SQ, .HIF_ADM_CQ, .HIF_ADM_EQ, .HIF_ADM_CFG, .HIF_ADM_CTL].foldl (fun s r => s.setReg r 0 (regReset r 0)) s.endAdmin)

/-! ### Changing profile (R431 to R433) -/

/-- A change to a profile is refused. -/
def State.profileRefused (s : State) (n : Nat) : Bool :=
  decide (n > 4) || s.power.prof.isSome
    || (List.range 16).any (fun p => s.present p && decide (profParts n ≤ p) && s.inGroup p && s.trailActive (s.instOf p))
    || s.ctxs.any fun (e : Nat × Ctx) => s.cLive e.1 && decide (ctxPart e.1 < profParts n) && e.2.objs.any fun o =>
      (s.objPages e.1 o).any fun p => decide (p.2.tier = .trunk) && decide (profStacks n ≤ p.2.frame / 2 ^ 20)

/-- A partition that has been reset goes dark: its group's instance returns to EMPTY and its cores, off, hold nothing. -/
def State.darken (s : State) (p : Nat) : State :=
  let s := if s.inGroup p then s.emptyInst (s.instOf p) else s
  let s := (List.range' (p * 32) 32).foldl (fun s c => s.clearCore c) s
  (List.range' (p * 256) 256).foldl State.killProgress s

/-- A stack goes dark: its contents are lost. -/
def State.stackOff (s : State) (st : Nat) : State :=
  if !s.stackUp st then s
  else
    let s := ((s.setFld TRK_STATUS.STATE st tkOff).setFrames st []).setPend st []
    let a := trunkDpa st 0
    let s := (s.modMem st fun _ => {}).modStack st fun k => { withdrawn := k.withdrawn, withdraw := k.withdraw }
    { s with trunk := zeroBytes s.trunk a 0x1000000000
             tmarks := s.tmarks.filter fun (m : Nat × Mark) => decide (m.1 * 32 < a) || decide (a + 0x1000000000 ≤ m.1 * 32) }

/-- Partitions that a profile darkens. -/
def State.darkParts (s : State) (n : Nat) : List Nat := (List.range 16).filter fun p => s.present p ∧ profParts n ≤ p

/-- Everything that the cores of the partitions started has completed (R439). -/
def State.partsQuiet (s : State) (parts : List Nat) : Bool :=
  parts.all fun p => (List.range' (p * 32) 32).all s.coreQuiet

/-- The second step of R432, and the start of the third and fourth. -/
def State.goDark (s : State) (n : Nat) : State :=
  let s := (s.darkParts n).foldl State.darken s
  let s := (List.range' (profStacks n) (16 - profStacks n)).foldl State.stackOff s
  let s := (List.range (profStacks n)).foldl (fun s st => if s.tkState st = tkOff then s.setFld TRK_STATUS.STATE st tkTrain else s) s
  s.rehost

/-- The device enters Watch: only network time, the management complex and I3C run. -/
def State.enterWatch (s : State) : State :=
  let s := s.modPower fun p => { p with before := s.profile }
  s.warmAll.setFld PWR_STATUS.PROFILE 0 4

/-- The change to Watch after its partition resets (R433): every tower unmounts, and the completion is the last entry the
host receives. -/
def State.goWatch (s : State) (j : ProfJob) : State :=
  let s := ((List.range 16).foldl (fun s t => if s.rtServes t then s.endUnmount t else s) s).eventAll 0xA 4 []
  (match j.done with | some l => s.completeLater l 0 0 0 | none => s).enterWatch

/-- A change of profile goes on once what its partition resets let run has completed (R432, R433, R439). -/
def State.profileStep (s : State) : State :=
  match s.power.prof with
  | none => s
  | some j =>
    if j.dark ∨ !s.partsQuiet (s.darkParts j.profile) then s
    else if j.profile = 4 then s.goWatch j
    else (s.goDark j.profile).modPower fun p => { p with prof := some { j with dark := true } }

/-- An accepted change of profile: the partitions it darkens are reset. -/
def State.startProfile (s : State) (l : Later) (n : Nat) : State :=
  (((s.darkParts n).foldl State.partReset s).modPower fun p => { p with prof := some { done := some l, profile := n } }).profileStep

/-- PROFILE_SET of a profile other than Watch (R376, R431). -/
def execProfileSet (r : RingId) (s : State) : Host.Outcome State Fault Refusal :=
  .next (s.descr r (fun d => d.opcode = 0x11 ∧ d.le 8 1 ≠ 4) fun x d s =>
    if x ≠ adminCtx then s.finish x d 0x02
    else if !d.clean 1 [(8, 1)] then s.finish x d 0x01
    else if s.profileRefused (d.le 8 1) then s.finish x d 0x30
    else s.startProfile (d.later x) (d.le 8 1))

/-- The change ends: new stacks are up, new dies map their LCIDs, towers are mounted, HUB_CAP_RES is rewritten, contexts hear
of it. -/
def State.endProfile (s : State) (j : ProfJob) : State :=
      let s := s.mapLcids ((List.range (profParts j.profile)).filter fun p => !s.present p)
      let new := (List.range (profStacks j.profile)).filter fun st => s.tkState st = tkTrain
      let s := new.foldl State.bringUp s
      let s := new.foldl (fun s st => s.pendAll st) s
      let s := (List.range 16).foldl (fun s t =>
        if s.rtState t = rtMounting then
          let (k, s) := s.draw
          s.mounted t 1 (Config.freeChoice k % 2001) 0
        else s) s
      let s := (s.setFld PWR_STATUS.PROFILE 0 j.profile).modPower fun p => { p with prof := none }
      let s := (s.rewriteCaps s.capsNow).eventAll 0xA j.profile []
      match j.done with
      | some l => s.completeLater l 0 0 0
      | none => s

/-- PROFILE_CHANGE_END: the change goes on as far as it can, and ends. -/
def execProfileChangeEnd (s : State) : Host.Outcome State Fault Refusal :=
  .next (
    let s := s.profileStep
    match s.power.prof with
    | some j => if j.dark then s.endProfile j else s
    | none => s)

/-- PROFILE_SET with PROFILE = 0x4 (R433): its completion is the last entry the host receives. -/
def execWatchEnter (r : RingId) (s : State) : Host.Outcome State Fault Refusal :=
  .next (s.descr r (fun d => d.opcode = 0x11 ∧ d.le 8 1 = 4) fun x d s =>
    if x ≠ adminCtx then s.finish x d 0x02
    else if !d.clean 1 [(8, 1)] then s.finish x d 0x01
    else if s.profileRefused 4 then s.finish x d 0x30
    else s.startProfile (d.later x) 4)

/-- A PLDM request over I3C leaves Watch, into the profile named or the one before. -/
def execWatchExit (profile : Option (Fin 4)) (s : State) : Host.Outcome State Fault Refusal :=
  .next (
    if s.running ∧ s.mayLeave then s.leaveWatch (match profile with | some p => p.val | none => s.power.before) else s)

/-! ### Throttling and shutdown (R443 to R445) -/

/-- Power-class instances with a sensor. -/
def sensors : List Nat := [0x10, 0x11, 0x12, 0x13, 0x20] ++ List.range' 0x30 32

/-- Shutdown point. -/
def pointShutdown (inst : Nat) : Nat := pointThrottle inst + 10

/-- A sensor reads; PWR_STATUS and PWR_SENS follow. The power drawn is not stated. -/
def State.readSensor (s : State) (inst temp : Nat) : State :=
  let s := s.modPower fun p => { p with temp := p.temp.set 0 inst temp }
  let hot := s.power.temp.any fun (e : Nat × Nat) => pointThrottle e.1 ≤ e.2
  (s.setFld PWR_STATUS.THERM 0 (if hot then 1 else 0)).setFld PWR_STATUS.THROT_LEVEL 0 ((s.power.level.map Prod.snd).foldl max 0)

/-- PWR_SENS as the selected sensor gives it. -/
def State.showSensor (s : State) : State :=
  let i := s.fld PWR_SENS_SEL.INSTANCE 0
  if i ∉ sensors then s.setReg .PWR_SENS 0 0
  else
    let (k, s) := s.draw
    let s := (s.setFld PWR_SENS.TEMP_C 0 (s.power.temp.get 0 i)).setFld PWR_SENS.THROTTLE_C 0 (pointThrottle i)
    let s := (s.setFld PWR_SENS.SHUTDOWN_C 0 (pointShutdown i)).setFld PWR_SENS.LEVEL 0 (s.power.level.get 0 i)
    s.setFld PWR_SENS.POWER_DW 0 (Config.freeWord k).toNat

/-- An element's level changes. -/
def State.setLevel (s : State) (inst level : Nat) : State :=
  s.modPower fun p => { p with level := p.level.set 0 inst level, changed := p.changed.insert inst s.ntu.elapsed }

/-- `n` ticks have passed since an element's level last changed. -/
def State.since (s : State) (inst n : Nat) : Bool :=
  match s.power.changed.find inst with | some t => decide (t + n ≤ s.ntu.elapsed) | none => true

/-- A sensor is at or above its throttle point: its element's level rises. -/
def execThrottleRise (inst temp : BitVec 8) (s : State) : Host.Outcome State Fault Refusal :=
  .next (
    let i := inst.toNat
    if !s.running ∨ i ∉ sensors then s
    else
      let l := s.power.level.get 0 i
      if temp.toNat < pointThrottle i ∨ l ≥ 3 ∨ !s.since i 10000 then (s.readSensor i temp.toNat).showSensor
      else
        let s := ((s.setLevel i (l + 1)).readSensor i temp.toNat).showSensor
        if l = 0 then (s.raise { cls := 0xB, ins := i, evt := 0x7, value := temp.toNat }).inc PWR_CNT.THROT_ENTRIES 0 else s)

/-- A sensor is below its leave temperature: the level falls. -/
def execThrottleFall (inst temp : BitVec 8) (s : State) : Host.Outcome State Fault Refusal :=
  .next (
    let i := inst.toNat
    if !s.running ∨ i ∉ sensors then s
    else
      let l := s.power.level.get 0 i
      if temp.toNat ≥ pointThrottle i - 5 ∨ l = 0 ∨ !s.since i 100000 then (s.readSensor i temp.toNat).showSensor
      else ((s.setLevel i (l - 1)).readSensor i temp.toNat).showSensor)

/-- Every core and every stack is powered off, and the save begins (R440). After a sag VIN48 is no longer good (R442). -/
def State.startSave (s : State) (k : Nat) : State :=
  let s := (List.range 16).foldl State.stackOff { s with cores := s.countedCores }
  s.modPower fun p => { p with save := some k, vinBack := false, prof := none, warm := none }

/-- VIN48 is below 38 V for 1 µs; the value read is not stated. -/
def execSupplySag (s : State) : Host.Outcome State Fault Refusal :=
  .next (
    if s.running then
      let (k, s) := s.draw
      let v := Config.freeChoice k % 152
      ((s.setFld PWR_STATUS.VIN48_Q 0 v).raise { cls := 0xB, ins := 0, evt := 0xE, value := v }).startSave 3
    else s)

/-- A sensor is at or above its shutdown point (R445). -/
def execThermalShutdown (inst temp : BitVec 8) (s : State) : Host.Outcome State Fault Refusal :=
  .next (
    let i := inst.toNat
    if !s.running ∨ s.profile = 4 ∨ i ∉ sensors ∨ temp.toNat < pointShutdown i then s
    else ((s.readSensor i temp.toNat).raise { cls := 0xB, ins := i, evt := 0xE, value := temp.toNat }).startSave 4)

/-- The save ends: the buffers are programmed and the log kept; the device powers off, or enters Watch (R440, R441, R445). -/
def execSagSaveEnd (us mj : Nat) (s : State) : Host.Outcome State Fault Refusal :=
  .next (
    match s.power.save with
    | none => s
    | some k =>
      let s := if k = 3 then s.inc PWR_CNT.SAGS 0 else s.inc PWR_CNT.THERM_SHUTDOWNS 0
      let s := (s.setFld PWR_SAG.SAVE_US 0 (min us PWR_SAG.SAVE_US.max)).setFld PWR_SAG.SAVE_MJ 0 (min mj PWR_SAG.SAVE_MJ.max)
      let s := (s.setFld PWR_STATUS.SAG_LOG_VALID 0 1).setFld PWR_STATUS.RESET_CAUSE 0 k
      let s : State := { s with flt := { s.flt with saved := s.flt.log } }
      let s := s.modPower fun p => { p with servoSaved := true }
      if k = 4 then s.enterWatch
      else
        let good := s.power.vinBack
        let s := s.resetAll true
        if good then s.modPower fun p => { p with on := true } else s)

/-! ### Time passes while no command waits -/

/-- One tick in which nothing is commanded: network time moves on, frames that wait for clearing are cleared (R269, R284),
and transfers of other devices that are held try again (R275). A device that is off stays as it is. -/
def State.idleTick (s : State) : State :=
  if !s.power.on then s
  else ((List.range 16).foldl (fun s st => if s.tkServes st then s.clearFrames st else s) s.tickPass).framesCleared.rxRetry

end Sys2Proof.Machine
end

