-- ==== Sys2Proof/Machine/RegWrites.lean ====
section
/-! DEFINITION. Register accesses of the host: where each register stands, and what a write to it does (R6 to R10, R90,
R231, R282, R285, R306, R322, R339, R358, R366, R368, R382, R420, and the register lists of the chapters). -/

namespace Sys2Proof.Machine

/-! ### Where the registers stand -/

/-- The instance and the offset within it of offset `o` in `n` instances of `stride` bytes from `base`. -/
def slotAt (o base stride n : Nat) : Option (Nat × Nat) :=
  if base ≤ o ∧ o < base + stride * n then some ((o - base) / stride, (o - base) % stride) else none

/-- The register at a byte offset of a run of registers, all of instance `i`. -/
def runAt (l : List RegId) (i o : Nat) : Option (RegId × Nat) := if o % 8 = 0 then (l[o / 8]?).map fun r => (r, i) else none

/-- One register for each of the instances `i0` on, 8 bytes apart. -/
def rowAt (r : RegId) (i0 o : Nat) : Option (RegId × Nat) := if o % 8 = 0 then some (r, i0 + o / 8) else none

def ntuRegs : List RegId :=
  [.NTU_CTL, .NTU_STATUS, .NTU_TIME_LO, .NTU_TIME_HI, .NTU_TICK, .NTU_TE, .NTU_GUARD, .NTU_LEAD, .NTU_SERVO, .NTU_PTP_CFG
   , .NTU_TOD_SET, .NTU_ZX_ASYM, .NTU_MARGIN, .NTU_EVT, .NTU_STEP_DELTA]
def fltRegs : List RegId :=
  [.FLT_CTL, .FLT_STATUS, .FLT_SEV_SEL, .FLT_SEV_CFG, .FLT_PIN_CTL, .FLT_LEAK, .FLT_INJ_TGT, .FLT_INJ_ADDR, .FLT_INJ_MASK
   , .FLT_INJ_CTL, .FLT_CNT]
def trkRegs : List RegId := [.TRK_CTL, .TRK_STATUS, .TRK_ARB_CFG, .TRK_ECC, .TRK_SCRUB, .TRK_REPAIR, .TRK_REF]
def rtfRegs : List RegId :=
  [.RTF_CTL, .RTF_STATUS, .RTF_CFG, .RTF_READ, .RTF_RETRY, .RTF_RELOC, .RTF_WEAR, .RTF_MOUNT]
def hifRegs : List RegId := [.HIF_AQP_CAP, .HIF_STATUS, .HIF_ADM_SQ, .HIF_ADM_CQ, .HIF_ADM_EQ, .HIF_ADM_CFG, .HIF_ADM_CTL]
def vfRegs : List RegId :=
  [.VF_INFO, .VF_CTX_SEL, .VF_CTX_CFG, .VF_CTX_SQ, .VF_CTX_CQ, .VF_CTX_EQ, .VF_CTX_SEED, .VF_CTX_CMD, .VF_CTX_STATUS, .VF_CTX_CNT]

/-- The PRT block of partition `p` (R99, R140, R166, R187, R231, R257, R285, R322, R342). -/
def prtAt (p o : Nat) : Option (RegId × Nat) :=
  if let some (k, o) := slotAt o 0x40000 0x400 32 then
    match slotAt o 0 0x80 8 with
    | some (t, o) => runAt [.PRT_TX_STATUS, .PRT_TX_PC, .PRT_TX_ADDR, .PRT_TBB_I, .PRT_TBB_C] ((p * 32 + k) * 8 + t) o
    | none => none
  else if let some (_, o) := slotAt o 0x50000 8 1 then runAt [.PRT_CANOPY_CFG] p o
  else if let some (k, o) := slotAt o 0x51000 0x40 32 then
    runAt [.PRT_CNP_STATUS, .PRT_CNP_ECC, .PRT_CNP_WIN, .PRT_CNP_SCRUB] (p * 32 + k) o
  else if let some (_, o) := slotAt o 0x60000 16 1 then runAt [.PRT_LAT_CFG, .PRT_RADD_STATUS] p o
  else if let some (k, o) := slotAt o 0x61000 0x20 32 then runAt [.PRT_LAT_TILE, .PRT_LAT_CNT, .PRT_LAT_ECC] (p * 32 + k) o
  else if let some (k, o) := slotAt o 0x71000 0x20 32 then runAt [.PRT_OUT_STATUS, .PRT_OUT_CNT, .PRT_OUT_TRK] (p * 32 + k) o
  else if let some (_, o) := slotAt o 0x80100 0x80 1 then rowAt .PRT_KV_BKT (p * 16) o
  else if let some (_, o) := slotAt o 0x80000 0x100 1 then
    runAt [.PRT_KV_CFG, .PRT_KV_COW, .PRT_KV_CNT, .PRT_KV_ATT, .PRT_KV_XFER] p o
  else if let some (_, o) := slotAt o 0x90000 0x1000 1 then
    runAt [.PRT_DS_ACC, .PRT_DS_SEQ, .PRT_DS_SMP, .PRT_DS_RTE, .PRT_DS_ERR] p o
  else if let some (_, o) := slotAt o 0xA0000 0x1000 1 then
    runAt [.PRT_XL_CFG, .PRT_XL_LOOKUP, .PRT_XL_PTE, .PRT_XL_FRAMES, .PRT_XL_MIG, .PRT_XL_STREAM] p o
  else if let some (_, o) := slotAt o 0xB0040 0x40 1 then rowAt .PRT_CLP_REC (p * 8) o
  else if let some (_, o) := slotAt o 0xB0080 8 1 then runAt [.PRT_CLP_DRV] p o
  else if let some (_, o) := slotAt o 0xB0100 0x80 1 then rowAt .PRT_CLP_BUD (p * 16) o
  else if let some (_, o) := slotAt o 0xB0000 0x40 1 then runAt [.PRT_CLP_STATUS, .PRT_CLP_OPS, .PRT_CLP_ERR, .PRT_CLP_WAIT] p o
  else if let some (_, o) := slotAt o 0xC0100 0x100 1 then rowAt .PRT_ISO_BIND (p * 32) o
  else if let some (_, o) := slotAt o 0xC0000 0x100 1 then runAt [.PRT_ISO_GRP, .PRT_ISO_CTX, .PRT_ISO_CNT] p o
  else none

/-- The register at a multiple of 8 of PF0's BAR0, with its instance; ETH_QP_CFG and its GID stand for the queue pair
`qp`, FLT_SEV_CFG for the pair `sev`. -/
def pfAt (qp sev o : Nat) : Option (RegId × Nat) :=
  if o = 0 then some (.HUB_ID, 0)
  else if o = 0x40 then some (.HUB_CAP_RES, 0)
  else if let some (_, o) := slotAt o 0x100000 0x100000 1 then runAt ntuRegs 0 o
  else if let some (i, o) := slotAt o 0x200100 0x40 16 then
    runAt [.RSQ_TRL_STATUS, .RSQ_TRL_RING, .RSQ_TRL_SLIP, .RSQ_TRL_CNT, .RSQ_TRL_TICKS] i o
  else if o = 0x200000 then some (.RSQ_CAP, 0)
  else if let some (_, o) := slotAt o 0x300100 0x80 1 then rowAt .FLT_ROUTE 0 o
  else if o = 0x300018 then some (.FLT_SEV_CFG, sev)
  else if let some (_, o) := slotAt o 0x300000 0x100 1 then runAt fltRegs 0 o
  else if let some (_, o) := slotAt o 0x400000 0x10000 1 then runAt [.PWR_STATUS, .PWR_SENS_SEL, .PWR_SENS, .PWR_CNT, .PWR_SAG] 0 o
  else if let some (_, o) := slotAt o 0x500000 0x100000 1 then runAt [.SEC_LC, .SEC_BOOT, .SEC_DBG, .SEC_KEYS] 0 o
  else if let some (_, o) := slotAt o 0x600000 0x100000 1 then runAt hifRegs 0 o
  else if let some (l, o) := slotAt o 0x700100 0x20 8 then runAt [.ZXL_LNK_CTL, .ZXL_LNK_STATUS, .ZXL_LNK_CNT] l o
  else if let some (_, o) := slotAt o 0x700000 0x100 1 then
    runAt [.ZXL_CAP, .ZXL_BOARD, .ZXL_SPAN, .ZXL_MIG_IN, .ZXL_MIG_MAP, .ZXL_CNT] 0 o
  else if let some (p, o) := slotAt o 0x800000 0x100 2 then runAt [.ETH_PORT_STATUS] p o
  else if o = 0x801000 then some (.ETH_QP_SEL, 0)
  else if let some (_, o) := slotAt o 0x801008 0x18 1 then runAt [.ETH_QP_CFG, .ETH_QP_GID_LO, .ETH_QP_GID_HI] qp o
  else if let some (p, o) := slotAt o 0x1000000 0x100000 16 then prtAt p o
  else if let some (st, o) := slotAt o 0x2000000 0x100000 16 then
    if let some (_, o) := slotAt o 0x100 0x80 1 then rowAt .TRK_REG (st * 16) o
    else if let some (q, o) := slotAt o 0x1000 0x20 64 then runAt [.TRK_BIST_CFG, .TRK_BIST_STAT, .TRK_BIST_FAIL] (st * 64 + q) o
    else if o < 0x100 then runAt trkRegs st o
    else none
  else if let some (t, o) := slotAt o 0x3000000 0x100000 16 then
    if let some (_, o) := slotAt o 0x100 0x80 1 then rowAt .RTF_SLOT (t * 16) o
    else if o < 0x100 then runAt rtfRegs t o
    else none
  else none

/-- The register at a multiple of 8 of BAR0 of a function: a VF reaches its own set-up registers, those of the context it
selects among them (R359, R365). -/
def State.regAt (s : State) (fn : Fn) (o : Nat) : Option (RegId × Nat) :=
  match fn with
  | .pf0 => pfAt (s.fld ETH_QP_SEL.QP 0) (s.fld FLT_SEV_SEL.SCLASS 0 * 16 + s.fld FLT_SEV_SEL.EVT 0) o
  | .vf n => runAt vfRegs (if o < 0x10 then n.val else s.selected n) o

/-! ### Values and access types (R6 to R10) -/

/-- An encoding that the register's table reserves. -/
def reservedEnc (r : RegId) (lo v : Nat) : Bool :=
  match r, lo with
  | .NTU_CTL, 12 => 5 ≤ v && v ≤ 7
  | .NTU_SERVO, 32 => v < 100
  | .NTU_PTP_CFG, 6 => v = 3
  | .NTU_PTP_CFG, 0 => 1 < v
  | .PRT_CANOPY_CFG, 0 => v < 100
  | .PRT_KV_CFG, 0 => v = 0 || 16 < v
  | .PRT_XL_CFG, 0 => 32768 < v
  | .TRK_ARB_CFG, 0 => v = 3
  | .TRK_BIST_CFG, 20 => 3 < v
  | .RTF_CFG, 0 => v < 10000
  | .RTF_SLOT, 0 => 100 < v
  | .VF_CTX_CFG, 28 => 123 < v
  | .VF_CTX_SQ, 0 | .VF_CTX_CQ, 0 | .VF_CTX_EQ, 0 | .HIF_ADM_SQ, 0 | .HIF_ADM_CQ, 0 | .HIF_ADM_EQ, 0 => v < 4 || 16 < v
  | .VF_CTX_EQ, 11 | .HIF_ADM_SQ, 11 | .HIF_ADM_CQ, 11 | .HIF_ADM_EQ, 11 => true
  | .ETH_QP_CFG, 60 => 4 < v
  | .ETH_QP_CFG, 57 => v = 3
  | .FLT_SEV_CFG, 0 => v = 3
  | .FLT_LEAK, 8 | .FLT_LEAK, 0 | .FLT_INJ_TGT, 48 => v = 0
  | _, _ => false

/-- Stores the fields of a written value by their access types; `take` says which RW and RWL fields take writes now. -/
def State.storeFields (s : State) (r : RegId) (i : Nat) (v : Word) (take : FldRow → Bool) : State :=
  s.setReg r i (r.rows.foldl (fun (w : Word) (row : FldRow) =>
    let f : Fld := ⟨r, row.hi, row.lo⟩
    match row.acc with
    | .rw | .rwl => if take row && !reservedEnc r row.lo (f.of v) then f.put w (f.of v) else w
    | .rw1c => if f.of v = 1 then f.put w 0 else w
    | .rw1s => if f.of v = 1 then f.put w 1 else w
    | _ => w) (s.reg r i))

/-- The partition whose lock governs a register with RWL fields (R90). -/
def lockPart (r : RegId) (i : Nat) : Nat :=
  match r with
  | .PRT_TBB_I | .PRT_TBB_C => i / 8 / 32
  | .PRT_KV_BKT => i / 16
  | .PRT_ISO_BIND => i / 32
  | _ => i

/-- Keys of the table in use, and those with an object that has a tile in Root, now or retained (R347, R349). -/
def State.keyCounts (s : State) : Nat × Nat :=
  let live := (s.sec.keys.filter fun (e : Nat × KeyEnt) => e.2.live).map Prod.fst
  (live.length, (live.filter s.keyPersists).length)

/-- The entry PRT_XL_LOOKUP of a partition names, 0 where there is none (R285). -/
def State.lookupPte (s : State) (p : Nat) : Word :=
  let e := s.pte (p * 256 + s.fld PRT_XL_LOOKUP.CTX_LOCAL p) (s.fld PRT_XL_LOOKUP.OVA_PAGE p * 65536)
  if e.present then e.word else 0

/-- The value of a register, those among them whose fields stand elsewhere in the state: a thread slot's status and bounds,
the counter, page entries, frame and key counts, a context's state. The RSQ registers of an instance that is no group's
read 0 (R79). -/
def State.regNow (s : State) (r : RegId) (i : Nat) : Word :=
  let t := s.thr (i / 8) (i % 8)
  let w := BitVec.ofNat 64
  match r with
  | .PRT_TX_STATUS => w (t.lateCnt * 2 ^ 48 + t.cause * 2 ^ 40 + t.trapCnt * 2 ^ 16 + t.loops.length * 16 + t.state.num)
  | .PRT_TX_PC => w (t.fpc % 16384 * 2 ^ 32 + t.pc % 16384)
  | .PRT_TX_ADDR => t.addr
  | .PRT_TBB_I => w (t.ibound * 2 ^ 32 + t.ibase)
  | .PRT_TBB_C => w (t.cbound * 2 ^ 32 + t.cbase)
  | .NTU_TICK => w s.now
  | .NTU_TIME_LO => s.timeLo
  | .PRT_XL_PTE => s.lookupPte i
  | .PRT_XL_FRAMES => w ((s.frames i).count * 2 ^ 32 + (s.pendFrames i).count)
  | .SEC_KEYS => w (s.keyCounts.2 * 2 ^ 32 + s.keyCounts.1)
  | .PRT_ISO_CTX => PRT_ISO_CTX.STATE.put (s.reg r i) (s.cState (i * 256 + s.fld PRT_ISO_CTX.CTX_LOCAL i))
  | .RSQ_TRL_STATUS | .RSQ_TRL_RING | .RSQ_TRL_SLIP | .RSQ_TRL_CNT | .RSQ_TRL_TICKS =>
    if s.inGroup i ∧ s.instOf i = i then s.reg r i else 0
  | r => s.reg r i

/-! ### Reads (R6, R9, R10, R19, R55, R358) -/

/-- What a read of instance `i` of a register returns: each field's current value, 0 in WO fields and reserved bits. -/
def State.readReg (s : State) (r : RegId) (i : Nat) : Word :=
  r.rows.foldl (fun (w : Word) (row : FldRow) =>
    if row.acc = .wo then w else let f : Fld := ⟨r, row.hi, row.lo⟩; f.put w (f.of (s.regNow r i))) 0

/-- Eight bytes of a log at a byte offset of it (R407, R441). -/
def logWord (m : SMap (List Byte)) (o : Nat) : Word :=
  BitVec.ofNat 64 (leNat (((m.get [] (o / 64)).drop (o % 64 / 8 * 8)).take 8))

/-- The 64 bits at a multiple of 8 of a BAR: a register, the fault log, the saved log; 0 where nothing stands. -/
def State.readAt (s : State) (fn : Fn) (bar o : Nat) : Word :=
  if bar ≠ 0 then 0
  else if fn = .pf0 ∧ 0x310000 ≤ o ∧ o < 0x320000 then logWord s.flt.log (o - 0x310000)
  else if fn = .pf0 ∧ 0x410000 ≤ o ∧ o < 0x420000 then logWord s.flt.saved (o - 0x410000)
  else
    match s.regAt fn o with
    | some (r, i) => s.readReg r i
    | none => 0

/-- The addressed part of a 64-bit value: all of it, or its half. -/
def pickHalf (size offset : Nat) (v : Word) : Word :=
  if size = 8 then v
  else if offset % 8 = 0 then BitVec.ofNat 64 (v.toNat % 2 ^ 32)
  else BitVec.ofNat 64 (v.toNat / 2 ^ 32)

/-- All ones in a read of `size` bytes. -/
def onesOf (size : Nat) : Word := BitVec.ofNat 64 (2 ^ (8 * min size 8) - 1)

/-- The byte offsets of HUB_ID, HUB_CAP_RES and HIF_STATUS, readable before the device is ready (R358). -/
def earlyRegs : List Nat := [0x000000, 0x000040, 0x600008]

/-- A read by the host of `size` bytes at `offset` of a BAR of a function: the value returned, and the state after. -/
def State.hostRead (s : State) (fn : Fn) (bar offset size : Nat) : Word × State :=
  let ok : Bool := (decide (size = 4) || decide (size = 8)) && decide (offset % size = 0)
  let o := offset / 8 * 8
  if s.fld HIF_STATUS.READY 0 ≠ 1 then
    (if ok ∧ fn = .pf0 ∧ bar = 0 ∧ o ∈ earlyRegs then pickHalf size offset (s.readAt fn bar o) else onesOf size, s)
  else if !ok then (onesOf size, s.inc HIF_STATUS.BAD_ACCESS 0)
  else
    let s := if fn = .pf0 ∧ bar = 0 ∧ o = 0x100010 then s.latchTime else s
    (pickHalf size offset (s.readAt fn bar o), s)

/-- A read command: the value returned leaves the device. -/
def State.readOut (r : Word × State) : State := r.2.send (.readValue r.1)

/-- A 64-bit read of NTU_TIME_LO (R55). -/
def execNtuTimeLoRead (s : State) : Host.Outcome State Fault Refusal := .next (State.readOut (s.hostRead .pf0 0 0x100010 8))

/-- A 64-bit read of PRT_XL_PTE of a partition (R285). -/
def execPrtXlPteRead (p : PartId) (s : State) : Host.Outcome State Fault Refusal :=
  .next (State.readOut (s.hostRead .pf0 0 (0x10A0010 + p * 0x100000) 8))

/-! ### Writes -/

/-- The whole value that a write makes (R10): the half it does not address carries the current RW, RWL and RWO fields. -/
def State.wholeWrite (s : State) (r : RegId) (i offset size : Nat) (v : Word) : Word :=
  if size = 8 then v
  else
    let kept := r.rows.foldl (fun (w : Word) (row : FldRow) =>
      let f : Fld := ⟨r, row.hi, row.lo⟩
      if row.acc ∈ [.rw, .rwl, .rwo] then f.put w (f.of (s.regNow r i)) else w) (0 : Word)
    let half := v.toNat % 2 ^ 32
    if offset % 8 = 0 then BitVec.ofNat 64 (kept.toNat / 2 ^ 32 * 2 ^ 32 + half)
    else BitVec.ofNat 64 (half * 2 ^ 32 + kept.toNat % 2 ^ 32)

/-- A field of the register lies in the bits the access writes. -/
def touches (offset size : Nat) (row : FldRow) : Bool :=
  size = 8 || (if offset % 8 = 0 then decide (row.lo < 32) else decide (32 ≤ row.hi))

/-! ### Registers with effects of their own -/

/-- A write of PRT_TBB_I or PRT_TBB_C of a thread slot (R90). -/
def State.writeBounds (s : State) (c t : Nat) (canopy : Bool) (v : Word) : State :=
  if !s.lockOpen (partOf c) then s.lockEvent (partOf c)
  else if canopy then
    let base := PRT_TBB_C.CBASE.of v
    let bound := PRT_TBB_C.CBOUND.of v
    if base + bound > 2097152 ∨ base % 64 ≠ 0 ∨ bound % 64 ≠ 0 then s
    else s.modThr c t fun x => { x with cbase := base, cbound := bound }
  else
    let base := PRT_TBB_I.IBASE.of v
    let bound := PRT_TBB_I.IBOUND.of v
    if base + bound > 16384 then s else s.modThr c t fun x => { x with ibase := base, ibound := bound }

def execPrtTbbWrite (c : Lcid) (t : TSlot) (canopy : Bool) (v : Word) (s : State) : Host.Outcome State Fault Refusal :=
  .next (s.writeBounds c t canopy v)

/-- BOUND rises strictly over buckets 0 to n − 1 of a partition (R231). -/
def State.bucketsRise (s : State) (p n : Nat) : Bool :=
  (List.range (n - 1)).all fun b => s.fld PRT_KV_BKT.BOUND (p * 16 + b) < s.fld PRT_KV_BKT.BOUND (p * 16 + b + 1)

/-- A write of PRT_KV_BKT (R231). -/
def State.writeBucket (s : State) (p b : Nat) (v : Word) : State :=
  let i := p * 16 + b
  let t := (s.setFld PRT_KV_BKT.CAP i (PRT_KV_BKT.CAP.of v)).setFld PRT_KV_BKT.BOUND i (PRT_KV_BKT.BOUND.of v)
  if !s.lockOpen p then s.lockEvent p
  else if t.bucketsRise p (s.fld PRT_KV_CFG.BKT_COUNT p) then t else s

def execPrtKvBktWrite (p : PartId) (b : Fin 16) (v : Word) (s : State) : Host.Outcome State Fault Refusal :=
  .next (s.writeBucket p b v)

/-- A write of PRT_KV_CFG (R231). -/
def State.writeBucketCount (s : State) (p : Nat) (v : Word) : State :=
  let n := PRT_KV_CFG.BKT_COUNT.of v
  if !s.lockOpen p then s.lockEvent p
  else if reservedEnc .PRT_KV_CFG 0 n ∨ !s.bucketsRise p n then s
  else s.setFld PRT_KV_CFG.BKT_COUNT p n

/-- A write of PRT_XL_CFG (R282). -/
def State.writeStage (s : State) (p : Nat) (v : Word) : State :=
  let n := PRT_XL_CFG.STAGE_MIB.of v
  if !s.lockOpen p then s.lockEvent p
  else if n > 32768 then s
  else
    let was := s.stageFirst p
    let s := s.setFld PRT_XL_CFG.STAGE_MIB p n
    let now := s.stageFirst p
    if now ≤ was then s.placeStage p now (was - now)
    else
      let back := (List.range' was (now - was)).filter fun f => (s.mem p).stageFree.mem f
      let s := s.setPend p (back.foldl (fun (r : Ranges) f => r.add f 1) (s.pendFrames p))
      s.modMem p fun m => { m with stageFree := m.stageFree.remove was (now - was) }

def execPrtXlCfgWrite (p : PartId) (v : Word) (s : State) : Host.Outcome State Fault Refusal := .next (s.writeStage p v)

/-- The state that an outcome of a meaning goes on to. -/
def outcomeState (s : State) (o : Host.Outcome State Fault Refusal) : State :=
  match o with
  | .next t => t
  | _ => s

/-- A write of TRK_CTL (R301, R304). -/
def State.writeTrkCtl (s : State) (st : PartId) (v : Word) : State :=
  let s := s.setFld TRK_CTL.SCRUB_EN st (TRK_CTL.SCRUB_EN.of v)
  let s :=
    if TRK_CTL.MAINT.of v = s.fld TRK_CTL.MAINT st then s
    else if TRK_CTL.MAINT.of v = 1 then outcomeState s (execMaintEnter st s)
    else outcomeState s (execMaintExit st s)
  if TRK_CTL.RETIRE_GO.of v = 1 then s.retirePc st (TRK_CTL.RETIRE_PC.of v) true else s

/-- A write of TRK_BIST_CFG of pseudo-channel `q` (R305): STOP acts before START. -/
def State.writeBist (s : State) (st q : Nat) (v : Word) : State :=
  let s := s.storeFields .TRK_BIST_CFG (st * 64 + q) v fun _ => true
  let s := if TRK_BIST_CFG.STOP.of v = 1 then s.bistStop st q else s
  if TRK_BIST_CFG.START.of v = 1 then s.bistStart st q else s

/-- A write of RTF_CTL (R334, R335, R337): the retirement, then UNMOUNT, then MOUNT. -/
def State.writeRtfCtl (s : State) (t : Nat) (v : Word) : State :=
  let i := RTF_CTL.RETIRE_IDX.of v
  let dies := if RTF_CTL.RETIRE_CH.of v = 1 then [2 * (i % 8), 2 * (i % 8) + 1] else [i]
  let s := if RTF_CTL.RETIRE_GO.of v = 1 then s.retireDies t dies else s
  let s := if RTF_CTL.UNMOUNT.of v = 1 then s.startUnmount t else s
  if RTF_CTL.MOUNT.of v = 1 then s.startMount t else s

/-- A write of a set-up register of context `x` or of the admin rings (R366): the ring registers also take the proposals of
REBASE in a live context of AQP version 2 (R367). -/
def State.writeSetup (s : State) (r : RegId) (i : Nat) (v : Word) : State :=
  let free := s.cState i = cFree
  s.storeFields r i v fun row =>
    match r with
    | .VF_CTX_CFG => decide free || decide (28 ≤ row.lo)
    | .VF_CTX_SEED => decide free
    | .VF_CTX_SQ | .VF_CTX_CQ | .VF_CTX_EQ => decide free || (s.cLive i && decide (s.fld VF_CTX_CFG.VERSION i = 2))
    | .HIF_ADM_CFG => !(s.ctx adminCtx).exists_ || decide (22 ≤ row.lo)
    | _ => !(s.ctx adminCtx).exists_

/-- CMD of VF_CTX_CMD of VF `n`. -/
def State.ctxCommand (s : State) (n : PartId) (v : Word) : State :=
  match VF_CTX_CMD.CMD.of v with
  | 1 => outcomeState s (execCreate n [] s)
  | 2 => outcomeState s (execDestroy n s)
  | 3 => outcomeState s (execRebase n [] s)
  | _ => s

/-- CMD of HIF_ADM_CTL. -/
def State.admCommand (s : State) (v : Word) : State :=
  match HIF_ADM_CTL.CMD.of v with
  | 1 => outcomeState s (execAdminContextCreate [] s)
  | 2 => outcomeState s (execAdminContextDestroy s)
  | _ => s

/-- A write of ZXL_LNK_CTL (R384, R385). -/
def State.writeLinkCtl (s : State) (l : Nat) (v : Word) : State :=
  let s := s.enableLink l (decide (ZXL_LNK_CTL.EN.of v = 1))
  if ZXL_LNK_CTL.RETIRE_GO.of v = 1 ∧ ZXL_LNK_CTL.RETIRE_LANE.of v ≤ 8 then s.retireLane l (ZXL_LNK_CTL.RETIRE_LANE.of v) else s

/-- A write of ETH_QP_CFG (R393): a queue pair that comes into use starts afresh. -/
def State.writeQp (s : State) (q : Nat) (v : Word) : State :=
  let was := s.fld ETH_QP_CFG.VALID q
  let s := s.storeFields .ETH_QP_CFG q v fun _ => true
  if was = 0 ∧ s.fld ETH_QP_CFG.VALID q = 1 then { s with qps := s.qps.set {} q {} } else s

/-- The queue pair, tower, stack or partition number `i`, as a number below `n`. -/
def finOf (n i : Nat) (h : 0 < n) : Fin n := ⟨i % n, Nat.mod_lt i h⟩

/-- A write of the whole value `v` to instance `i` of register `r`, of which the access writes the rows `touched`; `fn` is
the function it comes through. -/
def State.writeReg (s : State) (fn : Fn) (r : RegId) (i : Nat) (v : Word) (touched : FldRow → Bool) : State :=
  let p16 := finOf 16
  match r with
  | .NTU_CTL =>
    let old := s.reg .NTU_CTL 0
    let s := (s.storeFields .NTU_CTL 0 v fun _ => true).ntuCtlWritten old
    if NTU_CTL.MARGIN_RST.of v = 1 then outcomeState s (execMarginRst s) else s
  | .NTU_LEAD => outcomeState s (execNtuLeadWrite v s)
  | .NTU_GUARD => outcomeState s (execNtuGuardWrite v s)
  | .PRT_TBB_I => if r.rows.any touched then s.writeBounds (i / 8) (i % 8) false v else s
  | .PRT_TBB_C => if r.rows.any touched then s.writeBounds (i / 8) (i % 8) true v else s
  | .PRT_KV_CFG => if r.rows.any touched then s.writeBucketCount i v else s
  | .PRT_KV_BKT => s.writeBucket (i / 16) (i % 16) v
  | .PRT_XL_CFG => if r.rows.any touched then s.writeStage i v else s
  | .TRK_CTL => s.writeTrkCtl (p16 i (by decide)) v
  | .TRK_ARB_CFG =>
    let s := s.modStack i fun k => { k with arbNow := some (k.arbNow.getD (s.reg .TRK_ARB_CFG i)) }
    s.storeFields .TRK_ARB_CFG i v fun _ => true
  | .TRK_REG => outcomeState s (execTrkRegWrite (p16 (i / 16) (by decide)) (p16 i (by decide)) v s)
  | .TRK_BIST_CFG => s.writeBist (i / 64) (i % 64) v
  | .PRT_CLP_REC => if s.fld PRT_CLP_DRV.BUSY (i / 8) = 1 then s else s.setReg .PRT_CLP_REC i v
  | .PRT_CLP_DRV => if PRT_CLP_DRV.GO.of v = 1 then s.claspGo i else s
  | .PRT_CLP_BUD => s.writeBudget (i / 16) (i % 16) (PRT_CLP_BUD.BUDGET.of v)
  | .RTF_CTL => s.writeRtfCtl i v
  | .RTF_CFG =>
    let s := s.modTower i fun x => { x with cfgNow := some (x.cfgNow.getD (s.reg .RTF_CFG i)) }
    s.storeFields .RTF_CFG i v fun _ => true
  | .RTF_SLOT => outcomeState s (execRtfSlotWrite (p16 (i / 16) (by decide)) (p16 i (by decide)) v s)
  | .PRT_ISO_GRP => if r.rows.any touched then outcomeState s (execPrtIsoGrpWrite (p16 i (by decide)) v s) else s
  | .PRT_ISO_BIND => if r.rows.any touched then outcomeState s (execPrtIsoBindWrite (finOf 512 i (by decide)) v s) else s
  | .PRT_ISO_CTX =>
    let s := s.setFld PRT_ISO_CTX.CTX_LOCAL i (PRT_ISO_CTX.CTX_LOCAL.of v)
    if PRT_ISO_CTX.KILL.of v = 1 then outcomeState s (execKill (p16 i (by decide)) s) else s
  | .HIF_ADM_SQ | .HIF_ADM_CQ | .HIF_ADM_EQ | .HIF_ADM_CFG | .VF_CTX_CFG | .VF_CTX_SQ | .VF_CTX_CQ | .VF_CTX_EQ | .VF_CTX_SEED =>
    s.writeSetup r i v
  | .HIF_ADM_CTL => s.admCommand v
  | .VF_CTX_CMD => match fn with | .vf n => s.ctxCommand n v | .pf0 => s
  | .ZXL_SPAN => outcomeState s (execZxlSpanWrite v s)
  | .ZXL_LNK_CTL => s.writeLinkCtl i v
  | .ETH_QP_CFG => s.writeQp i v
  | .FLT_SEV_CFG => s.writeSeverity (FLT_SEV_CFG.SEV.of v)
  | .FLT_PIN_CTL => (s.storeFields .FLT_PIN_CTL 0 v fun _ => true).settlePin
  | .FLT_INJ_CTL => if FLT_INJ_CTL.GO.of v = 1 then s.armInjection else s
  | .PWR_SENS_SEL => (s.storeFields .PWR_SENS_SEL 0 v fun _ => true).showSensor
  | .PRT_TX_STATUS | .PRT_TX_PC | .PRT_TX_ADDR | .NTU_TIME_LO | .NTU_TICK | .PRT_XL_PTE | .PRT_XL_FRAMES => s
  | r =>
    let p := lockPart r i
    let locked := !s.lockOpen p
    let s := s.storeFields r i v fun row => decide (row.acc ≠ .rwl) || !locked
    if locked && r.rows.any fun row => decide (row.acc = .rwl) && touched row then s.lockEvent p else s

/-- A doorbell of context or ring `r` (R368). -/
def State.doorbell (s : State) (r : RingId) (o : Nat) (v : BitVec 32) : State :=
  match o with
  | 0x000 => outcomeState s (execSqTail r v [] s)
  | 0x008 => outcomeState s (execCqHead r v s)
  | 0x010 => outcomeState s (execEqHead r v s)
  | _ => s

/-- A write of the host to a BAR of a function (R10, R358, R359). -/
def State.hostWrite (s : State) (fn : Fn) (bar offset size : Nat) (v : Word) : State :=
  if s.fld HIF_STATUS.READY 0 ≠ 1 then s
  else if (size ≠ 4 ∧ size ≠ 8) ∨ offset % size ≠ 0 then s.inc HIF_STATUS.BAD_ACCESS 0
  else if bar = 2 then
    match fn with
    | .pf0 => if offset < 0x1000 then s.doorbell none offset (v.setWidth 32) else s
    | .vf n => if offset < 0x100000 then
        s.doorbell (some (finOf 4096 (n * 256 + offset / 0x1000) (by decide))) (offset % 0x1000) (v.setWidth 32) else s
  else if bar ≠ 0 then s
  else
    match s.regAt fn (offset / 8 * 8) with
    | some (r, i) => s.writeReg fn r i (s.wholeWrite r i offset size v) (touches offset size)
    | none => s

def execRegWrite (fn : Fn) (bar : Fin 6) (offset : Nat) (size : Nat) (v : Word) (s : State) : Host.Outcome State Fault Refusal :=
  .next (s.hostWrite fn bar offset size v)

end Sys2Proof.Machine
end

