-- ==== Sys2Proof/Machine/Scalar.lean ====
section
/-! DEFINITION. Scalar instructions (R88, R100). -/

namespace Sys2Proof.Machine

/-- The second operand of format S: s[B], or IMM sign-extended (R100). -/
def Thread.opd2 (x : Thread) (w : Word) : Word :=
  if wbits w 36 36 = 1 then sext (wbits w 31 0) 32 else x.rs (wbits w 41 37)

/-- An operation of format S that writes s[D] from s[A], the second operand and the word (R100). -/
def State.scalarOp (s : State) (op c t : Nat) (f : Word → Word → Word → Word) : State :=
  s.issue op c t fun w s => s.modThr c t fun x =>
    { x.setS (wbits w 51 47) (f w (x.rs (wbits w 46 42)) (x.opd2 w)) with pc := x.pc + 1 }

/-- SADD (R100). -/
def execSadd (c : Lcid) (t : TSlot) (s : State) : Host.Outcome State Fault Refusal :=
  .next (s.scalarOp 0x10 c t fun _ a b => a + b)
/-- SSUB (R100). -/
def execSsub (c : Lcid) (t : TSlot) (s : State) : Host.Outcome State Fault Refusal :=
  .next (s.scalarOp 0x11 c t fun _ a b => a - b)
/-- SMUL (R100). -/
def execSmul (c : Lcid) (t : TSlot) (s : State) : Host.Outcome State Fault Refusal :=
  .next (s.scalarOp 0x12 c t fun _ a b => a * b)
/-- SAND (R100). -/
def execSand (c : Lcid) (t : TSlot) (s : State) : Host.Outcome State Fault Refusal :=
  .next (s.scalarOp 0x13 c t fun _ a b => a &&& b)
/-- SOR (R100). -/
def execSor (c : Lcid) (t : TSlot) (s : State) : Host.Outcome State Fault Refusal :=
  .next (s.scalarOp 0x14 c t fun _ a b => a ||| b)
/-- SXOR (R100). -/
def execSxor (c : Lcid) (t : TSlot) (s : State) : Host.Outcome State Fault Refusal :=
  .next (s.scalarOp 0x15 c t fun _ a b => a ^^^ b)
/-- SSHL (R100): shifts by the second operand modulo 64. -/
def execSshl (c : Lcid) (t : TSlot) (s : State) : Host.Outcome State Fault Refusal :=
  .next (s.scalarOp 0x16 c t fun _ a b => a <<< (b.toNat % 64))
/-- SSHR (R100): arithmetic when MOD[0] = 1, logical otherwise. -/
def execSshr (c : Lcid) (t : TSlot) (s : State) : Host.Outcome State Fault Refusal :=
  .next (s.scalarOp 0x17 c t fun w a b =>
    if wbits w 32 32 = 1 then a.sshiftRight (b.toNat % 64) else a >>> (b.toNat % 64))

/-- SLI (R100): IMM sign-extended, or IMM in the high word with the low word of s[D] kept. -/
def execSli (c : Lcid) (t : TSlot) (s : State) : Host.Outcome State Fault Refusal :=
  .next (s.issue 0x18 c t fun w s => s.modThr c t fun x =>
    let d := wbits w 51 47
    let v := if wbits w 32 32 = 1 then BitVec.ofNat 64 (wbits w 31 0 * 2 ^ 32 + (x.rs d).toNat % 2 ^ 32)
             else sext (wbits w 31 0) 32
    { x.setS d v with pc := x.pc + 1 })

/-- The comparison of SCMP by MOD (R100). -/
def scmpRel (m : Nat) (a b : Word) : Bool :=
  match m with
  | 0 => a = b
  | 1 => a ≠ b
  | 2 => a.toInt < b.toInt
  | 3 => a.toInt ≥ b.toInt
  | 4 => a.toNat < b.toNat
  | _ => a.toNat ≥ b.toNat

/-- SCMP (R100): the result goes to all 64 bits of p[D[2:0]]. -/
def execScmp (c : Lcid) (t : TSlot) (s : State) : Host.Outcome State Fault Refusal :=
  .next (s.issue 0x1B c t fun w s => s.modThr c t fun x =>
    let r := scmpRel (wbits w 35 32) (x.rs (wbits w 46 42)) (x.opd2 w)
    { x.setP (wbits w 49 47) (if r then BitVec.allOnes 64 else 0) with pc := x.pc + 1 })

/-- A word of the thread information block (R88). -/
def State.infoWord (s : State) (c t : Nat) (i : Nat) : Word :=
  let n := s.coreInst c
  let x := s.inst n
  match i with
  | 0 => BitVec.ofNat 64 (c + t * 2 ^ 16)
  | 1 => BitVec.ofNat 64 ((s.boundCtx c).getD 0)
  | 2 => BitVec.ofNat 64 s.now
  | 3 => BitVec.ofNat 64 (x.schedAt s.now)
  | 4 => BitVec.ofNat 64 (x.posAt s.now)
  | 5 => BitVec.ofNat 64 x.slips
  | 6 => BitVec.ofNat 64 (s.memberIdx n % 256 + s.sdid % 256 * 2 ^ 8 + s.fld ZXL_BOARD.BDID 0 % 8 * 2 ^ 16)
  | 7 => BitVec.ofNat 64 (s.lastAdmitted.get 0 (partOf c))
  | _ => 0

/-- The local offset s[A] + IMM of a load or store. -/
def Thread.memOfs (x : Thread) (w : Word) (a : Nat) : Word := x.rs a + sext (wbits w 31 0) 32

/-- SLD (R88, R100): a word of the thread information block, or 8 bytes of local Canopy. -/
def execSld (c : Lcid) (t : TSlot) (s : State) : Host.Outcome State Fault Refusal :=
  .next (s.issue 0x19 c t fun w s =>
    let x := s.thr c t
    let d := wbits w 51 47
    if wbits w 32 32 = 1 then
      s.setThr c t { x.setS d (s.infoWord c t (wbits w 31 0)) with pc := x.pc + 1 }
    else
      let ofs := x.memOfs w (wbits w 46 42)
      if ofs.toNat % 8 ≠ 0 then s.trap c t causeAlign ofs
      else if !x.inBounds ofs 8 then s.trap c t causeCbound ofs
      else
        let r := s.cRead c (x.cbase + ofs.toNat) 8
        match r.1.1 with
        | some bs => r.2.modThr c t fun x => { x.setS d (BitVec.ofNat 64 (leNat bs)) with pc := x.pc + 1 }
        | none => r.2.trapWord c t r.1.2)

/-- SST (R100). -/
def execSst (c : Lcid) (t : TSlot) (s : State) : Host.Outcome State Fault Refusal :=
  .next (s.issue 0x1A c t fun w s =>
    let x := s.thr c t
    let ofs := x.memOfs w (wbits w 46 42)
    if ofs.toNat % 8 ≠ 0 then s.trap c t causeAlign ofs
    else if !x.inBounds ofs 8 then s.trap c t causeCbound ofs
    else (s.cWrite c (x.cbase + ofs.toNat) (leBytes (x.rs (wbits w 41 37)).toNat 8)).advance c t)

end Sys2Proof.Machine
end

