-- ==== Sys2Proof/Machine/Services.lean ====
section
/-! DEFINITION. The decode-service units: SAMPLE, ACCEPT, ROUTE, and the end of a service request (R232 to R255). -/

namespace Sys2Proof.Machine

/-- ROUTE (R107, R250). -/
def execRoute (c : Lcid) (t : TSlot) (s : State) : Host.Outcome State Fault Refusal :=
  .next (s.issue 0x70 c t fun w s => s.enqueue c t w)
/-- SAMPLE (R107, R238). -/
def execSample (c : Lcid) (t : TSlot) (s : State) : Host.Outcome State Fault Refusal :=
  .next (s.issue 0x71 c t fun w s => s.enqueue c t w)
/-- ACCEPT (R107, R242). -/
def execAccept (c : Lcid) (t : TSlot) (s : State) : Host.Outcome State Fault Refusal :=
  .next (s.issue 0x72 c t fun w s => s.enqueue c t w)

/-! ### The parameter block (R237) -/

def SeqRec.seed (r : SeqRec) : Nat := r.le 0x40 8
def SeqRec.invTemp (r : SeqRec) : BitVec 32 := leF32 r.bytes 0x48
def SeqRec.topP (r : SeqRec) : BitVec 32 := leF32 r.bytes 0x4C
def SeqRec.repPen (r : SeqRec) : BitVec 32 := leF32 r.bytes 0x50
def SeqRec.presPen (r : SeqRec) : BitVec 32 := leF32 r.bytes 0x54
def SeqRec.freqPen (r : SeqRec) : BitVec 32 := leF32 r.bytes 0x58
def SeqRec.topK (r : SeqRec) : Nat := if r.le 0x5C 2 = 0 then 1024 else r.le 0x5C 2
def SeqRec.accMode (r : SeqRec) : Nat := r.le 0x5E 1 % 4
def SeqRec.stopEn (r : SeqRec) : Bool := maskBit (r.le 0x5E 1) 2
def SeqRec.stopToken (r : SeqRec) : Nat := r.le 0x74 3
/-- The step is greedy (R237). -/
def SeqRec.greedy (r : SeqRec) : Bool := r.accMode = 0 || (f32 r.invTemp).isZero

/-! ### Ranked candidates (R240, R241) -/

/-- A candidate: token and adjusted logit. -/
structure Cand where
  tok : Nat
  x : BitVec 32
deriving DecidableEq, Repr

/-- Rank order: larger x first, then the lower token (R240). -/
def Cand.before (a b : Cand) : Bool := f32gt a.x b.x || (!f32gt b.x a.x && decide (a.tok < b.tok))

/-- Puts a candidate at its rank. -/
def rankInsert (a : Cand) : List Cand → List Cand
  | [] => [a]
  | b :: l => if a.before b then a :: b :: l else b :: rankInsert a l

def rankAll (l : List Cand) : List Cand := l.foldl (fun acc a => rankInsert a acc) []

/-- Keeps the first occurrence of each token; says whether an entry was dropped. -/
def dedupTok : List Cand → List Nat → List Cand × Bool
  | [], _ => ([], false)
  | a :: l, seen =>
    if seen.contains a.tok then ((dedupTok l seen).1, true)
    else
      let r := dedupTok l (a.tok :: seen)
      (a :: r.1, r.2)

/-- The bytes of a candidate list. -/
def candBytes (l : List Cand) (flags : Nat) : List Byte :=
  leBytes l.length 4 ++ leBytes flags 4 ++ leBytes 0 8 ++ l.flatMap fun a => leBytes a.tok 4 ++ leBytes a.x.toNat 4

/-- The entries of a list of `n` from its bytes; a token keeps its reserved bits, so that they can be checked. -/
def candsOf (b : List Byte) (n : Nat) : List Cand :=
  (List.range n).map fun i => { tok := leAt b (16 + 8 * i) 4, x := leF32 b (20 + 8 * i) }

/-! ### SAMPLE (R238 to R241) -/

def rejFail (s : State) (c : Nat) (o : Op) : State :=
  (s.inc PRT_DS_ERR.REQ_REJ (partOf c)).failOp c o (protFail o)

/-- The adjusted logit of token `t` (R239), and the number of NaNs replaced. -/
def adjustLogit (r : SeqRec) (x : BitVec 32) (biases : List (BitVec 32)) (count : Nat) : BitVec 32 × Nat :=
  let ninf : BitVec 32 := 0xFF800000
  let fix := fun (x : BitVec 32) => if (f32 x).isNan then (ninf, 1) else (x, 0)
  let (x, n0) := fix x
  let x := if biases = [] then x else f32add x (sum32 (biases.map f32))
  let x := if count > 0 then
      let x := if f32gt x 0 then f32div x r.repPen else f32mul x r.repPen
      let x := f32sub x r.presPen
      f32sub x (mulFV (f32 r.freqPen) (.fin false count 0)).to32
    else x
  let x := if f32gt r.invTemp 0 then f32mul x r.invTemp else x
  let (x, n1) := fix x
  (x, n0 + n1)

/-- Number of nodes on the path from node 0 to node `j` whose token is `t`. -/
def SeqRec.pathCount (r : SeqRec) (j t : Nat) : Nat :=
  ((List.range r.n).filter fun i => maskBit (r.anc j) i && decide (r.token i = t)).length

/-- The penalty and bias lists of a record, if they can be read. -/
def State.penBias (s : State) (ctx : Nat) (r : SeqRec) : Option (List (Nat × Nat) × List (Nat × BitVec 32)) :=
  match s.readOva ctx (r.le 0x60 8) (8 * r.le 0x70 2), s.readOva ctx (r.le 0x68 8) (8 * r.le 0x72 2) with
  | some p, some b =>
    some ((List.range (r.le 0x70 2)).map (fun i => (leAt p (8 * i) 3, leAt p (8 * i + 4) 4)),
          (List.range (r.le 0x72 2)).map fun i => (leAt b (8 * i) 3, leF32 b (8 * i + 4)))
  | _, _ => none

/-- One row of shard mode: its list of at most `kc` entries, and the NaNs replaced. -/
def shardRow (r : SeqRec) (node base kc : Nat) (pens : List (Nat × Nat)) (bias : List (Nat × BitVec 32)) (logits : List (BitVec 32)) :
    List Byte × Nat :=
  let xs := logits.mapIdx fun i x =>
    let t := base + i
    let cnt := min 0xFFFFFFFF (((pens.filter fun e => e.1 = t).map (·.2)).sum + r.pathCount node t)
    (t, adjustLogit r x ((bias.filter fun e => e.1 = t).map (·.2)) cnt)
  let nans := (xs.map fun e => e.2.2).sum
  let all := rankAll ((xs.filter fun e => (f32 e.2.1).isFin).map fun e => { tok := e.1, x := e.2.1 })
  (candBytes (all.take kc) ((if nans > 0 then 1 else 0) + (if all.length > kc then 2 else 0)), nans)

/-- One row of merge mode over the bytes of its lists; none where a list does not have the form that R240 and R241 give the
sampler's lists: PRESUMED (log 90), the spec has only the acceptance unit check its lists (R243). -/
def mergeRow (kc : Nat) (lists : List (List Byte)) : Option (List Byte) :=
  let ls := lists.map fun b => candsOf b (leAt b 0 4)
  if lists.any (fun b => leAt b 0 4 > 1024)
      || ls.any (fun l => l.any fun a => decide (a.tok ≥ 2 ^ 24) || !(f32 a.x).isFin) then none
  else
    let d := dedupTok (rankAll ls.flatten) []
    let fl := (lists.map fun b => leAt b 4 4 % 8).foldl (· ||| ·) 0
    some (candBytes (d.1.take kc) (fl ||| ((if d.1.length > kc then 2 else 0) + (if d.2 then 4 else 0))))

/-- SAMPLE ends (R238 to R241). -/
def State.sampleRun (s : State) (c : Nat) (o : Op) : State :=
  match s.localRead c o o.a.toNat 64 with
  | (.error f, s) => s.failOp c o f
  | (.ok b, s) =>
    let q := leAt b 0 4
    let mode := leAt b 4 1
    let rows := leAt b 5 1 + 1
    let node0 := leAt b 6 1
    let lfmt := leAt b 7 1
    let kc := leAt b 8 2 + 1
    let nlist := leAt b 0xA 1 + 1
    let tbase := leAt b 0xC 4
    let tcount := leAt b 0x10 4
    let inOfs := leAt b 0x14 4
    let pitch := leAt b 0x18 4
    match s.stepOf q with
    | none => rejFail s c o
    | some (_, r) =>
      let e := s.seq q
      if e.state = .closed ∨ e.ctx ≠ o.ctx ∨ q ≥ 2 ^ 18 ∨ mode > 1 ∨ node0 + rows > r.n ∨ kc > 1024 ∨ inOfs % 64 ≠ 0
          ∨ leAt b 0xB 1 ≠ 0 ∨ (b.drop 0x1C).any (· ≠ 0)
          ∨ (mode = 0 ∧ (lfmt > 1 ∨ nlist ≠ 1 ∨ tcount = 0 ∨ tcount > 65536 ∨ tbase + tcount > 2 ^ 24))
          ∨ (mode = 1 ∧ (lfmt ≠ 0 ∨ nlist > 64 ∨ tbase ≠ 0 ∨ tcount ≠ 0)) then rejFail s c o
      else
        let (base, size) := s.opCell c o
        let per := 16 + 8 * kc
        if rows * per > size then s.failOp c o (pastCell o base size)
        else
          let eb := if lfmt = 1 then 2 else 4
          -- a list is read by its header first, then by its count
          let count := if mode = 0 then rows else rows * nlist
          match s.localReads c o ((List.range count).map fun i => (inOfs + i * pitch, if mode = 0 then tcount * eb else 16)) with
          | (.error f, s) => s.failOp c o f
          | (.ok hs, s) =>
          match (if mode = 0 then (.ok hs, s) else
              s.localReads c o (hs.mapIdx fun i h => (inOfs + i * pitch, 16 + 8 * min 1024 (leAt h 0 4)))) with
          | (.error f, s) => s.failOp c o f
          | (.ok l, s) =>
            let put := fun (s : State) (outs : List (List Byte)) =>
              let s := (outs.mapIdx fun i x => (base + i * per, x)).foldl (fun s w => s.portWrite c portRemote w.1 w.2) s
              (s.inc PRT_DS_SMP.SAMPLES (partOf c)).endOp c o
            if mode = 0 then
              let bad := s.ovaBad o.ctx (r.le 0x60 8) (8 * r.le 0x70 2) ++ s.ovaBad o.ctx (r.le 0x68 8) (8 * r.le 0x72 2)
              match (if bad ≠ [] then none else s.penBias o.ctx r) with
              | none =>
                s.failOp c o { cause := if bad ≠ [] then causePoison else causeXlate, addr := BitVec.ofNat 64 (r.le 0x60 8)
                               noGolden := bad ≠ [] }
              | some (pens, bias) =>
                let rs := l.mapIdx fun i bs =>
                  shardRow r (node0 + i) tbase kc pens bias ((List.range tcount).map fun k =>
                    if lfmt = 1 then BitVec.ofNat 32 (leAt bs (2 * k) 2 * 65536) else leF32 bs (4 * k))
                put (s.incr PRT_DS_SMP.LOGIT_NONFIN (partOf c) (rs.map (·.2)).sum) (rs.map (·.1))
            else
              let rs := (List.range rows).map fun i => mergeRow kc ((l.drop (i * nlist)).take nlist)
              if rs.any Option.isNone then rejFail s c o else put s (rs.filterMap id)

/-! ### ACCEPT (R242 to R248) -/

def log2e : BitVec 32 := 0x3FB8AA3B

/-- The kept prefix of a list with its exact weights (R243): token and weight by rank. -/
def weights (r : SeqRec) (l : List Cand) : List (Nat × Dy) :=
  match l with
  | [] => []
  | a :: _ =>
    let ws := l.map fun e => (e.tok, (f32 (exp2ref (f32mul (f32sub e.x a.x) log2e))).dy)
    let goal := (f32 r.topP).dy.mul (Dy.sum (ws.map (·.2)))
    let n := ((List.range ws.length).find? fun n => goal.le (Dy.sum ((ws.take (n + 1)).map (·.2)))).getD (ws.length - 1)
    ws.take (n + 1)

/-- The form the acceptance unit checks of the first K entries of a list (R243). -/
def candsOk : List Cand → List Nat → Option (BitVec 32) → Bool
  | [], _, _ => true
  | a :: l, seen, prev =>
    decide (a.tok < 2 ^ 24) && (f32 a.x).isFin && !seen.contains a.tok
      && (match prev with | some p => !f32gt a.x p | none => true) && candsOk l (a.tok :: seen) (some a.x)

/-- The weight of a token; absent tokens weigh 0. -/
def weightOf (w : List (Nat × Dy)) (t : Nat) : Dy := ((w.find? fun e => e.1 = t).map (·.2)).getD Dy.zero

/-- The draw of R244. -/
def SeqRec.draw (r : SeqRec) (pos kind k : Nat) : Nat :=
  (philox (r.seed % 2 ^ 32, r.seed / 2 ^ 32) (pos, kind + k * 256, 0, 0)).1

/-- The children of node `j`, ascending. -/
def SeqRec.children (r : SeqRec) (j : Nat) : List Nat := (List.range r.n).filter fun i => i ≠ 0 ∧ r.parent i = j

/-- The test of the children of a node (R245), from sibling rank `k`: the accepted child, and the residual weights. -/
def SeqRec.testKids (r : SeqRec) (pos top : Nat) : List Nat → Nat → List (Nat × Dy) → Option Nat × List (Nat × Dy)
  | [], _, w => (none, w)
  | c :: cs, k, w =>
    let t := r.token c
    if r.greedy then (if t = top then (some c, w) else r.testKids pos top cs (k + 1) w)
    else
      let sum := Dy.sum (w.map (·.2))
      let qv := if r.accMode = 1 then (⟨1, 0⟩ : Dy) else (f32 (r.q c)).dy
      if (((Dy.ofInt (r.draw pos 1 k)).mul qv).mul sum).lt ((weightOf w t).shift 32) then (some c, w)
      else
        let left := (weightOf w t).sub (qv.mul sum)
        r.testKids pos top cs (k + 1) (w.map fun e => if e.1 = t then (t, if left.isNeg then Dy.zero else left) else e)

/-- Where the walk ends: the path, whether the last list was empty, its ranked entries, and the weights left there. -/
structure WalkEnd where
  path : List Nat
  nocand : Bool
  cands : List Cand
  w : List (Nat × Dy)
deriving DecidableEq, Repr

/-- What a walk comes to: its end, a list that fails its check, or a failed read. -/
inductive Walk where
  | done (e : WalkEnd)
  | rej
  | bad (f : Fail)
deriving DecidableEq, Repr

/-- The walk of R245 from node `j`; `list` reads a node's first K entries. -/
def State.walk (s : State) (c : Nat) (o : Op) (r : SeqRec) (len dist pitch : Nat) : Nat → Nat → List Nat → Walk × State
  | 0, _, _ => (.rej, s)
  | fuel + 1, j, path =>
    let a := dist + j * pitch
    match s.localRead c o a 4 with
    | (.error f, s) => (.bad f, s)
    | (.ok h, s) =>
      let count := leNat h
      if count > 1024 then (.rej, s)
      else
        let k := min r.topK count
        match s.localRead c o a (16 + 8 * k) with
        | (.error f, s) => (.bad f, s)
        | (.ok b, s) =>
          let l := candsOf b k
          if !candsOk l [] none then (.rej, s)
          else
            match l with
            | [] => (.done { path := path, nocand := true, cands := [], w := [] }, s)
            | top :: _ =>
              let q := r.testKids (len + r.depth j) top.tok (r.children j) 0 (weights r l)
              match q.1 with
              | some n => s.walk c o r len dist pitch fuel n (path ++ [n])
              | none => (.done { path := path, nocand := false, cands := l, w := q.2 }, s)

/-- Path, released tokens and STATUS (R245, R247, R248). -/
def WalkEnd.result (e : WalkEnd) (r : SeqRec) (len : Nat) : List Nat × List Nat × Nat :=
  let j := e.path.getLastD 0
  let zero := !e.nocand && !r.greedy && (Dy.sum (e.w.map (·.2))).isZero
  let w := if zero then weights r e.cands else e.w
  let sum := Dy.sum (w.map (·.2))
  let u := Dy.ofInt (r.draw (len + r.depth j) 2 0)
  let bonus :=
    if r.greedy then (e.cands.map (·.tok)).headD 0
    else
      (((List.range w.length).find? fun n => (u.mul sum).lt ((Dy.sum ((w.take (n + 1)).map (·.2))).shift 32)).bind
        fun n => (w[n]?).map (·.1)).getD 0
  let toks := (e.path.drop 1).map r.token ++ (if e.nocand then [] else [bonus])
  let status := (if zero then 2 else 0) + (if e.nocand then 4 else 0) + (if r.greedy then 8 else 0)
  match (if r.stopEn then toks.findIdx? (· = r.stopToken) else none) with
  | none => (e.path, toks, status)
  | some i => (if i + 1 < e.path.length then e.path.take (i + 2) else e.path, toks.take (i + 1), status + 1)

/-- The 128 bytes of R248. -/
def acceptBytes (path toks : List Nat) (status : Nat) : List Byte :=
  leBytes status 4 ++ leBytes path.length 1 ++ leBytes toks.length 1 ++ leBytes 0 2
    ++ path.map (BitVec.ofNat 8) ++ List.replicate (16 - path.length) 0xFF
    ++ toks.flatMap (fun t => leBytes t 4) ++ List.replicate (4 * (16 - toks.length)) 0 ++ List.replicate 40 0

/-- ACCEPT ends (R242 to R248). -/
def State.acceptRun (s : State) (c : Nat) (o : Op) : State :=
  match s.localRead c o o.a.toNat 64 with
  | (.error f, s) => s.failOp c o f
  | (.ok b, s) =>
    let q := leAt b 0 4
    let commit := leAt b 4 1 = 1
    match s.stepOf q with
    | none => rejFail s c o
    | some (_, r) =>
      let e := s.seq q
      if e.state = .closed ∨ e.ctx ≠ o.ctx ∨ q ≥ 2 ^ 18 ∨ leAt b 4 1 > 1 ∨ leAt b 5 3 ≠ 0 ∨ leAt b 8 4 % 64 ≠ 0 ∨ leAt b 0xC 4 % 64 ≠ 0
          ∨ (b.drop 0x10).any (· ≠ 0) ∨ (commit ∧ r.accepted ≠ none) then rejFail s c o
      else
        let (base, size) := s.opCell c o
        if 128 > size then s.failOp c o (pastCell o base size)
        else
          match s.walk c o r e.len (leAt b 8 4) (leAt b 0xC 4) 17 0 [0] with
          | (.rej, s) => rejFail s c o
          | (.bad f, s) => s.failOp c o f
          | (.done w, s) =>
            let (path, toks, status) := w.result r e.len
            let res := acceptBytes path toks status
            let p := seqPart q
            let s := if commit then
                let s := s.modRec q fun r => { r with accepted := some res }
                let s := if toks = [] then s else s.modSeq q fun e => { e with lastTok := some (toks.getLastD 0) }
                let s := (s.incr PRT_DS_ACC.NODES_PROPOSED p (r.n - 1)).incr PRT_DS_ACC.NODES_ACCEPTED p (path.length - 1)
                let s := s.inc PRT_DS_SEQ.ACCEPTS p
                let s := if maskBit status 0 then s.inc PRT_DS_SEQ.STOPS p else s
                let s := if maskBit status 1 then s.inc PRT_DS_SEQ.RESID_ZERO p else s
                if maskBit status 2 then s.inc PRT_DS_SMP.NOCAND p else s
              else s
            (s.portWrite c portRemote base res).endOp c o

/-! ### ROUTE (R250 to R255) -/

/-- An expert of a row: its number, score and selection key. -/
structure ExpKey where
  e : Nat
  s : BitVec 32
  key : BitVec 32
deriving DecidableEq, Repr

def ExpKey.before (a b : ExpKey) : Bool := f32gt a.key b.key || (!f32gt b.key a.key && decide (a.e < b.e))

def expInsert (a : ExpKey) : List ExpKey → List ExpKey
  | [] => [a]
  | b :: l => if a.before b then a :: b :: l else b :: expInsert a l

/-- The experts of a row in selection order; a key that is not a number ranks as −∞. -/
def rankExperts (scores biases : List (BitVec 32)) (useBias : Bool) : List ExpKey :=
  let ninf : BitVec 32 := 0xFF800000
  (scores.mapIdx fun i x =>
    let k := if useBias then f32add x (biases.getD i 0) else x
    ({ e := i, s := x, key := if (f32 k).isNan then ninf else k } : ExpKey)).foldl (fun acc a => expInsert a acc) []

/-- The largest finite score; +0 where there is none. -/
def maxFinite (xs : List (BitVec 32)) : BitVec 32 :=
  match xs.filter fun x => (f32 x).isFin with
  | [] => 0
  | x :: l => l.foldl f32max x

/-- The weights of the selected experts of a row (R252). -/
def routeWeights (score : Nat) (norm : Bool) (wscale : BitVec 32) (all sel : List ExpKey) : List (BitVec 32) :=
  let soft : List ExpKey → List (BitVec 32) × Bool := fun xs =>
    let m := maxFinite (xs.map (·.s))
    let w := fun (x : ExpKey) => exp2ref (f32mul (f32sub x.s m) log2e)
    let z := sum32 (xs.map fun x => f32 (w x))
    (sel.map fun x => f32div (w x) z, (f32 z).isZero)
  let r : List (BitVec 32) × Bool := match score with
    | 0 => soft all
    | 1 => (sel.map fun x => f32div 0x3F800000 (f32add 0x3F800000 (exp2ref (f32mul (f32neg x.s) log2e))), false)
    | _ => soft sel
  let t := sum32 (r.1.map f32)
  let ws := if norm && f32gt t 0 then r.1.map fun w => f32div w t else r.1
  (ws.zip sel).map fun (w, x) => if r.2 || decide (x.key = 0xFF800000) then 0 else f32mul w wscale

/-- One row: its selections (expert, weight) and whether expert IDs decided membership (R251). -/
def routeRow (k score : Nat) (norm useBias : Bool) (wscale : BitVec 32) (scores biases : List (BitVec 32)) :
    List (Nat × BitVec 32) × Bool :=
  let all := rankExperts scores biases useBias
  let sel := all.take k
  let tie := match sel.getLast?, (all.drop k).head? with
    | some a, some b => !f32gt a.key b.key
    | _, _ => false
  ((sel.map (·.e)).zip (routeWeights score norm wscale all sel), tie)

/-- Order of a bucket table's selections: expert, row, rank. -/
def selBefore (a b : Nat × Nat × Nat × BitVec 32) : Bool :=
  a.1 < b.1 ∨ (a.1 = b.1 ∧ (a.2.1 < b.2.1 ∨ (a.2.1 = b.2.1 ∧ a.2.2.1 < b.2.2.1)))

def selInsert (a : Nat × Nat × Nat × BitVec 32) : List (Nat × Nat × Nat × BitVec 32) → List (Nat × Nat × Nat × BitVec 32)
  | [] => [a]
  | b :: l => if selBefore a b then a :: b :: l else b :: selInsert a l

/-- The bucket table of a set (R254). -/
def bucketTable (set : List (Nat × Nat × Nat × BitVec 32)) : List Byte :=
  let l := set.foldl (fun acc a => selInsert a acc) []
  let es := (l.map (·.1)).dedup
  leBytes es.length 4 ++ leBytes l.length 4 ++ leBytes 0 8
    ++ (es.flatMap fun e =>
        leBytes e 2 ++ leBytes (l.filter fun a => a.1 = e).length 2 ++ leBytes ((l.findIdx? fun a => a.1 = e).getD 0) 4)
    ++ l.flatMap fun a => leBytes (a.2.1 % 2 ^ 24 + a.2.2.1 * 2 ^ 24) 4 ++ leBytes a.2.2.2.toNat 4

/-- ROUTE ends (R250 to R254). -/
def State.routeRun (s : State) (c : Nat) (o : Op) : State :=
  match s.localRead c o o.a.toNat 64 with
  | (.error f, s) => s.failOp c o f
  | (.ok b, s) =>
    let rows := leAt b 0 2 + 1
    let n := leAt b 2 2 + 1
    let k := leAt b 4 1 + 1
    let fn := leAt b 5 1
    let bf := leAt b 6 1 = 1
    let useBias := maskBit fn 2
    let inOfs := leAt b 8 4
    let pitch := leAt b 0xC 4
    let bktOfs := leAt b 0x1C 4
    if rows > 256 ∨ n > 8192 ∨ k > 16 ∨ k > n ∨ fn % 4 = 3 ∨ fn ≥ 128 ∨ leAt b 6 1 > 1 ∨ leAt b 7 1 ≠ 0 ∨ inOfs % 64 ≠ 0
        ∨ bktOfs % 64 ≠ 0 ∨ (b.drop 0x24).any (· ≠ 0) then rejFail s c o
    else
      let (base, size) := s.opCell c o
      if rows * 8 * k > size then s.failOp c o (pastCell o base size)
      else
        match s.localReads c o ((leAt b 0x10 4, if useBias then 4 * n else 0)
            :: (List.range rows).map fun i => (inOfs + i * pitch, n * (if bf then 2 else 4))) with
        | (.error f, s) => s.failOp c o f
        | (.ok l, s) =>
          let bias := (List.range n).map fun i => leF32 (l.headD []) (4 * i)
          let raw := (l.drop 1).map fun bs => (List.range n).map fun i =>
            if bf then BitVec.ofNat 32 (leAt bs (2 * i) 2 * 65536) else leF32 bs (4 * i)
          let nans := (raw.map fun r => (r.filter fun x => (f32 x).isNan).length).sum
          let scores := raw.map fun r => r.map fun x => if (f32 x).isNan then (0xFF800000 : BitVec 32) else x
          let rs := scores.map fun sc => routeRow k (fn % 4) (maskBit fn 3) useBias (leF32 b 0x14) sc bias
          let old := if maskBit fn 5 then [] else (s.core c).bset
          let add := if maskBit fn 4 then
              (rs.mapIdx fun i r => r.1.mapIdx fun rank x => (x.1, leAt b 0x18 4 + i, rank, x.2)).flatten
            else []
          let set := old ++ add
          let tbl := if maskBit fn 6 then bucketTable set else []
          if set.length > 16384 then rejFail s c o
          else if tbl.length > leAt b 0x20 4 ∧ tbl ≠ [] then s.failOp c o (boundFail (bktOfs + leAt b 0x20 4))
          else if tbl ≠ [] ∧ !o.within bktOfs tbl.length then s.failOp c o (boundFail bktOfs)
          else
            let p := partOf c
            let s := s.modCore c fun q => { q with bset := set, routeNonfin := raw.map fun r => r.any fun x => (f32 x).isNan }
            let s := (s.incr PRT_DS_RTE.ROUTED_ROWS p rows).incr PRT_DS_RTE.SCORE_NONFIN p nans
            let s := s.incr PRT_DS_RTE.TIE_CNT p (rs.filter (·.2)).length
            let s := if tbl = [] then s else s.portWrite c portRemote (o.cbase + bktOfs) tbl
            (s.portWrite c portRemote base (rs.flatMap fun r => r.1.flatMap fun x => leBytes x.1 4 ++ leBytes x.2.toNat 4)).endOp c o

/-! ### The end of a request -/

/-- An earlier request of the same kind waits at its unit in the partition: the sampler, the acceptance unit and the router
serve theirs in order of arrival. -/
def State.behind (s : State) (c : Nat) (o : Op) : Bool :=
  decide (o.op ∈ [0x70, 0x71, 0x72]) && (List.range' (32 * partOf c) 32).any fun k =>
    (s.core k).ops.any fun e => decide (e.op = o.op) && decide (e.arrival < o.arrival)

/-- An AFIN, AREV, ROUTE, SAMPLE or ACCEPT request writes its result and fills its cell (R107, R128). -/
def execServiceRequestEnd (c : Lcid) (op : Nat) (s : State) : Host.Outcome State Fault Refusal :=
  .next (
    match (s.core c).ops.find? fun o => o.id = op with
    | none => s
    | some o =>
      if !s.inTurn c o ∨ (o.flag ≠ none ∧ !o.started) ∨ s.behind c o then s
      else
        match o.op with
        | 0x69 => s.afinRun c o
        | 0x6A => s.arevRun c o
        | 0x70 => s.routeRun c o
        | 0x71 => s.sampleRun c o
        | 0x72 => s.acceptRun c o
        | _ => s)

end Sys2Proof.Machine
end

