-- ==== Sys2Proof/Machine/Sheet.lean ====
section
/-! DEFINITION. Sheet and vector-move instructions (R104, R118). -/

namespace Sys2Proof.Machine

/-- Lane `i` of a vector register. -/
def VReg.lane (v : VReg) (i : Nat) : Lane := BitVec.ofNat 32 (v.toNat / 2 ^ (32 * i))

/-- A vector register from its lanes. -/
def VReg.ofLanes (ls : List Lane) : VReg := BitVec.ofNat 2048 (ls.foldr (fun l acc => l.toNat + 2 ^ 32 * acc) 0)

/-- The 64 lanes of a vector register. -/
def VReg.lanes (v : VReg) : List Lane := (List.range 64).map (VReg.lane v)

/-- Lane `i` of `new` where bit `i` of the predicate is 1, else of `old` (R92). -/
def maskLanes (pred : Word) (old new : VReg) : VReg :=
  VReg.ofLanes ((List.range 64).map fun i => if pred.toNat / 2 ^ i % 2 = 1 then VReg.lane new i else VReg.lane old i)

/-- Writes v[d] under the word's predicate and moves on. -/
def State.writeVec (s : State) (c t : Nat) (w : Word) (d : Nat) (v : VReg) : State :=
  s.modThr c t fun x => { x.setV d (maskLanes (x.pred w) (x.rv d) v) with pc := x.pc + 1 }

/-- With PS = 0 and PN = 1 an instruction never executes (R92). -/
def neverRuns (w : Word) : Bool := wPs w = 0 ∧ wPn w = 1

/-- Byte offsets, from CBASE, of the 32 words a sheet access names (R104, R118): MODE 0 a row, MODE 1 a column of row
width s[B], MODE 2 a stride of s[B] words. -/
def Thread.sheetOfs (x : Thread) (w : Word) : List Int :=
  let base := (x.memOfs w (wbits w 47 43)).toInt
  let b := x.rs (wbits w 42 38)
  let stride : Int := match wbits w 37 35 with
    | 0 => 1
    | 1 => b.toNat
    | _ => b.toInt
  (List.range 32).map fun j => base + 8 * ((j : Int) * stride)

/-- Every word lies inside the thread's bound (R89, R118). -/
def Thread.sheetIn (x : Thread) (ofs : List Int) : Bool := ofs.all fun o => 0 ≤ o ∧ o + 8 ≤ x.cbound

/-- Reads the words at the given offsets, in order: the value of each, or the first poisoned word. -/
def State.readWords (s : State) (c : Nat) : List Nat → (Option (List Word) × Nat) × State
  | [] => ((some [], 0), s)
  | o :: os =>
    let r := s.cRead c o 8
    match r.1.1 with
    | none => ((none, r.1.2), r.2)
    | some bs =>
      let q := r.2.readWords c os
      match q.1.1 with
      | none => ((none, q.1.2), q.2)
      | some ws => ((some (BitVec.ofNat 64 (leNat bs) :: ws), 0), q.2)

/-- A vector register from 32 words: word `j` in lanes 2j and 2j + 1 (R104). -/
def VReg.ofWords (ws : List Word) : VReg := BitVec.ofNat 2048 (ws.foldr (fun l acc => l.toNat + 2 ^ 64 * acc) 0)

/-- Word `j` of a vector register. -/
def VReg.word (v : VReg) (j : Nat) : Word := BitVec.ofNat 64 (v.toNat / 2 ^ (64 * j))

/-- Loads v[V] from 32 words of Canopy under the word's predicate. -/
def State.loadVec (s : State) (c t : Nat) (w : Word) (ofs : List Nat) : State :=
  let r := s.readWords c ofs
  match r.1.1 with
  | some ws => r.2.writeVec c t w (wbits w 51 48) (VReg.ofWords ws)
  | none => r.2.trapWord c t r.1.2

/-- Stores the 32 words of v[V] to Canopy, in order. -/
def State.storeVec (s : State) (c t : Nat) (w : Word) (ofs : List Nat) : State :=
  let v := (s.thr c t).rv (wbits w 51 48)
  let s := (ofs.mapIdx fun j o => (j, o)).foldl (fun s e => s.cWrite c e.2 (leBytes (VReg.word v e.1).toNat 8)) s
  s.advance c t

/-- The shared checks of VLD and VST: alignment to 64 and the bound (R89, R104). -/
def State.vecMove (s : State) (c t : Nat) (w : Word) (act : List Nat → State → State) : State :=
  let x := s.thr c t
  if neverRuns w then s.advance c t
  else
    let ofs := x.memOfs w (wbits w 47 43)
    if ofs.toNat % 64 ≠ 0 then s.trap c t causeAlign ofs
    else if !x.inBounds ofs 256 then s.trap c t causeCbound ofs
    else act ((List.range 32).map fun j => x.cbase + ofs.toNat + 8 * j) s

/-- The shared checks of SREAD and SWRITE: alignment to 8 and the bound of every word (R104, R118). -/
def State.sheetMove (s : State) (c t : Nat) (w : Word) (act : List Nat → State → State) : State :=
  let x := s.thr c t
  if neverRuns w then s.advance c t
  else
    let base := x.memOfs w (wbits w 47 43)
    let ofs := x.sheetOfs w
    if base.toNat % 8 ≠ 0 then s.trap c t causeAlign base
    else if !x.sheetIn ofs then s.trap c t causeCbound base
    else act (ofs.map fun o => x.cbase + o.toNat) s

/-- SREAD (R104, R118). -/
def execSread (c : Lcid) (t : TSlot) (s : State) : Host.Outcome State Fault Refusal :=
  .next (s.issue 0x38 c t fun w s => s.sheetMove c t w fun ofs s => s.loadVec c t w ofs)

/-- SWRITE (R104, R118): with a stride of 0 the word of position 31 stands. -/
def execSwrite (c : Lcid) (t : TSlot) (s : State) : Host.Outcome State Fault Refusal :=
  .next (s.issue 0x39 c t fun w s => s.sheetMove c t w fun ofs s => s.storeVec c t w ofs)

/-- VLD (R104). -/
def execVld (c : Lcid) (t : TSlot) (s : State) : Host.Outcome State Fault Refusal :=
  .next (s.issue 0x50 c t fun w s => s.vecMove c t w fun ofs s => s.loadVec c t w ofs)

/-- VST (R104). -/
def execVst (c : Lcid) (t : TSlot) (s : State) : Host.Outcome State Fault Refusal :=
  .next (s.issue 0x51 c t fun w s => s.vecMove c t w fun ofs s => s.storeVec c t w ofs)

end Sys2Proof.Machine
end

