-- ==== Sys2Proof/Machine/Vector.lean ====
section
/-! DEFINITION. Vector arithmetic (R105, R106). -/

namespace Sys2Proof.Machine

/-- TY of a format V word: INT32 lanes when 1. -/
def vTy (w : Word) : Bool := wbits w 35 35 = 1

/-- Lane-wise operation on v[A], v[B], v[C] into v[D] under the predicate (R92, R105). -/
def State.vecOp (s : State) (op c t : Nat) (f : Word → Nat → Lane → Lane → Lane → Lane) : State :=
  s.issue op c t fun w s =>
    let x := s.thr c t
    let a := x.rv (wbits w 47 44)
    let b := x.rv (wbits w 43 40)
    let d := x.rv (wbits w 39 36)
    s.writeVec c t w (wbits w 51 48)
      (VReg.ofLanes ((List.range 64).map fun i => f w i (VReg.lane a i) (VReg.lane b i) (VReg.lane d i)))

/-- VADD (R105). -/
def execVadd (c : Lcid) (t : TSlot) (s : State) : Host.Outcome State Fault Refusal :=
  .next (s.vecOp 0x52 c t fun w _ a b _ => if vTy w then a + b else f32add a b)
/-- VMUL (R105). -/
def execVmul (c : Lcid) (t : TSlot) (s : State) : Host.Outcome State Fault Refusal :=
  .next (s.vecOp 0x53 c t fun w _ a b _ => if vTy w then a * b else f32mul a b)
/-- VFMA (R105): a × b + c with one rounding. -/
def execVfma (c : Lcid) (t : TSlot) (s : State) : Host.Outcome State Fault Refusal :=
  .next (s.vecOp 0x54 c t fun w _ a b d => if vTy w then a * b + d else f32fma a b d)

/-- Signed maximum and minimum of INT32 lanes. -/
def i32max (a b : Lane) : Lane := if a.toInt < b.toInt then b else a
def i32min (a b : Lane) : Lane := if b.toInt < a.toInt then b else a

/-- VMAX (R105). -/
def execVmax (c : Lcid) (t : TSlot) (s : State) : Host.Outcome State Fault Refusal :=
  .next (s.vecOp 0x55 c t fun w _ a b _ => if vTy w then i32max a b else f32max a b)
/-- VMIN (R105). -/
def execVmin (c : Lcid) (t : TSlot) (s : State) : Host.Outcome State Fault Refusal :=
  .next (s.vecOp 0x56 c t fun w _ a b _ => if vTy w then i32min a b else f32min a b)
/-- VEXP2 (R105). -/
def execVexp2 (c : Lcid) (t : TSlot) (s : State) : Host.Outcome State Fault Refusal :=
  .next (s.vecOp 0x57 c t fun _ _ a _ _ => exp2ref a)
/-- VRSQ (R105). -/
def execVrsq (c : Lcid) (t : TSlot) (s : State) : Host.Outcome State Fault Refusal :=
  .next (s.vecOp 0x58 c t fun _ _ a _ _ => rsqref a)
/-- VRCP (R105). -/
def execVrcp (c : Lcid) (t : TSlot) (s : State) : Host.Outcome State Fault Refusal :=
  .next (s.vecOp 0x59 c t fun _ _ a _ _ => rcpref a)
/-- VCVT by MOD (R106). -/
def execVcvt (c : Lcid) (t : TSlot) (s : State) : Host.Outcome State Fault Refusal :=
  .next (s.vecOp 0x5A c t fun w _ a _ _ =>
    match wbits w 34 32 with
    | 0 => f32ToI32 a
    | 1 => i32ToF32 a
    | _ => f32ToBf16 a)
/-- VSEL (R105): lane i of v[A] where bit i of p[MOD] is 1, of v[B] otherwise. -/
def execVsel (c : Lcid) (t : TSlot) (s : State) : Host.Outcome State Fault Refusal :=
  .next (s.vecOp 0x5D c t fun w i a b _ =>
    if ((s.thr c t).rp (wbits w 34 32)).toNat / 2 ^ i % 2 = 1 then a else b)

/-- One level of the pairwise tree: neighbours combined (R106). -/
def pairUp (f : Lane → Lane → Lane) : List Lane → List Lane
  | a :: b :: r => f a b :: pairUp f r
  | r => r

/-- The six levels of the pairwise tree over 64 lanes (R106). -/
def tree64 (f : Lane → Lane → Lane) (ls : List Lane) : Lane :=
  (((fun x => pairUp f (pairUp f (pairUp f (pairUp f (pairUp f (pairUp f x)))))) ls).head?).getD 0

/-- VRED (R106). -/
def execVred (c : Lcid) (t : TSlot) (s : State) : Host.Outcome State Fault Refusal :=
  .next (s.issue 0x5B c t fun w s =>
    let ls := VReg.lanes ((s.thr c t).rv (wbits w 47 44))
    let f : Lane → Lane → Lane := match wbits w 34 32, vTy w with
      | 0, false => f32add
      | 0, true => fun a b => a + b
      | 1, false => f32max
      | 1, true => i32max
      | _, false => f32min
      | _, true => i32min
    s.writeVec c t w (wbits w 51 48) (VReg.ofLanes (tree64 f ls :: List.replicate 63 0)))

/-- VSTAT (R106): lane 0 the maximum m, lane 1 the sum of 2^(a[i] − m), both in the pairwise tree. With TY = 1 the spec
states no such sum of integers: lane 1 is a free value of the operand. -/
def execVstat (c : Lcid) (t : TSlot) (s : State) : Host.Outcome State Fault Refusal :=
  .next (s.issue 0x5C c t fun w s =>
    let v := (s.thr c t).rv (wbits w 47 44)
    let ls := VReg.lanes v
    if vTy w then
      s.writeVec c t w (wbits w 51 48) (VReg.ofLanes (tree64 i32max ls :: Config.statLane v :: List.replicate 62 0))
    else
      let m := tree64 f32max ls
      let z := tree64 f32add (ls.map fun a => exp2ref (f32sub a m))
      s.writeVec c t w (wbits w 51 48) (VReg.ofLanes (m :: z :: List.replicate 62 0)))

end Sys2Proof.Machine
end

