-- ==== Sys2Proof/Machine/Dispatch.lean ====
section
/-! DEFINITION. Which meaning each command has: one arm for each row of spec/opcode_table.json. -/

namespace Sys2Proof.Machine

def exec (i : Instr) (s : State) : Host.Outcome State Fault Refusal :=
  match i with
  | .nop c t => Sys2Proof.Machine.execNop c t s
  | .jmp c t => Sys2Proof.Machine.execJmp c t s
  | .brc c t => Sys2Proof.Machine.execBrc c t s
  | .loop c t => Sys2Proof.Machine.execLoop c t s
  | .endl c t => Sys2Proof.Machine.execEndl c t s
  | .wtick c t => Sys2Proof.Machine.execWtick c t s
  | .halt c t => Sys2Proof.Machine.execHalt c t s
  | .trap c t => Sys2Proof.Machine.execTrap c t s
  | .fence c t => Sys2Proof.Machine.execFence c t s
  | .sadd c t => Sys2Proof.Machine.execSadd c t s
  | .ssub c t => Sys2Proof.Machine.execSsub c t s
  | .smul c t => Sys2Proof.Machine.execSmul c t s
  | .sand c t => Sys2Proof.Machine.execSand c t s
  | .sor c t => Sys2Proof.Machine.execSor c t s
  | .sxor c t => Sys2Proof.Machine.execSxor c t s
  | .sshl c t => Sys2Proof.Machine.execSshl c t s
  | .sshr c t => Sys2Proof.Machine.execSshr c t s
  | .sli c t => Sys2Proof.Machine.execSli c t s
  | .sld c t => Sys2Proof.Machine.execSld c t s
  | .sst c t => Sys2Proof.Machine.execSst c t s
  | .scmp c t => Sys2Proof.Machine.execScmp c t s
  | .take c t => Sys2Proof.Machine.execTake c t s
  | .put c t => Sys2Proof.Machine.execPut c t s
  | .peek c t => Sys2Proof.Machine.execPeek c t s
  | .cset c t => Sys2Proof.Machine.execCset c t s
  | .cclr c t => Sys2Proof.Machine.execCclr c t s
  | .wopen c t => Sys2Proof.Machine.execWopen c t s
  | .wclose c t => Sys2Proof.Machine.execWclose c t s
  | .tload c t => Sys2Proof.Machine.execTload c t s
  | .tstore c t => Sys2Proof.Machine.execTstore c t s
  | .tscat c t => Sys2Proof.Machine.execTscat c t s
  | .tgath c t => Sys2Proof.Machine.execTgath c t s
  | .rput c t => Sys2Proof.Machine.execRput c t s
  | .radd c t => Sys2Proof.Machine.execRadd c t s
  | .sread c t => Sys2Proof.Machine.execSread c t s
  | .swrite c t => Sys2Proof.Machine.execSwrite c t s
  | .lcfg c t => Sys2Proof.Machine.execLcfg c t s
  | .lmac c t => Sys2Proof.Machine.execLmac c t s
  | .ldrain c t => Sys2Proof.Machine.execLdrain c t s
  | .ocfg c t => Sys2Proof.Machine.execOcfg c t s
  | .vld c t => Sys2Proof.Machine.execVld c t s
  | .vst c t => Sys2Proof.Machine.execVst c t s
  | .vadd c t => Sys2Proof.Machine.execVadd c t s
  | .vmul c t => Sys2Proof.Machine.execVmul c t s
  | .vfma c t => Sys2Proof.Machine.execVfma c t s
  | .vmax c t => Sys2Proof.Machine.execVmax c t s
  | .vmin c t => Sys2Proof.Machine.execVmin c t s
  | .vexp2 c t => Sys2Proof.Machine.execVexp2 c t s
  | .vrsq c t => Sys2Proof.Machine.execVrsq c t s
  | .vrcp c t => Sys2Proof.Machine.execVrcp c t s
  | .vcvt c t => Sys2Proof.Machine.execVcvt c t s
  | .vred c t => Sys2Proof.Machine.execVred c t s
  | .vstat c t => Sys2Proof.Machine.execVstat c t s
  | .vsel c t => Sys2Proof.Machine.execVsel c t s
  | .apage c t => Sys2Proof.Machine.execApage c t s
  | .afin c t => Sys2Proof.Machine.execAfin c t s
  | .arev c t => Sys2Proof.Machine.execArev c t s
  | .route c t => Sys2Proof.Machine.execRoute c t s
  | .sample c t => Sys2Proof.Machine.execSample c t s
  | .accept c t => Sys2Proof.Machine.execAccept c t s
  | .tagWaitResume c t => Sys2Proof.Machine.execTagWaitResume c t s
  | .queueEntryFree c t => Sys2Proof.Machine.execQueueEntryFree c t s
  | .wtickWake c t => Sys2Proof.Machine.execWtickWake c t s
  | .fenceRelease c t => Sys2Proof.Machine.execFenceRelease c t s
  | .starve c t op => Sys2Proof.Machine.execStarve c t op s
  | .lcfgApply c => Sys2Proof.Machine.execLcfgApply c s
  | .ocfgApply c => Sys2Proof.Machine.execOcfgApply c s
  | .lmacStart c => Sys2Proof.Machine.execLmacStart c s
  | .lmacEnd c => Sys2Proof.Machine.execLmacEnd c s
  | .ldrainStart c => Sys2Proof.Machine.execLdrainStart c s
  | .ldrainEnd c => Sys2Proof.Machine.execLdrainEnd c s
  | .engineClaimGrant c op => Sys2Proof.Machine.execEngineClaimGrant c op s
  | .transferComplete c op => Sys2Proof.Machine.execTransferComplete c op s
  | .engineFaultReport c => Sys2Proof.Machine.execEngineFaultReport c s
  | .remoteAccessArrive c src op => Sys2Proof.Machine.execRemoteAccessArrive c src op s
  | .gatherFlush c port => Sys2Proof.Machine.execGatherFlush c port s
  | .apageEngineStart p => Sys2Proof.Machine.execApageEngineStart p s
  | .apageEnd p engine => Sys2Proof.Machine.execApageEnd p engine s
  | .serviceRequestEnd c op => Sys2Proof.Machine.execServiceRequestEnd c op s
  | .slotEndCheck k slot => Sys2Proof.Machine.execSlotEndCheck k slot s
  | .slipApply k => Sys2Proof.Machine.execSlipApply k s
  | .admittingBoundary k => Sys2Proof.Machine.execAdmittingBoundary k s
  | .heartbeatTimeout k member => Sys2Proof.Machine.execHeartbeatTimeout k member s
  | .gateStream k gate => Sys2Proof.Machine.execGateStream k gate s
  | .gateClaspDed k gate => Sys2Proof.Machine.execGateClaspDed k gate s
  | .gateTickPut k gate => Sys2Proof.Machine.execGateTickPut k gate s
  | .xdevEvent k event => Sys2Proof.Machine.execXdevEvent k event s
  | .slotOpen k slot => Sys2Proof.Machine.execSlotOpen k slot s
  | .subslotOpen k slot sub => Sys2Proof.Machine.execSubslotOpen k slot sub s
  | .trailRun k => Sys2Proof.Machine.execTrailRun k s
  | .stopBoundary k => Sys2Proof.Machine.execStopBoundary k s
  | .takeover k => Sys2Proof.Machine.execTakeover k s
  | .coreRetire c => Sys2Proof.Machine.execCoreRetire c s
  | .kvPrepare p => Sys2Proof.Machine.execKvPrepare p s
  | .kvCommit p => Sys2Proof.Machine.execKvCommit p s
  | .kvImportCopyEnd seq => Sys2Proof.Machine.execKvImportCopyEnd seq s
  | .kvExportEnd seq => Sys2Proof.Machine.execKvExportEnd seq s
  | .step r => Sys2Proof.Machine.execStep r s
  | .adapterStep r => Sys2Proof.Machine.execAdapterStep r s
  | .seqOpen r => Sys2Proof.Machine.execSeqOpen r s
  | .seqClose r => Sys2Proof.Machine.execSeqClose r s
  | .kvImport r => Sys2Proof.Machine.execKvImport r s
  | .kvExport r => Sys2Proof.Machine.execKvExport r s
  | .objMap r => Sys2Proof.Machine.execObjMap r s
  | .objMapShare r => Sys2Proof.Machine.execObjMapShare r s
  | .objMapAdopt r => Sys2Proof.Machine.execObjMapAdopt r s
  | .objPlace r => Sys2Proof.Machine.execObjPlace r s
  | .objPlaceArrange r => Sys2Proof.Machine.execObjPlaceArrange r s
  | .objUnmap r => Sys2Proof.Machine.execObjUnmap r s
  | .migrationTileSwitch p => Sys2Proof.Machine.execMigrationTileSwitch p s
  | .trailLoad r => Sys2Proof.Machine.execTrailLoad r s
  | .trailStart r => Sys2Proof.Machine.execTrailStart r s
  | .trailStop r => Sys2Proof.Machine.execTrailStop r s
  | .quotaSet r => Sys2Proof.Machine.execQuotaSet r s
  | .snapshot r => Sys2Proof.Machine.execSnapshot r s
  | .snapshotCapture k => Sys2Proof.Machine.execSnapshotCapture k s
  | .snapshotCopyEnd k => Sys2Proof.Machine.execSnapshotCopyEnd k s
  | .migrate r => Sys2Proof.Machine.execMigrate r s
  | .migrateBoundary x => Sys2Proof.Machine.execMigrateBoundary x s
  | .migrateSequenceLanded x seq => Sys2Proof.Machine.execMigrateSequenceLanded x seq s
  | .fenceDescriptor r => Sys2Proof.Machine.execFenceDescriptor r s
  | .nopDescriptor r => Sys2Proof.Machine.execNopDescriptor r s
  | .profileSet r => Sys2Proof.Machine.execProfileSet r s
  | .profileChangeEnd => Sys2Proof.Machine.execProfileChangeEnd s
  | .watchEnter r => Sys2Proof.Machine.execWatchEnter r s
  | .watchExit profile => Sys2Proof.Machine.execWatchExit profile s
  | .sqTail r tail mem => Sys2Proof.Machine.execSqTail r tail mem s
  | .cqHead r head => Sys2Proof.Machine.execCqHead r head s
  | .eqHead r head => Sys2Proof.Machine.execEqHead r head s
  | .ringHeaderDoorbell r => Sys2Proof.Machine.execRingHeaderDoorbell r s
  | .descriptorFetch r => Sys2Proof.Machine.execDescriptorFetch r s
  | .cqSpaceResume r => Sys2Proof.Machine.execCqSpaceResume r s
  | .modTicksExpiry r => Sys2Proof.Machine.execModTicksExpiry r s
  | .create n mem => Sys2Proof.Machine.execCreate n mem s
  | .destroy n => Sys2Proof.Machine.execDestroy n s
  | .rebase n mem => Sys2Proof.Machine.execRebase n mem s
  | .rebaseApply x => Sys2Proof.Machine.execRebaseApply x s
  | .adminContextCreate mem => Sys2Proof.Machine.execAdminContextCreate mem s
  | .adminContextDestroy => Sys2Proof.Machine.execAdminContextDestroy s
  | .kill p => Sys2Proof.Machine.execKill p s
  | .keyErasure x => Sys2Proof.Machine.execKeyErasure x s
  | .contextRelease x => Sys2Proof.Machine.execContextRelease x s
  | .clearEnd c => Sys2Proof.Machine.execClearEnd c s
  | .prtIsoBindWrite c v => Sys2Proof.Machine.execPrtIsoBindWrite c v s
  | .bindEffect c => Sys2Proof.Machine.execBindEffect c s
  | .prtIsoGrpWrite p v => Sys2Proof.Machine.execPrtIsoGrpWrite p v s
  | .prtTbbWrite c t canopy v => Sys2Proof.Machine.execPrtTbbWrite c t canopy v s
  | .prtKvBktWrite p b v => Sys2Proof.Machine.execPrtKvBktWrite p b v s
  | .prtXlCfgWrite p v => Sys2Proof.Machine.execPrtXlCfgWrite p v s
  | .prtXlPteRead p => Sys2Proof.Machine.execPrtXlPteRead p s
  | .ntuTimeLoRead => Sys2Proof.Machine.execNtuTimeLoRead s
  | .marginRst => Sys2Proof.Machine.execMarginRst s
  | .ntuLeadWrite v => Sys2Proof.Machine.execNtuLeadWrite v s
  | .ntuGuardWrite v => Sys2Proof.Machine.execNtuGuardWrite v s
  | .trkRegWrite st p v => Sys2Proof.Machine.execTrkRegWrite st p v s
  | .rtfSlotWrite t p v => Sys2Proof.Machine.execRtfSlotWrite t p v s
  | .prtClpBudWrite st p v => Sys2Proof.Machine.execPrtClpBudWrite st p v s
  | .fltSevCfgWrite v => Sys2Proof.Machine.execFltSevCfgWrite v s
  | .zxlSpanWrite v => Sys2Proof.Machine.execZxlSpanWrite v s
  | .regWrite fn bar offset size v => Sys2Proof.Machine.execRegWrite fn bar offset size v s
  | .ntuStep => Sys2Proof.Machine.execNtuStep s
  | .pllLock => Sys2Proof.Machine.execPllLock s
  | .refLost => Sys2Proof.Machine.execRefLost s
  | .refReturn => Sys2Proof.Machine.execRefReturn s
  | .ppsInEdge frac => Sys2Proof.Machine.execPpsInEdge frac s
  | .ppsMissing => Sys2Proof.Machine.execPpsMissing s
  | .noValidMeasurement => Sys2Proof.Machine.execNoValidMeasurement s
  | .ptpAnnounce port h rank => Sys2Proof.Machine.execPtpAnnounce port h rank s
  | .ptpSync port h twoStep t1 corr t2 => Sys2Proof.Machine.execPtpSync port h twoStep t1 corr t2 s
  | .ptpFollowUp port h t1 corr => Sys2Proof.Machine.execPtpFollowUp port h t1 corr s
  | .ptpDelayResp port h t3 t4 corr => Sys2Proof.Machine.execPtpDelayResp port h t3 t4 corr s
  | .teUpdate => Sys2Proof.Machine.execTeUpdate s
  | .timeFrameSend link => Sys2Proof.Machine.execTimeFrameSend link s
  | .time f t => Sys2Proof.Machine.execTime f t s
  | .idle f => Sys2Proof.Machine.execIdle f s
  | .credit f => Sys2Proof.Machine.execCredit f s
  | .ack f => Sys2Proof.Machine.execAck f s
  | .nak f => Sys2Proof.Machine.execNak f s
  | .write f => Sys2Proof.Machine.execWrite f s
  | .addF f => Sys2Proof.Machine.execAddF f s
  | .addI f => Sys2Proof.Machine.execAddI f s
  | .resp f => Sys2Proof.Machine.execResp f s
  | .tile f => Sys2Proof.Machine.execTile f s
  | .ctrl f m => Sys2Proof.Machine.execCtrl f m s
  | .fault f r => Sys2Proof.Machine.execFault f r s
  | .train f caps => Sys2Proof.Machine.execTrain f caps s
  | .frameReservedType f => Sys2Proof.Machine.execFrameReservedType f s
  | .linkActive link => Sys2Proof.Machine.execLinkActive link s
  | .retrainTimeout link => Sys2Proof.Machine.execRetrainTimeout link s
  | .laneErrorRate link lane => Sys2Proof.Machine.execLaneErrorRate link lane s
  | .laneRetire link lane => Sys2Proof.Machine.execLaneRetire link lane s
  | .linkEnable link en => Sys2Proof.Machine.execLinkEnable link en s
  | .dynamicAddressAssignment da => Sys2Proof.Machine.execDynamicAddressAssignment da s
  | .rdmaWrite qp rkey va data => Sys2Proof.Machine.execRdmaWrite qp rkey va data s
  | .rdmaWriteWithImmediate qp f b => Sys2Proof.Machine.execRdmaWriteWithImmediate qp f b s
  | .serviceWindow st => Sys2Proof.Machine.execServiceWindow st s
  | .trunkRead p dpa latCrit seen => Sys2Proof.Machine.execTrunkRead p dpa latCrit seen s
  | .trunkWrite p dpa data => Sys2Proof.Machine.execTrunkWrite p dpa data s
  | .rowRemapEnd st => Sys2Proof.Machine.execRowRemapEnd st s
  | .repairQueueRewrite st => Sys2Proof.Machine.execRepairQueueRewrite st s
  | .patrolScrubPassEnd st => Sys2Proof.Machine.execPatrolScrubPassEnd st s
  | .refreshDue st q bank rfm => Sys2Proof.Machine.execRefreshDue st q bank rfm s
  | .temperatureReadout st temp => Sys2Proof.Machine.execTemperatureReadout st temp s
  | .trkRetire st q => Sys2Proof.Machine.execTrkRetire st q s
  | .pcRetireEnd st => Sys2Proof.Machine.execPcRetireEnd st s
  | .maintEnter st => Sys2Proof.Machine.execMaintEnter st s
  | .maintExit st => Sys2Proof.Machine.execMaintExit st s
  | .maintExitEnd st => Sys2Proof.Machine.execMaintExitEnd st s
  | .bistStart st q => Sys2Proof.Machine.execBistStart st q s
  | .bistStop st q => Sys2Proof.Machine.execBistStop st q s
  | .bistRunEnd st q accesses fails row bank sector mask => Sys2Proof.Machine.execBistRunEnd st q accesses fails row bank sector mask s
  | .claspRecord st p rec => Sys2Proof.Machine.execClaspRecord st p rec s
  | .claspDrvGo st => Sys2Proof.Machine.execClaspDrvGo st s
  | .claspUnitOpEnd st w => Sys2Proof.Machine.execClaspUnitOpEnd st w s
  | .claspBudgetResume st => Sys2Proof.Machine.execClaspBudgetResume st s
  | .dedBurstEnd st => Sys2Proof.Machine.execDedBurstEnd st s
  | .windowDeliveryEnd p entry => Sys2Proof.Machine.execWindowDeliveryEnd p entry s
  | .stagingEnd p entry => Sys2Proof.Machine.execStagingEnd p entry s
  | .rootReadWindow t => Sys2Proof.Machine.execRootReadWindow t s
  | .rootTileRead t p tile out latUs => Sys2Proof.Machine.execRootTileRead t p tile out latUs s
  | .relocationEnd t region => Sys2Proof.Machine.execRelocationEnd t region s
  | .rootTileWrite t tile data => Sys2Proof.Machine.execRootTileWrite t tile data s
  | .rootBufferProgram t => Sys2Proof.Machine.execRootBufferProgram t s
  | .mount t => Sys2Proof.Machine.execMount t s
  | .mountEnd t kind us replayKib => Sys2Proof.Machine.execMountEnd t kind us replayKib s
  | .unmount t => Sys2Proof.Machine.execUnmount t s
  | .unmountEnd t => Sys2Proof.Machine.execUnmountEnd t s
  | .rootDieRetire t die => Sys2Proof.Machine.execRootDieRetire t die s
  | .rootChannelRetire t ch => Sys2Proof.Machine.execRootChannelRetire t ch s
  | .rebuildEnd t => Sys2Proof.Machine.execRebuildEnd t s
  | .canopyScrubPassEnd c => Sys2Proof.Machine.execCanopyScrubPassEnd c s
  | .goldenCopyRestore p => Sys2Proof.Machine.execGoldenCopyRestore p s
  | .leakyBucketDecay bucket => Sys2Proof.Machine.execLeakyBucketDecay bucket s
  | .faultNPulseEnd => Sys2Proof.Machine.execFaultNPulseEnd s
  | .fltInjGo => Sys2Proof.Machine.execFltInjGo s
  | .debugRequest tok => Sys2Proof.Machine.execDebugRequest tok s
  | .debugOpen => Sys2Proof.Machine.execDebugOpen s
  | .spdmGetMeasurements index => Sys2Proof.Machine.execSpdmGetMeasurements index s
  | .pldmFirmwareUpdate img => Sys2Proof.Machine.execPldmFirmwareUpdate img s
  | .vin48Good vq => Sys2Proof.Machine.execVin48Good vq s
  | .startStageEnd stage ok bad => Sys2Proof.Machine.execStartStageEnd stage ok bad s
  | .profSample v => Sys2Proof.Machine.execProfSample v s
  | .perstNDeassert width rate => Sys2Proof.Machine.execPerstNDeassert width rate s
  | .warmReset cause => Sys2Proof.Machine.execWarmReset cause s
  | .bufferedStoreTimeout => Sys2Proof.Machine.execBufferedStoreTimeout s
  | .flrVf p => Sys2Proof.Machine.execFlrVf p s
  | .flrPf0 => Sys2Proof.Machine.execFlrPf0 s
  | .vin48Low vq => Sys2Proof.Machine.execVin48Low vq s
  | .supplySag => Sys2Proof.Machine.execSupplySag s
  | .sagSaveEnd us mj => Sys2Proof.Machine.execSagSaveEnd us mj s
  | .vholdOkRise vq => Sys2Proof.Machine.execVholdOkRise vq s
  | .vholdOkFall vq => Sys2Proof.Machine.execVholdOkFall vq s
  | .throttleRise inst temp => Sys2Proof.Machine.execThrottleRise inst temp s
  | .throttleFall inst temp => Sys2Proof.Machine.execThrottleFall inst temp s
  | .thermalShutdown inst temp => Sys2Proof.Machine.execThermalShutdown inst temp s
  | .peerDetected link => Sys2Proof.Machine.execPeerDetected link s
  | .announceTimeout port => Sys2Proof.Machine.execAnnounceTimeout port s
  | .migrationTick x => Sys2Proof.Machine.execMigrationTick x s
  | .objMapFillEnd x => Sys2Proof.Machine.execObjMapFillEnd x s
  | .arrangeEnd p => Sys2Proof.Machine.execArrangeEnd p s
  | .canopyScrubRead c word seen => Sys2Proof.Machine.execCanopyScrubRead c word seen s
  | .rootMapReloadEnd t => Sys2Proof.Machine.execRootMapReloadEnd t s
  | .lifecycleChange level => Sys2Proof.Machine.execLifecycleChange level s
  | .roceAcknowledgement qp psn => Sys2Proof.Machine.execRoceAcknowledgement qp psn s
  | .ethPortLinkChange port mode => Sys2Proof.Machine.execEthPortLinkChange port mode s
  | .ucieFlitCrcError inst retries recovered => Sys2Proof.Machine.execUcieFlitCrcError inst retries recovered s

end Sys2Proof.Machine
end

