-- ==== Sys2Proof/Safety.lean ====
section
/-! DEFINITION. What the statements are written in: which states issue an instruction, and what two states share. -/

namespace Sys2Proof.Machine

/-- No injection of R420 is armed. -/
abbrev State.NoInjection (s : State) : Prop := s.fld FLT_INJ_CTL.ACTIVE 0 = 0

/-- No gather buffer of core `c` holds bytes that the banks have not taken (R124). -/
abbrev State.NoHeld (s : State) (c : Nat) : Prop := ∀ port ∈ [0, 1, 2], ((s.core c).gbufs.get {} port).held = false

/-- No clear of core `c` waits for the core to fall quiet (R143). -/
abbrev State.NoClear (s : State) (c : Nat) : Prop := (s.core c).wantClear = false

/-- Thread slot (c, t) issues the word `w` (R82, R89, R91, R92, R114): it runs, no warm reset waits, its program counter
lies below IBOUND, `w` stands there, well formed, its predicate is on or masks lanes, and neither the word nor a register it
reads is damaged. -/
abbrev State.Issues (s : State) (c t : Nat) (w : Word) : Prop :=
  (s.thr c t).state = .running ∧ s.power.warm = none ∧ s.NoInjection ∧ (s.thr c t).pc < (s.thr c t).ibound
    ∧ (s.core c).istore.get 0 ((s.thr c t).ibase + (s.thr c t).pc) = w ∧ wOp w ∈ opcodes ∧ wordOk w = true
    ∧ s.wtickOk c w = true ∧ (isVector (wOp w) = true ∨ ((s.thr c t).pred w).toNat % 2 = 1)
    ∧ (s.core c).imarks.get .clean ((s.thr c t).ibase + (s.thr c t).pc) = .clean
    ∧ ∀ r ∈ wReads w, (s.thr c t).marks.get .clean r = .clean

/-- Every byte of Trunk, Root, host memory and of the Canopy of cores other than those listed reads the same. -/
def State.SameBytes (s u : State) (but : List Nat) : Prop :=
  (∀ a, getByte u.trunk a = getByte s.trunk a) ∧ (∀ a, getByte u.root a = getByte s.root a)
    ∧ (∀ a, getByte u.host a = getByte s.host a)
    ∧ ∀ c, c ∉ but → ∀ a, getByte (u.core c).canopy a = getByte (s.core c).canopy a

/-- Every register but those listed, instance by instance, holds the same value. -/
def State.SameRegs (s u : State) (but : List (RegId × Nat)) : Prop :=
  ∀ r i, (r, i) ∉ but → u.reg r i = s.reg r i

/-- Every core but `c` is the same. -/
def State.SameCores (s u : State) (c : Nat) : Prop := ∀ k, k ≠ c → u.core k = s.core k

/-- Descriptor `d` is the next to start on ring `x`, whose context takes completions in host memory with room for one
(R363, R364, R369). -/
abbrev State.RingReady (s : State) (x : Nat) (d : Desc) : Prop :=
  (s.ctx x).started.head? = some d ∧ s.ringLive x = true ∧ s.fatal = false ∧ (s.ctx x).adopting = false ∧ (s.ctx x).held = []
    ∧ (s.ctx x).cq.dev = false ∧ cqUsed (s.ctx x) < (s.ctx x).cq.entries

/-- Between `s` and `u` the descriptor `d` of ring `x` completed: its entry is the next of the completion ring, with the
status, INFO and RESULT given (R363, R377). -/
def State.Completed (s u : State) (x : Nat) (d : Desc) (status info result : Nat) : Prop :=
  let c := s.ctx x
  getBytes u.host (s.hostKey x (c.cq.entryAddr c.cqWritten 32)) 32
      = ({ tag := d.tag, opcode := d.opcode, status := status, info := info, result := result } : Compl).bytes
          (c.cq.phase c.cqWritten) (s.sqHead x) s.now
    ∧ (u.ctx x).cqWritten = (c.cqWritten + 1) % 2 ^ 32 ∧ (u.ctx x).started = c.started.tail

/-- The form every step keeps: the register file and every memory are in the one order that makes equal contents equal
data, and HUB_ID names the part and its stepping (R19). -/
def State.Canonical (s : State) : Prop :=
  s.regs.sorted = true ∧ s.fld HUB_ID.PART 0 = 0x5216 ∧ s.fld HUB_ID.STEP_MAJOR 0 = 1 ∧ s.fld HUB_ID.STEP_MINOR 0 = 0
    ∧ s.fld HUB_ID.MAGIC 0 = 0x414D ∧ Memory.wf s.trunk = true ∧ Memory.wf s.root = true ∧ Memory.wf s.host = true
    ∧ ∀ c, Memory.wf (s.core c).canopy = true

/-- The instructions of thread slot (c, t), each with its opcode (R94). -/
def ThreadOp (c : Lcid) (t : TSlot) (i : Instr) (op : Nat) : Prop :=
  (i, op) ∈ [(Instr.nop c t, 0x00), (.jmp c t, 0x01), (.brc c t, 0x02), (.loop c t, 0x03), (.endl c t, 0x04), (.wtick c t, 0x05),
    (.halt c t, 0x06), (.trap c t, 0x07), (.fence c t, 0x08), (.sadd c t, 0x10), (.ssub c t, 0x11), (.smul c t, 0x12),
    (.sand c t, 0x13), (.sor c t, 0x14), (.sxor c t, 0x15), (.sshl c t, 0x16), (.sshr c t, 0x17), (.sli c t, 0x18),
    (.sld c t, 0x19), (.sst c t, 0x1A), (.scmp c t, 0x1B), (.take c t, 0x20), (.put c t, 0x21), (.peek c t, 0x22),
    (.cset c t, 0x23), (.cclr c t, 0x24), (.wopen c t, 0x25), (.wclose c t, 0x26), (.tload c t, 0x30), (.tstore c t, 0x31),
    (.tscat c t, 0x32), (.tgath c t, 0x33), (.rput c t, 0x34), (.radd c t, 0x35), (.sread c t, 0x38), (.swrite c t, 0x39),
    (.lcfg c t, 0x40), (.lmac c t, 0x41), (.ldrain c t, 0x42), (.vld c t, 0x50), (.vst c t, 0x51), (.vadd c t, 0x52),
    (.vmul c t, 0x53), (.vfma c t, 0x54), (.vmax c t, 0x55), (.vmin c t, 0x56), (.vexp2 c t, 0x57), (.vrsq c t, 0x58),
    (.vrcp c t, 0x59), (.vcvt c t, 0x5A), (.vred c t, 0x5B), (.vstat c t, 0x5C), (.vsel c t, 0x5D), (.ocfg c t, 0x60),
    (.apage c t, 0x68), (.afin c t, 0x69), (.arev c t, 0x6A), (.route c t, 0x70), (.sample c t, 0x71), (.accept c t, 0x72)]

end Sys2Proof.Machine
end

