-- ==== Sys2Proof/Certificates/Slice0/Obligations.lean ====
section
/-! DEFINITION. The statements for the provers: what each family of commands does, where it completes, what it leaves
unchanged, and what every step keeps. Where a statement rests on a choice of the model, its docstring names the log entry. -/

open Sys2Proof Sys2Proof.Machine

/-- R92, R100: each scalar instruction of format S writes its result to its destination, moves the program counter on, and
changes nothing else: the next state is `s` with that one thread slot changed; a register written is free of error. SCMP writes all ones or zero to the predicate
register D[2:0] by the comparison MOD names; p0 stays all ones. Model's choices: a thread command reads the word in the
store (log 9); the immediate is sign-extended (log 25). -/
def Obligations.ScalarResults : Prop :=
  ∀ (c : Lcid) (t : TSlot) (s : State) (w : Word), s.Issues c t w →
    let x := s.thr c t
    let imm := (w.setWidth 32).signExtend 64
    let a := x.s.get 0 (wbits w 46 42)
    let b := if w.getLsbD 36 then imm else x.s.get 0 (wbits w 41 37)
    let n := b.toNat % 64
    let d := wbits w 51 47
    let puts := fun v : Word => s.setThr c t { x with s := x.s.set 0 d v, marks := x.marks.erase d, pc := x.pc + 1 }
    (wOp w = 0x10 → exec (.sadd c t) s = .next (puts (a + b)))
    ∧ (wOp w = 0x11 → exec (.ssub c t) s = .next (puts (a - b)))
    ∧ (wOp w = 0x12 → exec (.smul c t) s = .next (puts (a * b)))
    ∧ (wOp w = 0x13 → exec (.sand c t) s = .next (puts (a &&& b)))
    ∧ (wOp w = 0x14 → exec (.sor c t) s = .next (puts (a ||| b)))
    ∧ (wOp w = 0x15 → exec (.sxor c t) s = .next (puts (a ^^^ b)))
    ∧ (wOp w = 0x16 → exec (.sshl c t) s = .next (puts (a <<< n)))
    ∧ (wOp w = 0x17 → exec (.sshr c t) s = .next (puts (if w.getLsbD 32 then a.sshiftRight n else a >>> n)))
    ∧ (wOp w = 0x18 → exec (.sli c t) s = .next (puts
        (if w.getLsbD 32 then (w.setWidth 32 : BitVec 32) ++ ((x.s.get 0 d).setWidth 32 : BitVec 32) else imm)))
    ∧ (wOp w = 0x1B →
        let holds : Prop := match wbits w 35 32 with
          | 0 => a = b | 1 => a ≠ b | 2 => a.toInt < b.toInt | 3 => b.toInt ≤ a.toInt | 4 => a.toNat < b.toNat | _ => b.toNat ≤ a.toNat
        let p := wbits w 49 47
        ∃ r : Word, (holds → r = BitVec.allOnes 64) ∧ (¬ holds → r = 0) ∧
          exec (.scmp c t) s = .next (s.setThr c t { x with
            p := if p = 0 then x.p else x.p.set 0 p r
            marks := if p = 0 then x.marks else x.marks.erase (48 + p)
            pc := x.pc + 1 }))

/-- R88, R100: SLD of the thread information block and words of that block; SLD and SST of local Canopy where the word reads
clean and no gather buffer holds bytes: what is read, the bytes that are written, and that no other byte of any memory
changes. Model's choices: a thread command names only its core and thread slot and reads the word in the store (log 9). -/
def Obligations.LoadsAndStores : Prop :=
  ∀ (c : Lcid) (t : TSlot) (s : State) (w : Word), s.Issues c t w →
    let x := s.thr c t
    let ofs := x.s.get 0 (wbits w 46 42) + (w.setWidth 32).signExtend 64
    let at_ := x.cbase + ofs.toNat
    (wOp w = 0x19 → w.getLsbD 32 = true → exec (.sld c t) s = .next (s.setThr c t
        { x with s := x.s.set 0 (wbits w 51 47) (s.infoWord c t (wbits w 31 0)), marks := x.marks.erase (wbits w 51 47), pc := x.pc + 1 }))
    ∧ (wOp w = 0x19 → w.getLsbD 32 = false → ofs.toNat % 8 = 0 → ofs.toNat + 8 ≤ x.cbound → s.NoHeld c → x.cbase % 8 = 0 →
        s.cMark c (at_ / 8) = .clean →
        exec (.sld c t) s = .next (s.setThr c t { x with
          s := x.s.set 0 (wbits w 51 47) (BitVec.ofNat 64 (leNat (getBytes (s.core c).canopy at_ 8)))
          marks := x.marks.erase (wbits w 51 47), pc := x.pc + 1 }))
    ∧ (wOp w = 0x1A → ofs.toNat % 8 = 0 → ofs.toNat + 8 ≤ x.cbound → s.NoHeld c → x.cbase % 8 = 0 →
        ∃ u, exec (.sst c t) s = .next u
          ∧ getBytes (u.core c).canopy at_ 8 = leBytes (x.s.get 0 (wbits w 41 37)).toNat 8
          ∧ (∀ a, a < at_ ∨ at_ + 8 ≤ a → getByte (u.core c).canopy a = getByte (s.core c).canopy a)
          ∧ u.thr c t = { x with pc := x.pc + 1 } ∧ s.SameBytes u [c] ∧ s.SameCores u c ∧ u.regs = s.regs)
    ∧ s.infoWord c t 0 = BitVec.ofNat 64 (c + t * 65536)
    ∧ (s.fld PRT_ISO_BIND.VALID c = 1 → s.infoWord c t 1 = BitVec.ofNat 64 (s.fld PRT_ISO_BIND.CTX c))
    ∧ s.infoWord c t 2 = BitVec.ofNat 64 s.ntu.tick
    ∧ ∀ i, 8 ≤ i → s.infoWord c t i = 0

/-- R91, R95, R96, R98: NOP, JMP, BRC, HALT, LOOP and ENDL: where the program counter goes and what the loop stack holds;
nothing else changes. -/
def Obligations.ControlFlow : Prop :=
  ∀ (c : Lcid) (t : TSlot) (s : State) (w : Word), s.Issues c t w →
    let x := s.thr c t
    let a := (x.s.get 0 (wbits w 51 47)).toInt
    let taken : Prop := match wbits w 46 44 with
      | 0 => a = 0 | 1 => a ≠ 0 | 2 => a < 0 | 3 => 0 ≤ a | 4 => 0 < a | _ => a ≤ 0
    let count := if w.getLsbD 46 then wbits w 37 14 else (x.s.get 0 (wbits w 51 47)).toNat
    let to_ := fun pc : Nat => s.setThr c t { x with pc := pc }
    (wOp w = 0x00 → exec (.nop c t) s = .next (to_ (x.pc + 1)))
    ∧ (wOp w = 0x01 → exec (.jmp c t) s = .next (to_ (wbits w 13 0)))
    ∧ (wOp w = 0x02 → taken → exec (.brc c t) s = .next (to_ (wbits w 13 0)))
    ∧ (wOp w = 0x02 → ¬ taken → exec (.brc c t) s = .next (to_ (x.pc + 1)))
    ∧ (wOp w = 0x06 → exec (.halt c t) s = .next (s.setThr c t { x with state := .halted }))
    ∧ (wOp w = 0x07 → ∃ u, exec (.trap c t) s = .next u ∧ (u.thr c t).state = .trapped ∧ (u.thr c t).cause = 11 ∧ (u.thr c t).fpc = x.pc
        ∧ (u.thr c t).pc = x.pc ∧ (u.thr c t).addr = BitVec.ofNat 64 (wbits w 15 0) ∧ (u.core c).canopy = (s.core c).canopy ∧ s.SameCores u c)
    ∧ (wOp w = 0x03 → count = 0 → exec (.loop c t) s = .next (to_ (wbits w 13 0 + 1)))
    ∧ (wOp w = 0x03 → 0 < count → count < 2 ^ 32 → x.loops.length < 4 → exec (.loop c t) s = .next (s.setThr c t
        { x with loops := ⟨count, wbits w 13 0, x.pc + 1⟩ :: x.loops, pc := x.pc + 1 }))
    ∧ (wOp w = 0x04 → ∀ l rest, x.loops = l :: rest → l.stop = x.pc → 2 ≤ l.count → exec (.endl c t) s = .next (s.setThr c t
        { x with loops := { l with count := l.count - 1 } :: rest, pc := l.start }))
    ∧ (wOp w = 0x04 → ∀ l rest, x.loops = l :: rest → l.stop = x.pc → l.count < 2 → exec (.endl c t) s = .next (s.setThr c t
        { x with loops := rest, pc := x.pc + 1 }))

/-- R97, R99: WTICK waits for its target tick, its program counter where it stands, and completes at once where the target
is not in the future; FENCE waits for earlier operations of its classes; WTICK_WAKE, after the events of its tick, and
FENCE_RELEASE end the waits. -/
def Obligations.WaitInstructions : Prop :=
  ∀ (c : Lcid) (t : TSlot) (s : State) (w : Word),
    let x := s.thr c t
    let target := (x.s.get 0 (wbits w 51 47)).toNat
    let waits := (s.core c).allOps.any fun o => o.t = t ∧ o.id < (s.core c).nextOp ∧
      (if wbits w 3 0 = 0 then 15 else wbits w 3 0) &&& fenceClass (wOp o.word) ≠ 0
    (s.Issues c t w → wOp w = 0x05 → w.getLsbD 46 = false → s.ntu.tick < target → exec (.wtick c t) s = .next (s.setThr c t
        { x with state := .waitTick, wait := .tick target, since := s.ntu.elapsed }))
    ∧ (s.Issues c t w → wOp w = 0x05 → w.getLsbD 46 = false → target ≤ s.ntu.tick → exec (.wtick c t) s = .next (s.setThr c t
        { x with pc := x.pc + 1, lateCnt := min 65535 (x.lateCnt + 1) }))
    ∧ (s.Issues c t w → wOp w = 0x08 → waits = false → exec (.fence c t) s = .next (s.setThr c t { x with pc := x.pc + 1 }))
    ∧ (s.Issues c t w → wOp w = 0x08 → waits = true → exec (.fence c t) s = .next (s.setThr c t
        { x with state := .blocked, wait := .fence (wbits w 3 0) (s.core c).nextOp, since := s.ntu.elapsed }))
    ∧ (∀ n, x.state = .waitTick → x.wait = .tick n → n ≤ s.ntu.tick → s.turn (s.coreInst c) 7 0 = true →
        exec (.wtickWake c t) s = .next (s.setThr c t { x with
          state := .running, wait := .none, pc := x.pc + 1
          lateCnt := if n < s.ntu.tick then min 65535 (x.lateCnt + 1) else x.lateCnt }))
    ∧ (∀ m k, x.state = .blocked → x.wait = .fence m k → (s.core c).allOps = [] → exec (.fenceRelease c t) s = .next
        (s.setThr c t { x with state := .running, wait := .none, pc := x.pc + 1 }))

/-- R101, R126, R127: TAKE and PUT move a cell's tag where it allows them and block the thread slot where it does not; PEEK
reads it; CSET and CCLR set it or define the cell; a blocked thread slot completes once the tag allows it. -/
def Obligations.CellInstructions : Prop :=
  ∀ (c : Lcid) (t : TSlot) (s : State) (w : Word),
    let x := s.thr c t
    let k := wbits w 33 23
    let e := s.cell c k
    let a := x.s.get 0 (wbits w 51 47)
    let b := x.s.get 0 (wbits w 46 42)
    let on : Thread := { x with pc := x.pc + 1, state := .running, wait := .none }
    let took := fun d : Nat => (s.setCell c k { e with full := false }).setThr c t
      { on with s := x.s.set 0 d (BitVec.ofNat 64 e.base - BitVec.ofNat 64 x.cbase), marks := x.marks.erase d }
    let gave := (s.setCell c k { e with full := true }).setThr c t on
    (s.Issues c t w → wOp w = 0x20 → e.size ≠ 0 → e.full = true → e.claimed = false →
        exec (.take c t) s = .next (took (wbits w 51 47)))
    ∧ (s.Issues c t w → wOp w = 0x20 → e.full = false → exec (.take c t) s = .next (s.setThr c t
        { x with state := .blocked, wait := .take k (wbits w 51 47), since := s.ntu.elapsed }))
    ∧ (s.Issues c t w → wOp w = 0x21 → e.full = false → e.claimed = false → exec (.put c t) s = .next gave)
    ∧ (s.Issues c t w → wOp w = 0x21 → e.full = true → exec (.put c t) s = .next (s.setThr c t
        { x with state := .blocked, wait := .put k, since := s.ntu.elapsed }))
    ∧ (s.Issues c t w → wOp w = 0x22 → exec (.peek c t) s = .next (s.setThr c t
        { x with s := x.s.set 0 (wbits w 51 47) (if e.full then 1 else 0), marks := x.marks.erase (wbits w 51 47), pc := x.pc + 1 }))
    ∧ (s.Issues c t w → wOp w = 0x23 → wbits w 36 34 = 0 → exec (.cset c t) s = .next
        ((s.setCell c k { e with full := true }).setThr c t { x with pc := x.pc + 1 }))
    ∧ (s.Issues c t w → wOp w = 0x24 → wbits w 36 34 = 0 → exec (.cclr c t) s = .next
        ((s.setCell c k { e with full := false }).setThr c t { x with pc := x.pc + 1 }))
    ∧ (s.Issues c t w → wOp w = 0x24 → wbits w 36 34 = 1 → a.toNat % 64 = 0 → b.toNat % 64 = 0 → 1024 ≤ b.toNat → b.toNat ≤ 65536 →
        a.toNat + b.toNat ≤ x.cbound → exec (.cclr c t) s = .next
        ((s.setCell c k { e with base := x.cbase + a.toNat, size := b.toNat, full := false }).setThr c t { x with pc := x.pc + 1 }))
    ∧ (∀ d, x.state = .blocked → x.wait = .take k d → e.size ≠ 0 → e.full = true → e.claimed = false →
        exec (.tagWaitResume c t) s = .next (took d))
    ∧ (x.state = .blocked → x.wait = .put k → e.full = false → e.claimed = false → exec (.tagWaitResume c t) s = .next gave)

/-- R132, R136: WOPEN opens the window it names on a range of the core's own Canopy, and WCLOSE closes it; the window's bit
of WIN_OPEN follows. -/
def Obligations.WindowInstructions : Prop :=
  ∀ (c : Lcid) (t : TSlot) (s : State) (w : Word), s.Issues c t w →
    let x := s.thr c t
    let a := x.s.get 0 (wbits w 51 47)
    let b := x.s.get 0 (wbits w 46 42)
    let n := wbits w 36 34
    (wOp w = 0x25 → a.toNat % 64 = 0 → b.toNat % 64 = 0 → b.toNat ≠ 0 → a.toNat + b.toNat ≤ x.cbound →
      ∃ u, exec (.wopen c t) s = .next u
        ∧ (u.core c).wins.get {} n = ⟨true, x.cbase + a.toNat, b.toNat, x.s.get 0 (wbits w 41 37),
            if wbits w 33 23 = 0x7FF then none else some (wbits w 33 23)⟩
        ∧ maskBit (u.fld PRT_CNP_STATUS.WIN_OPEN c) n = true ∧ u.thr c t = { x with pc := x.pc + 1 }
        ∧ s.SameBytes u [] ∧ s.SameCores u c ∧ s.SameRegs u [(.PRT_CNP_STATUS, c)])
    ∧ (wOp w = 0x26 → ∃ u, exec (.wclose c t) s = .next u
        ∧ (u.core c).wins.get {} n = { (s.core c).wins.get {} n with opened := false }
        ∧ maskBit (u.fld PRT_CNP_STATUS.WIN_OPEN c) n = false ∧ u.thr c t = { x with pc := x.pc + 1 }
        ∧ s.SameBytes u [] ∧ s.SameCores u c ∧ s.SameRegs u [(.PRT_CNP_STATUS, c)])

/-- R92, R105, R106: what each vector arithmetic instruction writes to v[D], lane by lane under its predicate; it moves on
and changes nothing else. -/
def Obligations.VectorArithmetic : Prop :=
  ∀ (c : Lcid) (t : TSlot) (s : State) (w : Word), s.Issues c t w →
    let x := s.thr c t
    let old := x.v.get 0 (wbits w 51 48)
    let a := VReg.lane (x.v.get 0 (wbits w 47 44))
    let b := VReg.lane (x.v.get 0 (wbits w 43 40))
    let d := VReg.lane (x.v.get 0 (wbits w 39 36))
    let int := w.getLsbD 35 = true
    let writes := fun (f : Nat → Lane) (o : Host.Outcome State Fault Refusal) => ∃ r : VReg,
      (∀ i, i < 64 → VReg.lane r i = if (x.pred w).getLsbD i then f i else VReg.lane old i)
        ∧ o = .next (s.setThr c t { x with v := x.v.set 0 (wbits w 51 48) r, marks := x.marks.erase (32 + wbits w 51 48), pc := x.pc + 1 })
    (wOp w = 0x52 → ¬ int → writes (fun i => f32add (a i) (b i)) (exec (.vadd c t) s))
    ∧ (wOp w = 0x52 → int → writes (fun i => a i + b i) (exec (.vadd c t) s))
    ∧ (wOp w = 0x53 → ¬ int → writes (fun i => f32mul (a i) (b i)) (exec (.vmul c t) s))
    ∧ (wOp w = 0x53 → int → writes (fun i => a i * b i) (exec (.vmul c t) s))
    ∧ (wOp w = 0x54 → ¬ int → writes (fun i => f32fma (a i) (b i) (d i)) (exec (.vfma c t) s))
    ∧ (wOp w = 0x54 → int → writes (fun i => a i * b i + d i) (exec (.vfma c t) s))
    ∧ (wOp w = 0x55 → ¬ int → writes (fun i => f32max (a i) (b i)) (exec (.vmax c t) s))
    ∧ (wOp w = 0x55 → int → writes (fun i => if (a i).slt (b i) then b i else a i) (exec (.vmax c t) s))
    ∧ (wOp w = 0x56 → ¬ int → writes (fun i => f32min (a i) (b i)) (exec (.vmin c t) s))
    ∧ (wOp w = 0x56 → int → writes (fun i => if (b i).slt (a i) then b i else a i) (exec (.vmin c t) s))
    ∧ (wOp w = 0x57 → writes (fun i => exp2ref (a i)) (exec (.vexp2 c t) s))
    ∧ (wOp w = 0x58 → writes (fun i => rsqref (a i)) (exec (.vrsq c t) s))
    ∧ (wOp w = 0x59 → writes (fun i => rcpref (a i)) (exec (.vrcp c t) s))
    ∧ (wOp w = 0x5A → wbits w 34 32 = 0 → writes (fun i => f32ToI32 (a i)) (exec (.vcvt c t) s))
    ∧ (wOp w = 0x5A → wbits w 34 32 = 1 → writes (fun i => i32ToF32 (a i)) (exec (.vcvt c t) s))
    ∧ (wOp w = 0x5A → wbits w 34 32 = 2 → writes (fun i => f32ToBf16 (a i)) (exec (.vcvt c t) s))
    ∧ (wOp w = 0x5D → writes (fun i => if (x.rp (wbits w 34 32)).getLsbD i then a i else b i) (exec (.vsel c t) s))

/-- R106: VRED and VSTAT combine the 64 lanes in the fixed pairwise tree, level by level; lanes they do not name become 0.
The tree of 64 lanes is one combination of the trees of its two halves, down to single lanes. Model's choices: the sum of an
integer VSTAT is a free value (log 27). -/
def Obligations.VectorReductions : Prop :=
  (∀ (c : Lcid) (t : TSlot) (s : State) (w : Word), s.Issues c t w →
    let x := s.thr c t
    let old := x.v.get 0 (wbits w 51 48)
    let a := (List.range 64).map (VReg.lane (x.v.get 0 (wbits w 47 44)))
    let int := w.getLsbD 35 = true
    let writes := fun (l0 l1 : Lane) (o : Host.Outcome State Fault Refusal) => ∃ r : VReg,
      (∀ i, i < 64 → VReg.lane r i = if (x.pred w).getLsbD i then (if i = 0 then l0 else if i = 1 then l1 else 0) else VReg.lane old i)
        ∧ o = .next (s.setThr c t { x with v := x.v.set 0 (wbits w 51 48) r, marks := x.marks.erase (32 + wbits w 51 48), pc := x.pc + 1 })
    (wOp w = 0x5B → wbits w 34 32 = 0 → ¬ int → writes (tree64 f32add a) 0 (exec (.vred c t) s))
    ∧ (wOp w = 0x5B → wbits w 34 32 = 0 → int → writes (tree64 (fun p q => p + q) a) 0 (exec (.vred c t) s))
    ∧ (wOp w = 0x5B → wbits w 34 32 = 1 → ¬ int → writes (tree64 f32max a) 0 (exec (.vred c t) s))
    ∧ (wOp w = 0x5B → wbits w 34 32 = 1 → int → writes (tree64 (fun p q => if p.slt q then q else p) a) 0 (exec (.vred c t) s))
    ∧ (wOp w = 0x5B → wbits w 34 32 = 2 → ¬ int → writes (tree64 f32min a) 0 (exec (.vred c t) s))
    ∧ (wOp w = 0x5B → wbits w 34 32 = 2 → int → writes (tree64 (fun p q => if q.slt p then q else p) a) 0 (exec (.vred c t) s))
    ∧ (wOp w = 0x5C → ¬ int →
        writes (tree64 f32max a) (tree64 f32add (a.map fun e => exp2ref (f32sub e (tree64 f32max a)))) (exec (.vstat c t) s))
    -- of integers the specification states no sum: lane 1 is a free value of the operand
    ∧ (wOp w = 0x5C → int → ∃ (z : Lane) (r : VReg),
        (∀ i, i < 64 → VReg.lane r i = if (x.pred w).getLsbD i
            then (if i = 0 then tree64 (fun p q => if p.slt q then q else p) a else if i = 1 then z else 0) else VReg.lane old i)
          ∧ exec (.vstat c t) s = .next (s.setThr c t
              { x with v := x.v.set 0 (wbits w 51 48) r, marks := x.marks.erase (32 + wbits w 51 48), pc := x.pc + 1 })))
  ∧ ∀ (f : Lane → Lane → Lane) (g : Nat → Lane),
      let lvl := fun (h : Nat → Lane) (i : Nat) => f (h (2 * i)) (h (2 * i + 1))
      tree64 f ((List.range 64).map g) = lvl (lvl (lvl (lvl (lvl (lvl g))))) 0

/-- R104, R118: the bytes VLD and VST move between 256 bytes of Canopy and v[V], and SREAD and SWRITE between 32 words at
the offsets their mode names and v[V]; where no word is damaged and no gather buffer holds bytes. Model's choices: a vector
store writes every byte whatever its predicate (log 26). -/
def Obligations.VectorMoves : Prop :=
  ∀ (c : Lcid) (t : TSlot) (s : State) (w : Word), s.Issues c t w → (s.thr c t).cbase % 8 = 0 → s.NoHeld c →
    (∀ k, s.cMark c k = .clean) → neverRuns w = false →
    let x := s.thr c t
    let base := x.s.get 0 (wbits w 47 43) + (w.setWidth 32).signExtend 64
    let b := x.s.get 0 (wbits w 42 38)
    let stride : Int := match wbits w 37 35 with | 0 => 1 | 1 => b.toNat | _ => b.toInt
    let straight := fun j : Nat => x.cbase + base.toNat + 8 * j
    let sheet := fun j : Nat => x.cbase + (base.toInt + 8 * (j * stride)).toNat
    let inSheet := ∀ j : Nat, j < 32 → 0 ≤ base.toInt + 8 * (j * stride) ∧ base.toInt + 8 * (j * stride) + 8 ≤ x.cbound
    let old := x.v.get 0 (wbits w 51 48)
    let loads := fun (pos : Nat → Nat) (o : Host.Outcome State Fault Refusal) => ∃ r : VReg,
      (∀ i, i < 64 → VReg.lane r i = if (x.pred w).getLsbD i
          then BitVec.ofNat 32 (leNat (getBytes (s.core c).canopy (pos (i / 2) + 4 * (i % 2)) 4)) else VReg.lane old i)
        ∧ o = .next (s.setThr c t { x with v := x.v.set 0 (wbits w 51 48) r, marks := x.marks.erase (32 + wbits w 51 48), pc := x.pc + 1 })
    let stores := fun (pos : Nat → Nat) (o : Host.Outcome State Fault Refusal) => ∃ u, o = .next u
      ∧ (∀ j, j < 32 → (∀ k, j < k → k < 32 → pos k ≠ pos j) →
          getBytes (u.core c).canopy (pos j) 8 = leBytes (VReg.word old j).toNat 8)
      ∧ (∀ p, (∀ j, j < 32 → p < pos j ∨ pos j + 8 ≤ p) → getByte (u.core c).canopy p = getByte (s.core c).canopy p)
      ∧ u.thr c t = { x with pc := x.pc + 1 } ∧ s.SameBytes u [c] ∧ s.SameCores u c ∧ u.regs = s.regs
    (wOp w = 0x50 → base.toNat % 64 = 0 → base.toNat + 256 ≤ x.cbound → loads straight (exec (.vld c t) s))
    ∧ (wOp w = 0x51 → base.toNat % 64 = 0 → base.toNat + 256 ≤ x.cbound → stores straight (exec (.vst c t) s))
    ∧ (wOp w = 0x38 → base.toNat % 8 = 0 → inSheet → loads sheet (exec (.sread c t) s))
    ∧ (wOp w = 0x39 → base.toNat % 8 = 0 → inSheet → stores sheet (exec (.swrite c t) s))

/-- R86, R102, R103, R107: a Q-class instruction whose queue has room enters it with its operands as they stand, and the
thread slot moves on; no memory, no cell and no other core changes. With its queue full it leaves its thread slot BLOCKED on
the queue, and QUEUE_ENTRY_FREE issues it once an entry is free. -/
def Obligations.QueueIssue : Prop :=
  ∀ (c : Lcid) (t : TSlot) (s : State) (w : Word),
    let x := s.thr c t
    let enters := fun (o : Host.Outcome State Fault Refusal) => ∃ u, o = .next u
      ∧ u.thr c t = { x with pc := x.pc + 1, state := .running, wait := .none }
      ∧ (∃ e ∈ (u.core c).allOps, e.id = (s.core c).nextOp ∧ e.word = w ∧ e.t = t ∧ e.a = x.s.get 0 (wbits w 51 47)
          ∧ e.b = x.s.get 0 (wbits w 46 42) ∧ e.fpc = x.pc ∧ e.cbase = x.cbase ∧ e.cbound = x.cbound)
      ∧ (u.core c).nextOp = (s.core c).nextOp + 1 ∧ (u.core c).canopy = (s.core c).canopy ∧ (u.core c).cells = (s.core c).cells
      ∧ s.SameBytes u [] ∧ s.SameCores u c ∧ (wOp w ≠ 0x35 → u.regs = s.regs)
    (∀ e ∈ [(Instr.tload c t, 0x30), (.tstore c t, 0x31), (.tscat c t, 0x32), (.tgath c t, 0x33), (.rput c t, 0x34),
        (.radd c t, 0x35), (.lcfg c t, 0x40), (.lmac c t, 0x41), (.ldrain c t, 0x42), (.ocfg c t, 0x60), (.apage c t, 0x68),
        (.afin c t, 0x69), (.arev c t, 0x6A), (.route c t, 0x70), (.sample c t, 0x71), (.accept c t, 0x72)],
      s.Issues c t w → wOp w = e.2 →
        ((s.core c).queueFull t e.2 = false → (s.core c).qCheck x w = none → enters (exec e.1 s))
        ∧ ((s.core c).queueFull t e.2 = true → exec e.1 s = .next (s.setThr c t
            { x with state := .blocked, wait := .queue, since := s.ntu.elapsed })))
    ∧ (x.state = .blocked → x.wait = .queue → (s.core c).istore.get 0 (x.ibase + x.pc) = w →
        (s.core c).queueFull t (wOp w) = false → (s.core c).qCheck x w = none → enters (exec (.queueEntryFree c t) s))

/-- R91, R92, R109, R110, R114: a precise exception stops its thread slot in TRAPPED at the instruction, with its cause and
recorded value, whatever instruction was to issue: an uncorrectable error in the word fetched, and, where the word is
undamaged, the others; an instruction whose predicate is off only moves the program counter on.
Model's choices: the order of a load's checks (log 29); the frame of a trapping command (log 9). -/
def Obligations.PreciseExceptions : Prop :=
  ∀ (c : Lcid) (t : TSlot) (s : State) (i : Instr) (op : Nat), ThreadOp c t i op →
    let x := s.thr c t
    let w := (s.core c).istore.get 0 (x.ibase + x.pc)
    let traps := fun (cause : Nat) (addr : Word) => ∃ u, exec i s = .next u
      ∧ u.thr c t = { x with state := .trapped, cause := cause, fpc := x.pc, addr := addr, wait := .none,
                             trapCnt := min 65535 (x.trapCnt + 1), trapSlot := some ((s.curSlot c t).getD 0) }
      ∧ s.SameCores u c ∧ (u.core c).canopy = (s.core c).canopy ∧ (u.core c).cells = (s.core c).cells
    let sound := (s.core c).imarks.get .clean (x.ibase + x.pc) = .clean
    x.state = .running → s.power.warm = none → s.NoInjection →
    (x.ibound ≤ x.pc → traps 2 (BitVec.ofNat 64 x.pc))
    ∧ (x.pc < x.ibound → (s.core c).imarks.get .clean (x.ibase + x.pc) = .ue → traps 12 (BitVec.ofNat 64 x.pc))
    ∧ (x.pc < x.ibound → sound → wOp w ∉ opcodes → traps 1 w)
    ∧ (x.pc < x.ibound → sound → wOp w = op → (wordOk w && s.wtickOk c w) = false → traps 1 w)
    ∧ (s.Issues c t w → wOp w = op → op = 0x07 → traps 11 (BitVec.ofNat 64 (wbits w 15 0)))
    ∧ (s.Issues c t w → wOp w = op → (op = 0x19 ∧ w.getLsbD 32 = false ∨ op = 0x1A) →
        let ofs := x.s.get 0 (wbits w 46 42) + (w.setWidth 32).signExtend 64
        (ofs.toNat % 8 ≠ 0 → traps 4 ofs) ∧ (ofs.toNat % 8 = 0 → x.cbound < ofs.toNat + 8 → traps 3 ofs))
    ∧ (x.pc < x.ibound → sound → wOp w = op → wOp w ∈ opcodes → (wordOk w && s.wtickOk c w) = true → isVector op = false →
        (x.pred w).toNat % 2 = 0 → (wPs w ≠ 0 → x.marks.get .clean (48 + wPs w) = .clean) → exec i s = .next (s.setThr c t { x with pc := x.pc + 1 }))

/-- R110, R130: ENGINE_FAULT_REPORT stops the thread slot of the oldest engine fault with its cause, value and FPC, its
program counter where it stands; STARVE stops a thread slot whose TAKE or PUT has waited past the limit. Model's choices:
the report command names no operand but its core (log 10). -/
def Obligations.EngineReports : Prop :=
  ∀ (c : Lcid) (t : TSlot) (s : State),
    (∀ f rest, (s.core c).faults = f :: rest → (s.thr c f.t).state = .running →
      ∃ u, exec (.engineFaultReport c) s = .next u ∧ (u.core c).faults = rest
        ∧ u.thr c f.t = { s.thr c f.t with state := .trapped, cause := f.cause, fpc := f.fpc, addr := f.addr, wait := .none,
                                           trapCnt := min 65535 ((s.thr c f.t).trapCnt + 1), trapSlot := some ((s.curSlot c f.t).getD 0) }
        ∧ s.SameCores u c)
    ∧ (∀ k d, (s.thr c t).state = .blocked → ((s.thr c t).wait = .take k d ∨ (s.thr c t).wait = .put k) →
        (s.thr c t).since + s.fld PRT_CANOPY_CFG.CANOPY_TAG_TIMEOUT (c / 32) + 1 ≤ s.ntu.elapsed →
        ∃ u, exec (.starve c t none) s = .next u
          ∧ u.thr c t = { s.thr c t with state := .trapped, cause := 9, fpc := (s.thr c t).pc, addr := BitVec.ofNat 64 k, wait := .none,
                                         trapCnt := min 65535 ((s.thr c t).trapCnt + 1), trapSlot := some ((s.curSlot c t).getD 0) }
          ∧ s.SameCores u c)

/-- R147, R184: LCFG leaving the Lattice queue writes its configuration slot, OCFG its out-path slot with the 64-byte record
it names, valid if the record is well formed; nothing leaves the core. -/
def Obligations.LatticeConfiguration : Prop :=
  ∀ (c : Lcid) (s : State) (o : Op) (rest : List Op), (s.core c).lq = o :: rest →
    let w := o.word
    let bytes := getBytes (s.core c).canopy (o.cbase + o.a.toNat) 64
    let os := wbits w 34 32
    (wOp w = 0x40 → ∃ u, exec (.lcfgApply c) s = .next u
      ∧ (u.core c).lcfg.get {} (wbits w 33 32) = ⟨wbits w 31 28, wbits w 27 24, wbits w 23 22, wbits w 21 20, decide (wbits w 19 19 = 1)⟩
      ∧ (∀ k, k ≠ wbits w 33 32 → (u.core c).lcfg.get {} k = (s.core c).lcfg.get {} k)
      ∧ (∀ e ∈ (u.core c).lq, e ∈ rest) ∧ (u.core c).canopy = (s.core c).canopy ∧ (u.core c).cells = (s.core c).cells
      ∧ (u.core c).threads = (s.core c).threads ∧ s.SameBytes u [] ∧ s.SameCores u c ∧ u.regs = s.regs)
    ∧ (wOp w = 0x60 → s.NoInjection → s.NoHeld c → (∀ k, s.cMark c k = .clean) →
        ∃ u, exec (.ocfgApply c) s = .next u
          ∧ (u.core c).oslots.get {} os = ⟨recOf bytes, ocfgOk (recOf bytes)⟩
          ∧ (∀ k, k ≠ os → (u.core c).oslots.get {} k = (s.core c).oslots.get {} k)
          ∧ (∀ e ∈ (u.core c).lq, e ∈ rest) ∧ (u.core c).canopy = (s.core c).canopy ∧ (u.core c).cells = (s.core c).cells
          ∧ (u.core c).threads = (s.core c).threads ∧ s.SameCores u c
          ∧ (ocfgOk (recOf bytes) = true → maskBit (u.fld PRT_OUT_STATUS.SLOT_VALID c) os = true
              ∧ s.SameBytes u [] ∧ s.SameRegs u [(.PRT_OUT_STATUS, c)]))

/-- R148, R150, R158, R167 to R169: LMAC_START begins the operation on the array once its claim is granted and no earlier drain of its
tile is still to begin, reading and fixing what it will write: lane by lane the value of R158's reduction, where its operands
and lanes are undamaged; LMAC_END writes those lanes to accumulator memory, empties its cell if TF = 1, and leaves the array.
Model's choices: an operation takes effect at its start and end commands (log 5). -/
def Obligations.LatticeMultiply : Prop :=
  ∀ (c : Lcid) (s : State) (r : LatRun), (s.core c).arr = some r → wOp r.op.word = 0x41 →
    let w := r.op.word
    let tile := wbits w 34 34
    let cell := s.cell c (wbits w 46 36)
    let adds := wbits w 33 33 = 1
    (r.running = false → (wbits w 35 35 = 1 → r.op.started = true) →
      (∀ d, (s.core c).drn = some d → wbits d.op.word 34 34 = tile → r.op.id ≤ d.op.id ∨ d.running = true) →
      let base := if r.op.started then r.op.base else cell.base
      let size := if r.op.started then r.op.size else cell.size
      let g := gSize r.cfg.gsz
      let groups := wbits w 22 14 + 1
      let rows := wbits w 30 23 + 1
      let sc := base + groups * 32 * runBytes r.cfg.wfmt g
      let book := sc + groups * 32 * scaleBytes r.cfg.sfmt
      let v : LmacEnv := { rows := rows, groups := groups, g := g, cfg := r.cfg, w0 := base, s0 := sc, b0 := book, tile := tile
                           a0 := r.op.cbase + r.op.a.toNat, acc := wbits w 33 33 = 1, canopy := (s.core c).canopy
                           book := if r.cfg.wfmt = 0xC
                             then (List.range 16).map fun i => leNat (getBytes (s.core c).canopy (book + 2 * i) 2) else [] }
      let start := fun key : Nat => ({ a := if adds then (s.core c).acc.get 0 key else 0
                                       idx := if adds then (s.core c).prom.get 0 key else 0 } : LaneAcc)
      chunkLen r.cfg.wfmt r.cfg.gsz r.cfg.sfmt groups ≤ size → r.op.a.toNat + lmacBytes r.cfg w ≤ r.op.cbound →
      ∃ u q, exec (.lmacStart c) s = .next u ∧ (u.core c).arr = some q ∧ q.running = true ∧ q.cfg = r.cfg
        ∧ q.op = { r.op with started := true, base := base, size := size }
        ∧ q.writes.map Prod.fst = (List.range (rows * 32)).map (fun k => laneKey tile (k / 32) (k % 32))
        ∧ (u.core c).acc = (s.core c).acc ∧ (u.core c).cells = (s.core c).cells
        ∧ (u.core c).threads = (s.core c).threads ∧ s.SameCores u c
        ∧ (s.NoHeld c → (u.core c).canopy = (s.core c).canopy)
        ∧ (s.NoInjection → s.NoHeld c → (∀ k, s.cMark c k = .clean) → (adds → ∀ k, (s.core c).accMarks.get .clean k = .clean) →
            (∀ e ∈ q.writes, e.2.2.1 = false)
            ∧ q.writes.map (fun e => e.2.1) = (List.range (rows * 32)).map fun k =>
                (v.lane (s.ctx ((s.boundCtx c).getD 0)).seed c (s.fld PRT_LAT_CFG.REPLAY_MAX (c / 32)) (k / 32) (k % 32)
                  (start (laneKey tile (k / 32) (k % 32)))).a))
    ∧ (r.running = true →
        ∃ u, exec (.lmacEnd c) s = .next u ∧ ((s.core c).lq = [] → (u.core c).arr = none)
          ∧ ((r.writes.map Prod.fst).Nodup → ∀ e ∈ r.writes, (u.core c).acc.get 0 e.1 = e.2.1)
          ∧ (∀ k, k ∉ r.writes.map Prod.fst → (u.core c).acc.get 0 k = (s.core c).acc.get 0 k)
          ∧ (wbits w 35 35 = 1 → u.cell c (wbits w 46 36) = { cell with full := false, claimed := false })
          ∧ (wbits w 35 35 = 0 → (u.core c).cells = (s.core c).cells) ∧ (∀ k, k ≠ wbits w 46 36 → u.cell c k = s.cell c k)
          ∧ (u.core c).canopy = (s.core c).canopy ∧ (u.core c).threads = (s.core c).threads ∧ s.SameBytes u [] ∧ s.SameCores u c
          ∧ (s.NoInjection → s.NoClear c → u.regs = s.regs))

/-- R169, R184 to R197: LDRAIN_START begins the drain once its claim is granted and no earlier multiply of its tile is on the
array, reading the rows of its tile and, on a valid slot, the records its configuration names, from which what it will write is
fixed; LDRAIN_END writes what the drain computed to Canopy, fills its cell if PF = 1, and leaves the drain unit; on an
invalid slot it writes nothing and INVALID_DRAINS counts it. Model's choices: an operation takes effect at its start and end commands (log 5).
-/
def Obligations.LatticeDrain : Prop :=
  ∀ (c : Lcid) (s : State) (r : LatRun), (s.core c).drn = some r → wOp r.op.word = 0x42 → s.NoInjection → s.NoHeld c →
    let w := r.op.word
    let cell := s.cell c (wbits w 46 36)
    let cfg := OCfg.ofRec r.cfgRec
    let rows := wbits w 30 23 + 1
    let rd := fun (on : Bool) (ofs len : Nat) => getBytes (s.core c).canopy (r.op.cbase + ofs) (if on then len else 0)
    let lanes := (List.range (rows * 32)).map fun i => (s.core c).acc.get 0 (laneKey (wbits w 34 34) (i / 32) (i % 32))
    let tsw := s.tsw c (wbits w 34 34)
    let ins : DrainIn :=
      { csc := rd (decide (2 ≤ cfg.rsc)) cfg.cscOfs 128, rsc := rd (decide (cfg.rsc = 3)) cfg.rscOfs (4 * rows), bias := rd cfg.bias cfg.biasOfs 128
        sum := rd (cfg.sum && cfg.sumCont) cfg.sumOfs 32
        res := if cfg.res then (List.range rows).map fun i => rd true (cfg.resOfs + i * cfg.resPitch) (cfg.ncol * cfg.resBytes) else []
        stat := if cfg.stat = 0 then [] else (List.range rows).map fun i => rd true (cfg.statOfs + 32 * i) 32
        trk := (List.range (if cfg.smode = 1 then (if cfg.perRow then rows else 1) else 0)).map fun i => rd true (cfg.trkOfs + 64 * i) 64 }
    let fills := fun u : State =>
      (wbits w 35 35 = 1 → u.cell c (wbits w 46 36) = { cell with full := true, claimed := false })
        ∧ (wbits w 35 35 = 0 → (u.core c).cells = (s.core c).cells) ∧ (∀ k, k ≠ wbits w 46 36 → u.cell c k = s.cell c k)
        ∧ ((s.core c).lq = [] → (u.core c).drn = none)
    (r.running = false → (wbits w 35 35 = 1 → r.op.started = true) →
      (∀ a, (s.core c).arr = some a → wbits a.op.word 34 34 = wbits w 34 34 → r.op.id ≤ a.op.id) →
      (∀ k, (s.core c).accMarks.get .clean k = .clean) →
      (r.cfgValid = true → drainRefuse s c r.op r = none → (∀ k, s.cMark c k = .clean) →
        ∃ u, exec (.ldrainStart c) s = .next u
          ∧ (u.core c).drn = some (cfg.run ins r.op.cbase r.op.a.toNat rows tsw lanes { r with running := true, lanes := lanes, tsw := tsw })
          ∧ (u.core c).canopy = (s.core c).canopy ∧ (u.core c).threads = (s.core c).threads ∧ s.SameBytes u [] ∧ s.SameCores u c ∧ u.regs = s.regs)
      ∧ (r.cfgValid = false →
        ∃ u q, exec (.ldrainStart c) s = .next u ∧ (u.core c).drn = some q ∧ q.running = true ∧ q.op = r.op ∧ q.outs = r.outs
          ∧ q.lanes = lanes ∧ s.SameBytes u [] ∧ s.SameCores u c ∧ u.regs = s.regs))
    ∧ (r.running = true → r.cfgValid = true → s.NoClear c → ∀ a bs, r.outs = [(a, bs)] → bs.length = 64 → a % 64 = 0 →
        ∃ u, exec (.ldrainEnd c) s = .next u ∧ fills u ∧ getBytes (u.core c).canopy a 64 = bs
          ∧ (∀ p, p < a ∨ a + 64 ≤ p → getByte (u.core c).canopy p = getByte (s.core c).canopy p)
          ∧ u.fld PRT_OUT_CNT.CLIP_TOTAL c = min PRT_OUT_CNT.CLIP_TOTAL.max (s.fld PRT_OUT_CNT.CLIP_TOTAL c + r.clips)
          ∧ s.SameBytes u [c] ∧ s.SameCores u c ∧ s.SameRegs u [(.PRT_OUT_CNT, c), (.PRT_OUT_TRK, c)])
    ∧ (r.running = true → r.cfgValid = false →
        ∃ u, exec (.ldrainEnd c) s = .next u ∧ fills u ∧ (u.core c).canopy = (s.core c).canopy ∧ s.SameCores u c
          ∧ u.fld PRT_OUT_STATUS.INVALID_DRAINS c
              = min PRT_OUT_STATUS.INVALID_DRAINS.max (s.fld PRT_OUT_STATUS.INVALID_DRAINS c + 1))

/-- R124, R126, R128: ENGINE_CLAIM_GRANT claims the cell of an operation that needs one and fixes its base and size;
GATHER_FLUSH writes a gather buffer's bytes to the banks and empties it. -/
def Obligations.ClaimsAndGatherBuffers : Prop :=
  ∀ (c : Lcid) (s : State),
    (∀ (op : Nat) (o : Op) (tf : Bool), (s.core c).findOp op = some o → o.flag = some tf → o.started = false →
      (s.core c).lq.any (·.id = op) = false → s.inTurn c o = true →
      let x := s.cell c (wCell o.word)
      x.claimed = false → x.full = tf → (tf = false → x.size ≠ 0) →
      ∃ u q, exec (.engineClaimGrant c op) s = .next u ∧ u.cell c (wCell o.word) = { x with claimed := true }
        ∧ (u.core c).findOp op = some q
        ∧ q = { o with started := true, base := x.base, size := x.size, turn := q.turn, since := q.since }
        ∧ (∀ k, k ≠ wCell o.word → u.cell c k = s.cell c k) ∧ (u.core c).threads = (s.core c).threads
        ∧ s.SameBytes u [] ∧ s.SameCores u c ∧ u.regs = s.regs)
    ∧ (∀ port : Fin 3, let b := (s.core c).gbufs.get {} port
        b.held = true → ∃ u, exec (.gatherFlush c port) s = .next u
          ∧ (∀ a, getByte (u.core c).canopy a = match b.bytes.reverse.find? (fun e => e.1 = a) with
              | some e => e.2 | none => getByte (s.core c).canopy a)
          ∧ ((u.core c).gbufs.get {} port).held = false ∧ (u.core c).cells = (s.core c).cells
          ∧ (u.core c).threads = (s.core c).threads ∧ s.SameCores u c
          ∧ (s.NoInjection → (∀ k, s.cMark c k = .clean) → s.SameBytes u [c] ∧ u.regs = s.regs))

/-- R102, R103, R133, R264: TRANSFER_COMPLETE performs a TLOAD of 64 bytes from a present page and fills its cell, once its
claim is granted and, for a page in Root, its tower gives it a grant; an RPUT of 64 bytes that REMOTE_ACCESS_ARRIVE admits at a
window without a landing cell writes the target core's Canopy. Model's choices: a transfer takes effect when its command says
so (log 5, 10). -/
def Obligations.Transfers : Prop :=
  ∀ (c src : Lcid) (op : Nat) (o : Op) (s : State), (s.core src).ops.find? (fun o => o.id = op) = some o → s.NoInjection →
    s.NoHeld c → s.NoHeld src → s.inTurn src o = true → wbits o.word 23 0 = 64 →
    let e := s.pte o.ctx o.a.toNat
    let dpa := e.dpa o.a.toNat
    let from_ := o.cbase + o.b.toNat
    (wOp o.word = 0x30 → wbits o.word 29 29 = 1 → o.adm = none → o.started = true → o.done = 0 → 64 ≤ o.size → o.base % 64 = 0 → o.a.toNat % 64 = 0 →
      e.present = true → (∀ k ofs, place dpa ≠ .canopy k ofs) → s.poisonedAt dpa 64 = false → s.mustCheck dpa 64 = false →
      s.claspHolds s.arrivals dpa 64 = false → ((s.newRootRequest (src / 32)).rootBlock (src / 32) dpa).isSome = true → s.NoClear src →
      ∃ u, exec (.transferComplete src op) s = .next u
        ∧ getBytes (u.core src).canopy o.base 64 = s.readDpa dpa 64
        ∧ (∀ a, a < o.base ∨ o.base + 64 ≤ a → getByte (u.core src).canopy a = getByte (s.core src).canopy a)
        ∧ u.cell src (wbits o.word 41 31) = { s.cell src (wbits o.word 41 31) with full := true, claimed := false }
        ∧ (∀ q ∈ (u.core src).ops, q.id ≠ op) ∧ (u.core src).threads = (s.core src).threads
        ∧ s.SameBytes u [src] ∧ s.SameCores u src
        ∧ ∀ r, r ∉ [RegId.TRK_REG, .RTF_SLOT, .RTF_READ] → ∀ k, u.reg r k = s.reg r k)
    ∧ (wOp o.word = 0x34 → o.sent = false → o.remote = false → o.adm = none → s.heldByWin src o = false → s.arrives src o = true →
        s.remoteCheck src o = none →
        wbits o.a 63 63 = 0 → wbits o.a 47 39 = c → wbits o.a 55 48 = s.memberIdx (s.coreInst src) → wbits o.word 29 29 = 0 →
        (∀ k, s.cMark src k = .clean) → s.boundCtx c = some o.ctx →
        let win := (s.core c).wins.get {} (wbits o.a 38 36)
        let to_ := win.base + wbits o.a 20 0
        win.admits (s.memberIdx (s.coreInst src)) src = true → wbits o.a 20 0 + 64 ≤ win.bound → to_ % 64 = 0 →
        s.landsOn src o.id c to_ 64 = false → s.fld PRT_CNP_STATUS.CLEAR_BUSY c = 0 →
        ∃ u q, exec (.remoteAccessArrive c src op) s = .next u
          ∧ getBytes (u.core c).canopy to_ 64 = getBytes (s.core src).canopy from_ 64
          ∧ (∀ a, a < to_ ∨ to_ + 64 ≤ a → getByte (u.core c).canopy a = getByte (s.core c).canopy a)
          ∧ (u.core src).ops.find? (fun q => q.id = op) = some q
          ∧ q = { o with sent := true, turn := q.turn, since := q.since }
          ∧ (u.core c).threads = (s.core c).threads ∧ s.SameBytes u [c] ∧ u.regs = s.regs)

/-- R215, R219, R250 to R254: APAGE_ENGINE_START gives the request that arrived first the lowest free page engine; APAGE_END
writes the partial records, counts and fills the cell, once what it reads in Root has been granted; a ROUTE request ends with
each row's selections in its cell, from FP32 or BF16 scores, with a bias or without. Model's choices: a request takes effect at its end
command (log 5). -/
def Obligations.ServiceRequests : Prop :=
  ∀ (c : Lcid) (o : Op) (s : State),
    let p := c.val / 32
    let leaves := fun (b0 : Nat) (bs : List Byte) (u : State) => getBytes (u.core c).canopy b0 bs.length = bs
      ∧ (∀ a, a < b0 ∨ b0 + bs.length ≤ a → getByte (u.core c).canopy a = getByte (s.core c).canopy a)
      ∧ u.cell c (wbits o.word 46 36) = { s.cell c (wbits o.word 46 36) with full := true, claimed := false }
      ∧ (∀ q ∈ (u.core c).ops, q.id ≠ o.id) ∧ (u.core c).threads = (s.core c).threads ∧ s.SameBytes u [c] ∧ s.SameCores u c
    (∀ (q : PartId) (k : Nat), q.val = p → k < 8 → k ∉ s.apageBusy q → (∀ j, j < k → j ∈ s.apageBusy q) →
      (c.val, o) ∈ s.apageWaiting q → (∀ e ∈ s.apageWaiting q, e ≠ (c.val, o) → o.arrival < e.2.arrival) →
      exec (.apageEngineStart q) s = .next (s.modOp c o.id fun e => { e with engine := some k, since := s.ntu.elapsed }))
    ∧ (s.NoInjection → s.NoHeld c → (∀ k, s.cMark c k = .clean) → o.started = true → o.adm = none → wbits o.word 35 35 = 1 →
        (∀ (q : PartId) (k : Fin 8) (v : AttnIn), q.val = p → wOp o.word = 0x68 → s.tmarks = [] →
          (∀ d, d < 512 → d / 32 = p → ((s.core d).ops.find? fun e => decide (e.op = 0x68) && decide (e.engine = some k.val))
            = if d = c.val then some o else none) →
          let r := s.attnOpen c o (fun b => (b.drop 0x20).all (· = 0)) false
          r.1 = .go v → (∃ t, r.2.readWalk c o v = .ok t) →
          (∀ j, j < v.a.rows → ∀ i ∈ s.attnPages v j, s.pageBad v.e.pool i = false) →
          v.a.rows * v.a.heads * (16 + 4 * kvD v.e.kvl) ≤ o.size →
          let recs := ((List.range v.a.rows).flatMap fun j => (List.range v.a.heads).map fun h =>
            s.apageRec c o v j h)
          (∀ r ∈ recs, r.length = 16 + 4 * kvD v.e.kvl) →
          ∃ u, exec (.apageEnd q k) s = .next u ∧ leaves o.base recs.flatten u)
        ∧ (wOp o.word = 0x70 → (s.core c).ops.find? (fun e => e.id = o.id) = some o → s.inTurn c o = true → s.behind c o = false →
          let b := getBytes (s.core c).canopy (o.cbase + o.a.toNat) 64
          let rows := leAt b 0 2 + 1
          let n := leAt b 2 2 + 1
          let k := leAt b 4 1 + 1
          let fn := leAt b 5 1
          let size := if leAt b 6 1 = 1 then 2 else 4
          let row := fun i => getBytes (s.core c).canopy (o.cbase + leAt b 8 4 + i * leAt b 0xC 4) (n * size)
          let score := fun i j => if leAt b 6 1 = 1 then BitVec.ofNat 32 (leAt (row i) (2 * j) 2 * 65536) else leF32 (row i) (4 * j)
          let biases := if maskBit fn 2 then getBytes (s.core c).canopy (o.cbase + leAt b 0x10 4) (4 * n) else []
          -- no bucket set, no reserved field
          fn % 4 ≠ 3 → fn < 16 → leAt b 6 1 ≤ 1 → leAt b 7 1 = 0 → rows ≤ 256 → n ≤ 8192 → k ≤ 16 → k ≤ n → leAt b 8 4 % 64 = 0 →
          leAt b 0x1C 4 % 64 = 0 → (b.drop 0x24).all (· = 0) = true → rows * 8 * k ≤ o.size → (s.core c).bset = [] →
          o.a.toNat + 64 ≤ o.cbound → (maskBit fn 2 = true → leAt b 0x10 4 + 4 * n ≤ o.cbound) →
          (∀ i, i < rows → leAt b 8 4 + i * leAt b 0xC 4 + n * size ≤ o.cbound) →
          (∀ i, i < rows → ∀ j, j < n → (f32 (score i j)).isNan = false) →
          ∃ u, exec (.serviceRequestEnd c o.id) s = .next u
            ∧ leaves o.base ((List.range rows).flatMap fun i =>
                (routeRow k (fn % 4) (maskBit fn 3) (maskBit fn 2) (leF32 b 0x14) ((List.range n).map (score i))
                  ((List.range n).map fun j => leF32 biases (4 * j))).1.flatMap fun e => leBytes e.1 4 ++ leBytes e.2.toNat 4) u))

/-- R64, R66, R69 to R74: a slot that is due opens at its offset with sub-slot 0, SUBSLOT_OPEN the next sub-slot once its tick has
come and the one before has no transfer left; SLOT_END_CHECK closes a slot whose participants have all finished, and declares a
slip to the next ring boundary where one has not; at the boundary of an announced slip SLIP_APPLY puts one more slip between
network and schedule ring, events past the slot's end resume, and SLIPS counts it, on every member whose trail has begun; a
stop at that boundary wins. Model's choices: an event that is not due changes
nothing, the sender orders events, and each slot end declares its own slip (log 4, 5, 33). -/
def Obligations.SlotsAndSlips : Prop :=
  (∀ (i : PartId) (j : Fin 256) (s : State) (e : SlotEnt),
     let x := s.inst i
     -- nothing but the instance changes, and the turns of transfers that wait for a sub-slot
     let fields := fun (u : State) (y : Inst) => u = { s with insts := u.insts, cores := u.cores } ∧ u.inst i = y
       ∧ (∀ k, k ≠ i.val → u.inst k = s.inst k)
       ∧ ∀ c, u.core c = { s.core c with ops := (u.core c).ops } ∧ (u.core c).ops.map Op.id = (s.core c).ops.map Op.id
     x.image.slots[j.val]? = some e →
     (s.slotDue i j = true → s.turn i 6 j = true →
       ∃ u, exec (.slotOpen i j) s = .next u
         ∧ fields u { x.fire evSlot j (x.schedAt s.ntu.tick) with openSlots := x.openSlots.insert j 0 })
     ∧ (∀ (b : Fin 16) (k : Nat), s.executing i = true → x.openSlots.find j = some k → b.val = k + 1 → b.val < e.subCnt →
         x.passed s.ntu.tick (e.f + ((x.image.subs.drop e.subFirst).take b).sum) = true → s.subBusy i j k = false →
         s.turn i 6 0 = true →
         ∃ u, exec (.subslotOpen i j b) s = .next u ∧ fields u { x with openSlots := x.openSlots.insert j b })
     ∧ (s.checkDue i j = true → (∀ q ∈ x.image.participants j, (s.thr q.1 q.2).trapSlot ≠ some j.val) →
         ((∀ q ∈ x.image.participants j, s.threadDone (x.schedAt s.ntu.tick) (e.f + e.len) q.1 q.2 = true ∧ s.slotOps j q.1 q.2 = []) →
           ∃ u, exec (.slotEndCheck i j) s = .next u
             ∧ fields u { x.fire evSlotEnd j (x.ringAt s.ntu.tick) with openSlots := x.openSlots.erase j } ∧ u.cores = s.cores)
         ∧ ((∃ q ∈ x.image.participants j, (s.thr q.1 q.2).state = .running) → x.slipAt = none →
             x.slipRun s.ntu.tick j < (if x.image.slipLimit = 0 then 4 else x.image.slipLimit) →
           ∃ u, exec (.slotEndCheck i j) s = .next u
             ∧ (u.inst i).slipAt = some (x.boundaryFrom (s.ntu.tick + 1), j.val) ∧ (u.inst i).openSlots = x.openSlots
             ∧ u.cores = s.cores)))
  ∧ ∀ (i : PartId) (s : State) (b j : Nat),
      let x := s.inst i
      s.trailActive i = true → x.begun = true → x.slipAt = some (b, j) → b ≤ s.ntu.tick → s.opTurn i (b, x.slipBy) = true →
      ((∀ q, x.stopAt = some q → b < q.1) →
        ∃ u, exec (.slipApply i) s = .next u
          ∧ u.inst i = { x with slipAt := none, slips := x.slips + 1, resumed := some j, lastSlip := b,
                                consec := (j, if x.consec.1 = j ∧ b = x.lastSlip + x.image.period then x.consec.2 + 1 else 1) }
          ∧ u.fld RSQ_TRL_RING.SLIPS i = min RSQ_TRL_RING.SLIPS.max (s.fld RSQ_TRL_RING.SLIPS i + 1)
          ∧ u = { s with insts := u.insts, regs := u.regs } ∧ (∀ k, k ≠ i.val → u.inst k = s.inst k)
          ∧ s.SameRegs u [(.RSQ_TRL_RING, i)])
      ∧ (∀ q, x.stopAt = some q → q.1 ≤ b → exec (.slipApply i) s = .next (s.setInst i { x with slipAt := none }))

/-- R57, R66, R75, R280, R320: what each gate and each XDEV event of the trail does once it is due and its turn among the events of
its tick has come. Model's choices: the layout of a gate's argument (log 31). -/
def Obligations.TrailEvents : Prop :=
  ∀ (i : PartId) (n : Fin 4096) (s : State),
    let x := s.inst i
    let k := x.schedAt s.ntu.tick
    (∀ g, x.image.gates[n.val]? = some g → s.gateDue i n = true → s.turn i 4 n = true →
      (g.kind = 1 →
        (∃ u, exec (.gateStream i n) s = .next u ∧ (u.inst i).firedIn evGate n k = true
          ∧ ∀ c, (u.core c).threads = (s.core c).threads ∧ (u.core c).cells = (s.core c).cells)
        -- a KIND 0 STREAM entry whose pages lie in Trunk, as planned, starts its run at its range
        ∧ ∀ en ctx ova, x.image.streams = [en] → g.arg = 0 → en.expert = false → en.root = false → en.dst < 512 →
            (s.mem (en.dst / 32)).streams = [] → s.streamAt en (en.ofs * 64) = some (ctx, ova) →
            (∀ f ∈ s.streamFrames en ctx ova, frameRoot f = false) →
            ∃ u r, exec (.gateStream i n) s = .next u ∧ (u.mem (en.dst / 32)).streams = [r] ∧ r.inst = i.val ∧ r.entry = 0
              ∧ r.gated = true ∧ r.base = some (en.ofs * 64) ∧ r.ctx = ctx ∧ r.ova = ova ∧ r.frames = s.streamFrames en ctx ova
              ∧ r.done = 0 ∧ u.cores = s.cores ∧ u.regs = s.regs ∧ s.SameBytes u [])
      ∧ (g.kind = 2 →
        let st := g.arg % 16
        let refused := s.trkMode st = 2 ∧ ∃ p, p < 16 ∧ maskBit x.image.groupMask p = false ∧ TRK_REG.SHARE.of (s.trkReg st p) ≠ 0
        ∃ u, exec (.gateClaspDed i n) s = .next u ∧ (u.inst i).firedIn evGate n k = true ∧ u.cores = s.cores
          ∧ (¬ refused → (u.stack st).burst = some ⟨i, dedMask g.arg, s.ntu.elapsed + g.arg / 2 ^ 40 % 2 ^ 24⟩
              ∧ u.fld PRT_CLP_STATUS.CLASP_MODE st = 1
              ∧ u.fld PRT_CLP_STATUS.DED_BURSTS st = min PRT_CLP_STATUS.DED_BURSTS.max (s.fld PRT_CLP_STATUS.DED_BURSTS st + 1)
              ∧ s.SameBytes u [] ∧ s.SameRegs u [(.PRT_CLP_STATUS, st)])
          ∧ (refused → (u.stack st).burst = (s.stack st).burst
              ∧ u.fld PRT_CLP_WAIT.DED_REFUSED st = min PRT_CLP_WAIT.DED_REFUSED.max (s.fld PRT_CLP_WAIT.DED_REFUSED st + 1)))
      ∧ (g.kind = 3 →
        let c := g.arg % 512
        ∃ u o, exec (.gateTickPut i n) s = .next u ∧ (u.inst i).firedIn evGate n k = true
          ∧ (u.core c).ops = (s.core c).ops ++ [o] ∧ o.flag = some false
          ∧ wCell o.word = g.arg / 512 % 2048 ∧ o.id = (s.core c).nextOp ∧ o.started = false ∧ s.SameCores u c
          ∧ (u.core c).cells = (s.core c).cells ∧ (u.core c).threads = (s.core c).threads ∧ u.regs = s.regs ∧ s.SameBytes u []))
    ∧ (∀ e, x.image.xdevs[n.val]? = some e → s.xdevDue i n = true → s.turn i 5 n = true → e.kind = 1 →
        ∃ u, exec (.xdevEvent i n) s = .next u ∧ (u.inst i).firedIn evXdev n k = true
          ∧ u.cores = s.cores ∧ u.regs = s.regs ∧ u.seqs = s.seqs ∧ u.steps = s.steps ∧ s.SameBytes u [])

/-- R60, R61, R76, R81, R82, R125, R147, R184: TRAIL_RUN at the start tick enters RUNNING, STANDBY or, with a stop announced,
STOPPING, a reserve stays ARMED, and a member whose time bit is 0 stops with cause 0x05; an active member's thread slots start at their entries
with cleared registers; STOP_BOUNDARY stops the trail with its cause and halts them; TAKEOVER hands the member over. Model's
choices: the sender orders the events of a tick (log 5); the state after a failed second check of the time bit (log 74). -/
def Obligations.TrailRunAndStop : Prop :=
  ∀ (i : PartId) (s : State),
    let x := s.inst i
    let quiet := s.ctxs = [] ∧ s.seqs = [] ∧ s.steps = [] ∧ s.replays = [] ∧ x.startReq = none ∧ x.stopReqs = []
      ∧ (∀ c, s.NoClear c) ∧ ∀ p, (s.mem p).held = []
    let outRegs := (maskParts x.image.groupMask).flatMap fun p => (List.range' (p * 32) 32).map fun c => (RegId.PRT_OUT_STATUS, c)
    let starts := fun u : State => ∀ e ∈ x.image.cores, ∀ t, t < 8 → maskBit e.mask t = true →
      (u.thr e.lcid t).state = .running ∧ (u.thr e.lcid t).pc = (s.thr e.lcid t).entry ∧ (u.thr e.lcid t).s = []
        ∧ (u.thr e.lcid t).v = [] ∧ (u.thr e.lcid t).p = [] ∧ (u.thr e.lcid t).loops = []
    (x.begun = false → s.iState i = 2 → x.startAt ≤ s.ntu.tick → s.opTurn i (x.startAt, x.startBy) = true →
      let ok := s.timeOk x.image.scope
      ∃ u, exec (.trailRun i) s = .next u ∧ (u.inst i).origin = x.startAt ∧ (u.inst i).begun = true
        ∧ (u.inst i).openSlots = [] ∧ (u.inst i).slips = 0 ∧ u.fld RSQ_TRL_RING.SLIPS i = 0 ∧ u.fld RSQ_TRL_RING.SCHED_RING i = 0
        ∧ (ok = true → s.roleOf i = 0 → starts u)
        ∧ (ok = true → x.image.streams = [] → x.stopAt = none → u.iState i = (if s.roleOf i = 0 then 3 else if s.roleOf i = 1 then 6 else 2))
        ∧ (ok = true → x.image.streams = [] → x.stopAt ≠ none → u.iState i = 4)
        ∧ (ok = false → u.iState i = 5 ∧ u.fld RSQ_TRL_CNT.STOP_CAUSE i = 5)
        ∧ (ok = true → x.image.streams = [] → x.stopAt = none → quiet →
            s.SameBytes u [] ∧ s.SameRegs u ([(RegId.RSQ_TRL_STATUS, i.val), (RegId.RSQ_TRL_RING, i.val)] ++ outRegs)))
    ∧ (∀ e cause, x.stopAt = some (e, cause) → e ≤ s.ntu.tick → s.trailActive i = true → cause < 256 → s.opTurn i (e, x.stopBy) = true →
        ∃ u, exec (.stopBoundary i) s = .next u ∧ u.iState i = 5 ∧ u.fld RSQ_TRL_CNT.STOP_CAUSE i = cause
          ∧ u.reg .RSQ_TRL_TICKS i = BitVec.ofNat 64 s.ntu.tick ∧ (u.inst i).stopAt = none ∧ (u.inst i).openSlots = []
          ∧ (∀ e ∈ x.image.cores, ∀ t, t < 8 → maskBit e.mask t = true → (u.thr e.lcid t).state = .halted)
          ∧ (quiet → s.SameBytes u [] ∧ s.SameRegs u [(.RSQ_TRL_STATUS, i), (.RSQ_TRL_CNT, i), (.RSQ_TRL_TICKS, i)]))
    ∧ (∀ b m d, x.takeoverAt = some (b, m, s.sdid) → b ≤ s.ntu.tick → s.iState i = 6 ∨ s.iState i = 4 → s.opTurn i (b, x.takeoverBy) = true →
        m < 256 → x.image.members.find? (fun e => e.sdid = s.sdid) = some d → m < x.image.members.length →
        ∃ u, exec (.takeover i) s = .next u ∧ u.memberIdx i = m
          ∧ ((u.inst i).image.members[m]?) = some { d with role := 0 } ∧ (u.inst i).takeoverAt = none
          ∧ starts u
          ∧ (x.image.streams = [] → u.iState i = (if x.stopAt.isSome then 4 else 3)
              ∧ ∀ q ∈ x.mirrors, q.1 = m → (StepRec.ofMirror q.2.2.2) ∈ u.replays.get [] ((StepRec.ofMirror q.2.2.2).ctx / 256))
          ∧ (x.image.streams = [] → x.mirrors = [] → x.copies = [] → quiet →
              s.SameBytes u [] ∧ s.SameRegs u ([(RegId.RSQ_TRL_STATUS, i.val)] ++ outRegs)))

/-- R65, R112, R224: at an admitting boundary the waiting step of a context is admitted, with its records placed and the
schedule ring it belongs to, SCHED_RING reads the ring, and thread slots that trapped restart at their entries; on a member that
runs no slot SCHED_RING follows the trail. Model's
choices: the order in which admission applies its checks (log 34). -/
def Obligations.BoundaryAdmission : Prop :=
  ∀ (i : PartId) (s : State),
    let x := s.inst i
    let k := x.schedAt s.ntu.tick
    -- the state in which the step is tried: the boundary has taken effect and the step has left the queue
    let start : State := { s.modInst i (fun x => { x.fire evBoundary 0 k with resumed := none }) with waiting := s.waiting.set [] i [] }
    (s.executing i = false → s.trailActive i = true → x.begun = true → x.isBoundary s.ntu.tick = true → x.slipAt = none →
      ∃ u, exec (.admittingBoundary i) s = .next u ∧ u.fld RSQ_TRL_RING.SCHED_RING i = k % 2 ^ 32 ∧ u.inst i = { x with resumed := none }
        ∧ u = { s with insts := u.insts, regs := u.regs } ∧ s.SameRegs u [(.RSQ_TRL_RING, i)])
    ∧ (s.iState i = 3 → s.boundaryDue i = true → s.turn i 3 0 = true →
    x.image.groupMask = 2 ^ i.val → x.image.scope = 0 → s.steps = [] → s.replays = [] → s.migs = [] → s.fatal = false →
    s.power.warm = none → (∀ q, (s.seq q).closing = none ∧ (s.seq q).exporting = []) → (∀ c, (s.ctx c).deferred = []) →
    (∀ (r : StepRec) (l : List SeqRec), s.waiting.get [] i = [r] → r.ctx / 256 = i.val → r.arrived < s.ntu.tick →
      (∀ c t, (s.thr c t).trapSlot = none) → 1 ≤ x.image.stepSlots → start.vet i x.image.stepRows r = .ok l → l.length ≤ 65532 →
      (∀ e ∈ l, (s.seq e.seq).state ≠ .frozen ∧ (s.seq e.seq).len + e.n ≤ 4194304) → start.noSpace i l = [] →
      (start.placeRecs i l (List.replicate 16 0)).isSome = true →
      ∃ u r', exec (.admittingBoundary i) s = .next u ∧ u.stepsOf i = [r'] ∧ r'.ctx = r.ctx ∧ r'.id = r.id ∧ r'.ring = k
        ∧ r'.admitTick = s.ntu.tick ∧ r'.recs.length = l.length ∧ u.waiting.get [] i = [] ∧ u.lastAdmitted.get 0 i = 1
        ∧ u.fld RSQ_TRL_RING.SCHED_RING i = k % 2 ^ 32)
    ∧ (s.waiting = [] → s.ctxs = [] →
      ∃ u, exec (.admittingBoundary i) s = .next u ∧ u.fld RSQ_TRL_RING.SCHED_RING i = k % 2 ^ 32 ∧ u.lastAdmitted.get 0 i = 0
        ∧ (u.inst i).firedIn evBoundary 0 k = true
        ∧ (∀ e ∈ x.image.cores, ∀ t, t < 8 → (s.thr e.lcid t).trapSlot ≠ none →
            (u.thr e.lcid t).state = .running ∧ (u.thr e.lcid t).pc = (s.thr e.lcid t).entry ∧ (u.thr e.lcid t).trapSlot = none
              ∧ (u.thr e.lcid t).s = [] ∧ (u.thr e.lcid t).loops = [])
        ∧ s.SameBytes u [] ∧ s.SameRegs u [(.RSQ_TRL_RING, i)]))

/-- R13, R76, R413, R415: a member that misses its heartbeats is retired and, with no standby on its board, the trail is
stopped at the first boundary a lead time ahead; a faulty core, marked in its cluster, is replaced by the spare, whose position
its LCID takes, or its LCID is absent. -/
def Obligations.MembersAndCores : Prop :=
  (∀ (i : PartId) (m : Fin 256) (s : State),
    let x := s.inst i
    s.iState i = 3 → ((m.val, (x.image.members.getD m ⟨0, 0, 0, 0, 0⟩)) ∈ x.others (s.memberIdx i)) →
    (x.image.members[m.val]?).map (·.role) = some 0 → m.val ∉ x.retired → 2 ≤ x.missed.get 0 m → x.standbyOf m = none → x.stopAt = none →
    s.lead x.image.scope ≤ (s.ntu.tick - x.origin) % x.image.period → s.evtClass 0xD 0xD ≠ 2 →
    ∃ u, exec (.heartbeatTimeout i m) s = .next u ∧ (u.inst i).retired = m.val :: x.retired ∧ u.iState i = 4
      ∧ (u.inst i).stopAt = some (x.boundaryFrom (s.ntu.tick + s.lead x.image.scope), 6) ∧ u.cores = s.cores ∧ s.SameBytes u [])
  ∧ ∀ (c : Lcid) (s : State), (s.core c).retiring = true →
      s.executing (s.coreInst c) = false ∨ (s.inst (s.coreInst c)).isBoundary s.ntu.tick = true →
      ∃ u, exec (.coreRetire c) s = .next u ∧ (u.core c).retiring = false ∧ (u.core c).canopy = (s.core c).canopy
        ∧ (u.core c).threads = (s.core c).threads ∧ s.SameCores u c
        ∧ u.dead.get 0 (c / 8) = s.dead.get 0 (c / 8) ||| 2 ^ s.corePos c
        -- a position is spare that works and that no present LCID of the cluster has
        ∧ (∀ q, ({ s with dead := u.dead } : State).sparePos (c / 8) = some q → u.absent = s.absent ∧ u.corePos c = q)
        ∧ (({ s with dead := u.dead } : State).sparePos (c / 8) = none → u.absent = c.val :: s.absent)

/-- R207, R209, R211, R229, R230: KV_PREPARE prepares the sequences of the admitted steps, those of a ring as soon as a page is
free; KV_COMMIT extends each sequence of the first step that may commit by its path and completes the step; the end of an
written. Model's choices: the KV unit takes effect at its commands (log 5). -/
def Obligations.KvUnit : Prop :=
  (∀ (p : PartId) (s : State),
    -- every step of sequences that keep all their pages
    ((∀ st ∈ s.stepsOf p, ∀ r ∈ st.recs, r.prepared = false → r.bucket < 16 ∧ r.seq / 16384 = p.val ∧ kvRing (s.seq r.seq).kvl = false) →
      ∃ u, exec (.kvPrepare p) s = .next u
        ∧ u.stepsOf p = (s.stepsOf p).map (fun st => { st with recs := st.recs.map fun r => { r with prepared := true } })
        ∧ (∀ q, (u.seq q).len = (s.seq q).len ∧ (u.seq q).state = (s.seq q).state)
        ∧ (∀ st ∈ s.stepsOf p, ∀ r ∈ st.recs, r.prepared = false → (u.seq r.seq).wrote = [] ∧ (u.seq r.seq).saved = [])
        ∧ (∀ q, (∀ st ∈ s.stepsOf p, ∀ r ∈ st.recs, r.prepared = false → r.seq ≠ q) → u.seq q = s.seq q) ∧ u.cores = s.cores)
    -- a step of one sequence, a ring or not
    ∧ ∀ (st : StepRec) (r : SeqRec), s.stepsOf p = [st] → st.recs = [r] → r.prepared = false → r.bucket < 16 →
        r.seq / 16384 = p.val → s.ringWaits r.seq r.n = false →
        ∃ u, exec (.kvPrepare p) s = .next u ∧ u.stepsOf p = [{ st with recs := [{ r with prepared := true }] }]
          ∧ (u.seq r.seq).wrote = [] ∧ (u.seq r.seq).len = (s.seq r.seq).len ∧ (u.seq r.seq).state = (s.seq r.seq).state
          ∧ (kvRing (s.seq r.seq).kvl = false → (u.seq r.seq).saved = []) ∧ (∀ q, q ≠ r.seq → u.seq q = s.seq q) ∧ u.cores = s.cores)
  ∧ (∀ (p : PartId) (s : State) (st : StepRec), (s.stepsOf p).find? s.mayCommit = some st → (st.recs.map SeqRec.seq).Nodup →
      ∃ u, exec (.kvCommit p) s = .next u
        ∧ u.stepsOf p = (s.stepsOf p).filter (fun x => !(decide (x.id = st.id) && decide (x.ctx = st.ctx))) ∧ u.cores = s.cores
        ∧ (∀ r ∈ st.recs, (u.seq r.seq).len = (s.seq r.seq).len + (acceptPath (r.accepted.getD [])).length
            ∧ (u.seq r.seq).wrote = [] ∧ (u.seq r.seq).saved = [])
        ∧ (∀ q, q ∉ st.recs.map SeqRec.seq → u.seq q = s.seq q))
  ∧ ∀ (q : Fin 262144) (s : State),
      (∀ x, (s.seq q).importing = some x →
        let holds := (s.seq q).closing = none ∨ (s.inGroup (q / 16384) = true ∧ s.iState (s.instOf (q / 16384)) = 3) ∨ s.seqBusy q = true
        ∃ u, exec (.kvImportCopyEnd q) s = .next u ∧ (∀ k, k ≠ q.val → u.seq k = s.seq k) ∧ u.cores = s.cores
          ∧ (holds → (u.seq q).state = .opened ∧ (u.seq q).importing = none ∧ (u.seq q).len = leNat ((x.data.drop 4).take 4))
          ∧ (¬ holds → (u.seq q).state = .closed))
      ∧ (∀ x, (s.seq q).exporting.find? (·.ready) = some x →
          (∃ u, exec (.kvExportEnd q) s = .next u ∧ u.seq q = { s.seq q with exporting := (s.seq q).exporting.erase x }
            ∧ u.fld PRT_KV_XFER.EXPORTS (q / 16384) = min PRT_KV_XFER.EXPORTS.max (s.fld PRT_KV_XFER.EXPORTS (q / 16384) + 1)
            ∧ (∀ k, k ≠ q.val → u.seq k = s.seq k) ∧ u.cores = s.cores)
          ∧ (x.dev = false → x.done.ring ≤ 4096 → (s.ctx x.done.ring).adopting = false → s.ringLive x.done.ring = false →
            ∃ u, exec (.kvExportEnd q) s = .next u
              ∧ getBytes u.host (s.hostKey x.done.ring x.addr) x.data.length = x.data
              ∧ u.trunk = s.trunk ∧ u.root = s.root))

/-- R361 to R364, R368, R369, R380: doorbells move a ring's tail and heads where they are in range, entries are read and
started in ring order, held completions are written once there is room, and moderation fires its vector. Model's choices:
host stores travel with the doorbell and host memory is keyed by PASID (log 7, 8); moderation expiry is a command (log 4).
-/
def Obligations.RingsAndDoorbells : Prop :=
  ∀ (r : RingId) (v : BitVec 32) (s : State),
    let x := ringNo r
    let c := s.ctx x
    s.ringLive x = true →
    (∀ mem : HostStores, (v.toNat + 2 ^ 32 - s.sqHead x) % 2 ^ 32 ≤ c.sq.entries → v.toNat ≠ c.sqTail →
      exec (.sqTail r v mem) s = .next (({ s with host := mem.foldl (fun m e => setByte m (s.hostKey x e.1) e.2) s.host } : State).setCtx x
        { c with sqTail := v.toNat, tails := c.tails ++ [(v.toNat, s.ntu.tick)] }))
    ∧ ((v.toNat + 2 ^ 32 - c.cqHead) % 2 ^ 32 ≤ cqUsed c → exec (.cqHead r v) s = .next (s.setCtx x { c with cqHead := v.toNat }))
    ∧ ((v.toNat + 2 ^ 32 - c.eqHead) % 2 ^ 32 ≤ eqUsed c → exec (.eqHead r v) s = .next (s.setCtx x { c with eqHead := v.toNat }))
    ∧ (∀ bs, c.sq.dev = true → c.cq.dev = false → s.readOva x (c.sq.base + 0x10) 4 = some bs →
        (leNat bs + 2 ^ 32 - s.sqHead x) % 2 ^ 32 ≤ c.sq.entries → leNat bs ≠ c.sqTail →
        exec (.ringHeaderDoorbell r) s = .next (s.setCtx x { c with sqTail := leNat bs, tails := c.tails ++ [(leNat bs, s.ntu.tick)] }))
    ∧ (let head := s.sqHead x
       let bs := getBytes s.host (s.hostKey x (c.sq.entryAddr head 64)) 64
       c.sq.dev = false → c.sqTail = (head + 1) % 2 ^ 32 → head < 2 ^ 32 → c.open_ = [] →
        opcodeOk (decide (x = 4096)) (s.aqpVersion x) (leNat (bs.take 1)) = true →
        ∃ u d, exec (.descriptorFetch r) s = .next u ∧ u.sqHead x = c.sqTail ∧ (u.ctx x).started = c.started ++ [d]
          ∧ d.bytes = bs ∧ d.pos = head ∧ (u.ctx x).open_ = [head] ∧ u.cores = s.cores ∧ s.SameBytes u [])
    ∧ (∀ e, c.held = [e] → c.cq.dev = false → cqUsed c < c.cq.entries →
        ∃ u, exec (.cqSpaceResume r) s = .next u ∧ (u.ctx x).held = [] ∧ (u.ctx x).cqWritten = (c.cqWritten + 1) % 2 ^ 32
          ∧ getBytes u.host (s.hostKey x (c.cq.entryAddr c.cqWritten 32)) 32
              = e.bytes (c.cq.phase c.cqWritten) (s.sqHead x) s.ntu.tick
          ∧ u.cores = s.cores ∧ u.trunk = s.trunk)
    ∧ (s.modTicksCfg x ≠ 0 → c.modCnt ≠ 0 → s.irqEn x = true → c.cq.dev = false → c.modSince + s.modTicksCfg x ≤ s.ntu.elapsed →
        exec (.modTicksExpiry r) s = .next (({ s with outs := (match r with
            | none => Out.msix 0 (s.fld HIF_ADM_CFG.VECTOR 0)
            | some n => Out.msix (1 + n.val / 256) (s.fld VF_CTX_CFG.VECTOR n)) :: s.outs } : State).setCtx x { c with modCnt := 0 }))

/-- R142, R261, R365, R367, R382: creation of a context and of the admin context with their rings, the end of the admin
context, and REBASE: asked for, then applied once nothing is outstanding. Model's choices: the order of CREATE's checks and
the reading of REBASE (log 36, 37). -/
def Obligations.ContextCreation : Prop :=
  (∀ (n : PartId) (mem : HostStores) (s : State),
    let x := s.selected n
    let h := s.hostStores x mem
    (∀ frames rest, h.createErr x (decide (s.cState x ≠ 0)) (ringOf (s.ringReg x 0)) (ringOf (s.ringReg x 1)) (ringOf (s.ringReg x 2)) = 0 →
      h.takeRuns false n false (List.replicate 160 1) = (some frames, rest) → (s.ctx x).adopting = false →
      ∃ u, exec (.create n mem) s = .next u ∧ u.cState x = 1 ∧ (u.ctx x).sq = ringOf (s.ringReg x 0)
        ∧ (u.ctx x).cq = ringOf (s.ringReg x 1) ∧ (u.ctx x).eq = ringOf (s.ringReg x 2) ∧ (u.ctx x).seed = s.reg .VF_CTX_SEED x
        ∧ (u.ctx x).sqTail = 0 ∧ (u.ctx x).cqHead = 0 ∧ (u.ctx x).open_ = [] ∧ u.cores = s.cores)
    ∧ (s.cLive x = true → s.aqpVersion x = 2 → ∃ u, exec (.rebase n mem) s = .next u ∧ (u.ctx x).rebase = true
        ∧ u.fld VF_CTX_STATUS.ERR x = 0 ∧ (∀ k, k ≠ x → u.ctx k = s.ctx k) ∧ u.cores = s.cores ∧ u.trunk = s.trunk
        ∧ s.SameRegs u [(.VF_CTX_STATUS, x)]))
  ∧ (∀ (mem : HostStores) (s : State),
      let h := s.hostStores 4096 mem
      h.createErr 4096 (s.ctx 4096).exists_ (ringOf (s.reg .HIF_ADM_SQ 0)) (ringOf (s.reg .HIF_ADM_CQ 0)) (ringOf (s.reg .HIF_ADM_EQ 0)) = 0 →
      exec (.adminContextCreate mem) s = .next ((h.setCtx 4096 { sq := ringOf (s.reg .HIF_ADM_SQ 0), cq := ringOf (s.reg .HIF_ADM_CQ 0)
                                                                 eq := ringOf (s.reg .HIF_ADM_EQ 0), exists_ := true }).setReg .HIF_ADM_CTL 0 0))
  ∧ (∀ s : State, ∃ u, exec .adminContextDestroy s = .next u ∧ u.ctx 4096 = {} ∧ u.regs = s.regs ∧ u.cores = s.cores
      ∧ (s.snapFree = [] → (∀ k, k ≠ 4096 → u.ctx k = s.ctx k) ∧ s.SameBytes u []))
  ∧ ∀ (x : Fin 4096) (s : State),
      let sq := ringOf (s.ringReg x 0)
      let cq := ringOf (s.ringReg x 1)
      let eq := ringOf (s.ringReg x 2)
      let t := s.modCtx x fun c => { c with rebase := false }
      (s.ctx x).rebase = true → s.cLive x = true → (s.ctx x).open_ = [] → s.sqHead x = (s.ctx x).sqTail →
      (∀ r ∈ [sq, cq, eq], 4 ≤ r.log2 ∧ r.log2 ≤ 16) → eq.dev = false → t.devRingOk x sq 64 = true → t.devRingOk x cq 32 = true →
      t.headerOk x sq 0 = true → t.headerOk x cq 1 = true → t.headerOk x eq 2 = true →
      ∃ u, exec (.rebaseApply x) s = .next u ∧ u.ctx x = { s.ctx x with rebase := false, sq := sq, cq := cq, eq := eq }
        ∧ (∀ k, k ≠ x.val → u.ctx k = s.ctx k) ∧ u.regs = s.regs ∧ u.cores = s.cores ∧ s.SameBytes u []

/-- R113, R142, R344, R345, R360: a kill, by KILL or DESTROY or a VF's reset, puts the context in KILLING and halts and
clears its cores; CLEAR_END empties a core; KEY_ERASURE zeroes the key; CONTEXT_RELEASE frees the context. Model's choices:
the reading of a kill's stages (log 37). -/
def Obligations.ContextKill : Prop :=
  (∀ (p : PartId) (s : State) (c : Nat) (i : Instr) (x : Nat), c < 512 →
    ((i = .kill p ∧ x = p * 256 + s.fld PRT_ISO_CTX.CTX_LOCAL p) ∨ (i = .destroy p ∧ x = s.selected p)) → s.cLive x = true →
    s.boundCores x = [c] → s.waitingCores x = [] → s.steps = [] → s.waiting = [] → s.replays = [] → s.seqs = [] → s.migs = [] →
    s.snapFree = [] → (∀ q, (s.mem q).mig = []) →
    (∀ k, k < 16 → (s.inst k).owner ≠ x ∨ s.trailActive k = false) → (s.core c).lastCtx = some x →
    ∃ u, exec i s = .next u ∧ u.cState x = 3 ∧ u.fld PRT_ISO_BIND.VALID c = 0 ∧ (u.core c).killed = true ∧ (u.core c).lq = []
      -- the clear starts at once, or once what has started has completed
      ∧ (s.coreQuiet c = true → u.fld PRT_CNP_STATUS.CLEAR_BUSY c = 1 ∧ u.fld PRT_CNP_STATUS.WIN_OPEN c = 0)
      ∧ ((∃ o ∈ (s.core c).ops, o.started = true) → (u.core c).wantClear = true ∧ u.reg .PRT_CNP_STATUS c = s.reg .PRT_CNP_STATUS c)
      ∧ (∀ e ∈ (u.core c).threads, e.2.state = .inactive ∨ e.2.state = .halted) ∧ (u.ctx x).started = [] ∧ (u.ctx x).open_ = []
      ∧ s.SameCores u c ∧ s.SameBytes u [])
  ∧ (∀ (p : PartId) (s : State) (c : Nat), c / 32 = p.val → (∀ x, x / 256 = p.val → s.cLive x = false) → s.inGroup p = false →
      s.boundCtx c = none →
      ∃ u, exec (.flrVf p) s = .next u ∧ (s.coreQuiet c = true → u.fld PRT_CNP_STATUS.CLEAR_BUSY c = 1)
        ∧ (u.core c).lcfg = [] ∧ (u.core c).oslots = []
        ∧ (u.core c).killed = true ∧ (∀ e ∈ (u.core c).threads, e.2.ibound = 0 ∧ e.2.cbound = 0 ∧ (e.2.state = .inactive ∨ e.2.state = .halted))
        ∧ (∀ d, d / 32 ≠ p.val → u.core d = s.core d) ∧ s.SameBytes u [])
  ∧ (∀ (c : Lcid) (s : State), s.fld PRT_CNP_STATUS.CLEAR_BUSY c = 1 → (s.core c).lastCtx = none →
      ∃ u, exec (.clearEnd c) s = .next u ∧ u.fld PRT_CNP_STATUS.CLEAR_BUSY c = 0
        ∧ u.fld PRT_CNP_STATUS.CLEAR_CNT c = min PRT_CNP_STATUS.CLEAR_CNT.max (s.fld PRT_CNP_STATUS.CLEAR_CNT c + 1)
        ∧ (u.core c).canopy = [] ∧ (u.core c).cmarks = [] ∧ (u.core c).cells = [] ∧ (u.core c).wins = [] ∧ (u.core c).acc = []
        ∧ (u.core c).lcfg = [] ∧ (u.core c).oslots = [] ∧ u.fld PRT_OUT_STATUS.SLOT_VALID c = 0xFF
        ∧ ((s.core c).killed = false → (u.core c).threads = (s.core c).threads) ∧ s.SameCores u c ∧ s.SameBytes u [c]
        ∧ s.SameRegs u [(.PRT_CNP_STATUS, c), (.PRT_OUT_STATUS, c), (.PRT_LAT_TILE, c), (.PRT_CNP_SCRUB, c)])
  ∧ ∀ (x : Fin 4096) (s : State), s.cState x = 3 → (s.ctx x).killUnmap = true →
      ((s.ctx x).killKey = false → s.ctxBusy x = false → ∃ u, exec (.keyErasure x) s = .next u ∧ (u.ctx x).killKey = true
        ∧ (u.ctx x).key = 0 ∧ u.cState x = 3 ∧ u.cores = s.cores ∧ s.SameBytes u [])
      ∧ ((s.ctx x).killKey = true → s.framesPend (s.ctx x).killFrames = false → (s.ctx x).areaFrames = [] →
          ∃ u, exec (.contextRelease x) s = .next u ∧ u.cState x = 0 ∧ u.ctx x = { used := true }
            ∧ u.fld PRT_ISO_CNT.KILL_CNT (x / 256) = min PRT_ISO_CNT.KILL_CNT.max (s.fld PRT_ISO_CNT.KILL_CNT (x / 256) + 1)
            ∧ (∀ k, k ≠ x.val → u.ctx k = s.ctx k) ∧ u.cores = s.cores ∧ s.SameBytes u []
            ∧ s.SameRegs u [(.VF_CTX_STATUS, x), (.PRT_ISO_CNT, x / 256)])

/-- R90, R271, R340, R342: a write of PRT_ISO_BIND with VALID = 1 binds the core at once where no clear is needed, else once
its clear has ended; a write of PRT_ISO_GRP takes effect with the lock open, and forms the group when every member agrees.
-/
def Obligations.BindingAndGroups : Prop :=
  (∀ (c : Lcid) (v : Word) (s : State),
    let x := PRT_ISO_BIND.CTX.of v
    PRT_ISO_BIND.VALID.of v = 1 → s.lockOpen (c / 32) = true → s.cLive x = true → s.inGroup (c / 32) = true →
    maskBit (s.groupMask (c / 32)) (x / 256) = true → s.boundCtx c = none → (s.core c).pendBind = none → s.canopyFits x = true →
    (s.ctx x).adopting = false → s.clearPending c = false →
    ((s.core c).lastCtx = some x → ∃ u, exec (.prtIsoBindWrite c v) s = .next u ∧ u.boundCtx c = some x ∧ u.cState x = 2
      ∧ (u.core c).canopy = (s.core c).canopy ∧ s.SameCores u c ∧ s.SameBytes u []
      ∧ s.SameRegs u [(.PRT_ISO_BIND, c), (.VF_CTX_STATUS, x)])
    ∧ ((s.core c).lastCtx ≠ some x → ∃ u, exec (.prtIsoBindWrite c v) s = .next u ∧ u.boundCtx c = none
      ∧ (u.core c).pendBind = some x ∧ u.clearPending c = true
      ∧ (s.coreQuiet c = true → u.fld PRT_CNP_STATUS.CLEAR_BUSY c = 1) ∧ s.SameCores u c ∧ s.SameBytes u []
      ∧ s.SameRegs u [(.PRT_ISO_BIND, c), (.PRT_CNP_STATUS, c)]))
  ∧ (∀ (c : Lcid) (s : State) (x : Nat), x < 4096 → (s.core c).pendBind = some x → s.clearPending c = false → s.cLive x = true →
      (s.ctx x).adopting = false →
      ∃ u, exec (.bindEffect c) s = .next u ∧ u.boundCtx c = some x ∧ u.cState x = 2 ∧ (u.core c).lastCtx = some x
        ∧ (u.core c).pendBind = none ∧ s.SameCores u c ∧ s.SameBytes u [] ∧ s.SameRegs u [(.PRT_ISO_BIND, c), (.VF_CTX_STATUS, x)])
  ∧ ∀ (p : PartId) (v : Word) (s : State), s.inGroup p = false → s.present p = true → PRT_ISO_GRP.GROUP_MASK.of v = 2 ^ p.val →
      ∃ u, exec (.prtIsoGrpWrite p v) s = .next u ∧ u.groupMask p = 2 ^ p.val ∧ u.inGroup p = true ∧ u.iState p = 0 ∧ u.inst p = {}
        ∧ (∀ q : PartId, q ≠ p → u.groupMask q = s.groupMask q ∧ u.inst q = s.inst q) ∧ u.cores = s.cores ∧ s.SameBytes u []

/-- R204, R211, R229, R230, R234, R372, R374: a STEP or ADAPTER_STEP that is well formed waits for admission; SEQ_OPEN opens a
free sequence and completes with its handle; SEQ_CLOSE, KV_IMPORT and KV_EXPORT start their work on the context's own
sequence: SEQ_CLOSE waits for a boundary only while a trail of the group is RUNNING, and an import leaves no last released
token. Model's choices: a sequence's handle (log 16); exports with no trail running (log 35). -/
def Obligations.StepsAndSequences : Prop :=
  ∀ (r : RingId) (s : State) (d : Desc),
    let x := ringNo r
    let p := x / 256
    let t := s.modCtx x fun c => { c with started := c.started.tail }
    x < 4096 → s.RingReady x d →
    (d.opcode = 0x01 → d.clean 1 [(8, 2), (0x10, 8), (0x18, 8), (0x20, 1)] = true → d.stepOk = true → d.le 0x20 1 < 4 →
      ∃ u e, exec (.step r) s = .next u ∧ u.waiting.get [] p = s.waiting.get [] p ++ [e] ∧ e.ctx = x ∧ e.id = d.pos ∧ e.tag = d.tag
        ∧ e.adapter = false ∧ e.nseq = d.le 8 2 ∧ e.recAddr = d.le 0x10 8 ∧ e.resAddr = d.le 0x18 8 ∧ e.arrived = d.arrived
        ∧ (u.ctx x).started = (s.ctx x).started.tail ∧ u.regs = s.regs ∧ u.cores = s.cores ∧ s.SameBytes u [])
    ∧ (d.opcode = 0x10 → d.clean 1 [(8, 2), (0x10, 8), (0x20, 1), (0x28, 8), (0x30, 4)] = true → d.stepOk = true → d.le 0x20 1 < 8 →
        maskBit (d.le 0x20 1) 2 = true → maskBit (d.le 0x20 1) 1 = false → d.le 0x28 8 % 64 = 0 → 64 ≤ d.le 0x30 4 → d.le 0x30 4 ≤ 65536 →
        ∃ u e, exec (.adapterStep r) s = .next u ∧ u.waiting.get [] p = s.waiting.get [] p ++ [e] ∧ e.ctx = x ∧ e.id = d.pos
          ∧ e.adapter = true ∧ e.argAddr = d.le 0x28 8 ∧ e.argBytes = d.le 0x30 4 ∧ u.regs = s.regs ∧ u.cores = s.cores ∧ s.SameBytes u [])
    ∧ (∀ o, d.opcode = 0x02 → d.clean 1 [(8, 8), (0x10, 4), (0x14, 4), (0x18, 4), (0x1C, 4), (0x20, 8), (0x28, 1)] = true →
        1 ≤ d.le 0x14 4 → d.le 0x14 4 ≤ 4194304 → d.le 0x28 1 ∈ [0, 1, 64] → d.le 0x20 8 % 64 = 0 → d.le 0x18 4 < 2 ^ 18 →
        s.ownObj x (d.le 0x10 4) = .ok o → o.kind = 2 → kvlOk (d.le 8 8) = true → kvEB (d.le 8 8) = kvEB o.kvl → kvSB (d.le 8 8) = kvSB o.kvl →
        ({ kvl := d.le 8 8, cap := d.le 0x14 4 } : SeqEnt).tblSlots ≤ (s.free (d.le 0x10 4)).count →
        (∃ q, q / 16384 = p ∧ (s.seq q).state = .closed ∧ (s.seq q).exporting = []) →
        ∃ u q, exec (.seqOpen r) s = .next u ∧ q / 16384 = p ∧ (s.seq q).state = .closed ∧ (u.seq q).state = .opened
          ∧ (u.seq q).ctx = x ∧ (u.seq q).pool = d.le 0x10 4 ∧ (u.seq q).kvl = d.le 8 8 ∧ (u.seq q).cap = d.le 0x14 4 ∧ (u.seq q).len = 0
          ∧ (∀ k, k ≠ q → u.seq k = s.seq k) ∧ s.Completed u x d 0 0 q ∧ u.cores = s.cores)
    ∧ (∀ q, s.ownSeq x (d.le 8 4) = .ok q →
        (d.opcode = 0x03 → d.clean 1 [(8, 4)] = true → (s.seq q).closing = none →
          (t.trailRunning p = true → ∃ u, exec (.seqClose r) s = .next u ∧ u.seq q = { s.seq q with closing := some (d.later x) }
            ∧ u.regs = s.regs ∧ u.cores = s.cores ∧ s.SameBytes u [])
          ∧ (t.trailRunning p = false → s.seqBusy q = false → (s.seq q).state ≠ .importing →
              ∃ u, exec (.seqClose r) s = .next u ∧ (u.seq q).state = .closed ∧ u.cores = s.cores
                ∧ ((s.seq q).exporting = [] → s.waiting.get [] p = [] → s.Completed u x d 0 0 0)))
        ∧ (∀ bs, d.opcode = 0x04 → d.xferOk = true → (s.seq q).state = .opened → (s.seq q).len = 0 → s.seqBusy q = false →
            t.importCheck x q d = .ok bs →
            (fieldAt bs 4 4 = 0 → ∃ u, exec (.kvImport r) s = .next u ∧ s.Completed u x d 0 0 64 ∧ u.cores = s.cores
              ∧ u.seq q = { s.seq q with lastTok := none } ∧ ∀ k, k ≠ q → u.seq k = s.seq k)
            ∧ (fieldAt bs 4 4 ≠ 0 → ∃ u i, exec (.kvImport r) s = .next u ∧ (u.seq q).state = .importing
                ∧ (u.seq q).importing = some i ∧ i.data = bs ∧ i.done = d.later x ∧ (u.seq q).lastTok = none ∧ u.cores = s.cores))
        ∧ (d.opcode = 0x05 → d.xferOk = true → (s.seq q).state ≠ .importing → (s.seq q).exporting = [] →
            (t.trailRuns x = true → ∃ u e, exec (.kvExport r) s = .next u ∧ (u.seq q).exporting = [e] ∧ e.ready = false
              ∧ e.done = d.later x ∧ e.addr = d.le 0x10 8 ∧ u.regs = s.regs ∧ u.cores = s.cores)
            ∧ (t.trailRuns x = false → (t.exportBytes q).length ≤ d.le 0x18 8 →
                ∃ u e, exec (.kvExport r) s = .next u ∧ (u.seq q).exporting = [e] ∧ e.ready = true ∧ e.data = t.exportBytes q
                  ∧ u.regs = s.regs ∧ u.cores = s.cores)))

/-- R267, R268, R269, R459: OBJ_MAP of a new object, of a share of a group object and of a retained object, and OBJ_UNMAP,
where no trail of the group runs: the object table, the page table and the completion. Model's choices: the layout of a
handle and the choice of frames (log 16, 3). -/
def Obligations.ObjectMaps : Prop :=
  ∀ (r : RingId) (s : State) (d : Desc),
    let x := ringNo r
    let t := s.modCtx x fun c => { c with started := c.started.tail }
    let q := d.mapReq
    x < 4096 → s.RingReady x d → t.trailRuns x = false → (s.ctx x).deferred = [] →
    (∀ key t1 frames golden t2, d.opcode = 0x06 → q.share = false → q.adopt = false → t.mapStatus x d q = 0 → q.kind ≠ 2 → q.big = false →
      q.fill = 0 → q.backed = false → t.keyFor x q.group = (some key, t1) → t1.takeObject x q = (some (frames, golden), t2) →
      ∃ u o, exec (.objMap r) s = .next u ∧ (u.ctx x).objs = (s.ctx x).objs ++ [o] ∧ o.handle = t2.newHandle x ∧ o.ova = q.ova
        ∧ o.bytes = q.bytes ∧ o.kind = q.kind ∧ o.writable = q.writable ∧ o.key = key ∧ o.owner = x
        ∧ (∀ i f, frames[i]? = some f → let e := (u.ctx x).pages.get {} (q.ova / 65536 + i)
            e.present = true ∧ e.frame = f ∧ e.key = key ∧ e.w = (q.writable && decide (q.tier = 0)))
        ∧ s.Completed u x d 0 0 o.handle ∧ u.cores = s.cores ∧ u.trunk = s.trunk ∧ u.root = s.root)
    ∧ (∀ o, d.opcode = 0x06 → q.share = true → q.adopt = false → t.sameGroup x (q.src / 2 ^ 20) = true → t.findObj q.src = some o →
        o.kind = 1 → o.groupKey = true → d.clean 1 [(8, 0x30)] = true → q.bytes = o.bytes → q.big = o.big → q.kind = 1 → q.writable = false →
        q.backed = false → q.group = true → q.fill = 0 → q.rname = 0 → q.kvl = 0 → ovaOk q.ova q.bytes q.big = true →
        t.ovaTaken x q.ova q.bytes = false →
        ∃ u n, exec (.objMapShare r) s = .next u ∧ (u.ctx x).objs = (s.ctx x).objs ++ [n] ∧ n.handle = t.newHandle x ∧ n.ova = q.ova
          ∧ n.sid = o.sid ∧ n.writable = false ∧ n.backed = o.backed ∧ n.golden = o.golden ∧ s.Completed u x d 0 0 n.handle ∧ u.cores = s.cores ∧ u.trunk = s.trunk ∧ u.root = s.root)
    ∧ (∀ o, d.opcode = 0x06 → q.adopt = true → (s.sec.retained.find? fun e => e.part = x / 256 ∧ e.rname = q.rname) = some o →
        o.kind = q.kind → o.bytes = q.bytes → q.share = false → q.backed = false → q.fill = 0 → d.clean 1 [(8, 0x30)] = true →
        ovaOk q.ova q.bytes o.big = true → unitOk q.unit = true → (q.kind = 1 → q.writable = false) → t.ovaTaken x q.ova q.bytes = false →
        t.quotaOk x .root q.bytes = true → o.backed = false →
        ∃ u n, exec (.objMapAdopt r) s = .next u ∧ (u.ctx x).objs = (s.ctx x).objs ++ [n] ∧ n.ova = q.ova ∧ n.rname = o.rname ∧ n.key = o.key
          ∧ n.big = o.big ∧ u.sec.retained = s.sec.retained.erase o ∧ s.Completed u x d 0 0 n.handle ∧ u.cores = s.cores ∧ u.root = s.root)
    ∧ (∀ o, d.opcode = 0x08 → d.clean 1 [(8, 4)] = true → s.ownObj x (d.le 8 4) = .ok o → o.kind ≠ 2 →
        (s.mem (x / 256)).mig = [] →
        ∃ u, exec (.objUnmap r) s = .next u ∧ (∀ n ∈ (u.ctx x).objs, n.handle ≠ o.handle)
          ∧ (∀ pg, o.ova / 65536 ≤ pg → pg < (o.ova + o.bytes) / 65536 → (u.ctx x).pages.get {} pg = {})
          ∧ u.cores = s.cores ∧ ((∀ k, (s.mem k).mig = []) → s.Completed u x d 0 0 0))

/-- R266, R271, R274, R276, R376: OBJ_PLACE of tiles already in the tier asked for completes and pins them where PIN is set;
a rearrangement joins its engine's queue behind what arrived before it, and its service begins at once where no engine has a
request; QUOTA_SET sets the quotas its mask names; NOP and FENCE complete. -/
def Obligations.PlacementAndQuotas : Prop :=
  ∀ (r : RingId) (s : State) (d : Desc),
    let x := ringNo r
    let p := x / 256
    let t := s.modCtx x fun c => { c with started := c.started.tail }
    s.RingReady x d →
    (∀ o, x < 4096 → d.opcode = 0x07 → maskBit (d.le 0x16 1) 1 = false → t.placeCheck x d false = .ok o → (∀ k, (s.mem k).mig = []) →
      (∀ k, d.le 0xC 4 ≤ k → k < d.le 0xC 4 + d.le 0x10 4 → (s.tilePte x o k).pin = false ∧
        (s.tilePte x o k).tier = if d.le 0x14 1 = 1 then .root else .trunk) →
      s.findObj o.handle = some o → (∀ e ∈ (s.ctx x).pages, e.2.big = false) →
      ∃ u, exec (.objPlace r) s = .next u ∧ (u.mem p).mig = [] ∧ s.Completed u x d 0 0 0 ∧ u.cores = s.cores ∧ u.trunk = s.trunk ∧ u.root = s.root
        ∧ (maskBit (d.le 0x16 1) 0 = true → x ∈ s.ctxList → ∀ k, d.le 0xC 4 ≤ k → k < d.le 0xC 4 + d.le 0x10 4 →
            ((s.ctx x).pages.get {} (o.ova / 65536 + k)).present = true → ((u.ctx x).pages.get {} (o.ova / 65536 + k)).pin = true)
        ∧ (maskBit (d.le 0x16 1) 0 = false → (u.ctx x).pages = (s.ctx x).pages))
    ∧ (∀ o q, x < 4096 → d.opcode = 0x07 → maskBit (d.le 0x16 1) 1 = true → t.placeCheck x d true = .ok o → s.ownObj x (d.le 0x20 4) = .ok q →
        d.le 0x1E 1 ∈ [3, 4, 5, 6, 7, 8] → d.le 0x1C 2 ≤ 511 → 0 < d.le 0x18 4 → d.le 0x18 4 % 32 = 0 → 0 < d.le 0x24 4 →
        d.le 0x24 4 % (32 * (d.le 0x1C 2 + 1)) = 0 →
        arrangeSrc (d.le 0x18 4) (d.le 0x24 4) (elemBits (d.le 0x1E 1)) ≤ d.le 0x10 4 * 65536 →
        arrangeDst (d.le 0x18 4) (d.le 0x24 4) (d.le 0x1C 2) (elemBits (d.le 0x1E 1)) ≤ q.bytes →
        ∃ u, exec (.objPlaceArrange r) s = .next u ∧ u.cores = s.cores
          ∧ (∃ m ∈ (u.mem p).mig, m.ctx = x ∧ m.obj = o.handle ∧ m.first = d.le 0xC 4 ∧ m.done = d.later x ∧ m.arrange = some
              { dst := q.handle, n := d.le 0x18 4, k := d.le 0x24 4, kg := d.le 0x1C 2, wfmt := d.le 0x1E 1 })
          ∧ ((∀ k, (s.mem k).mig = []) → ∃ m, (u.mem p).mig = [m] ∧ m.begun = true ∧ u.regs = s.regs ∧ s.SameBytes u []))
    ∧ (∀ c, x = 4096 → d.opcode = 0x0B → d.le 8 2 = c → c < 4096 → d.le 0xB 1 < 16 → (maskBit (d.le 0xB 1) 3 = true → d.le 0xA 1 ≤ 100) →
        d.clean 1 [(8, 4), (0x10, 24)] = true → s.cLive c = true →
        ∃ u, exec (.quotaSet r) s = .next u
          ∧ u.ctx c = { s.ctx c with qCanopy := if maskBit (d.le 0xB 1) 0 then d.le 0x10 8 else (s.ctx c).qCanopy
                                     qTrunk := if maskBit (d.le 0xB 1) 1 then d.le 0x18 8 else (s.ctx c).qTrunk
                                     qRoot := if maskBit (d.le 0xB 1) 2 then d.le 0x20 8 else (s.ctx c).qRoot
                                     bwShare := if maskBit (d.le 0xB 1) 3 then d.le 0xA 1 else (s.ctx c).bwShare }
          ∧ s.Completed u x d 0 0 0 ∧ u.cores = s.cores ∧ u.trunk = s.trunk)
    ∧ (d.opcode = 0x0F → d.clean 1 [] = true →
        ∃ u, exec (.nopDescriptor r) s = .next u ∧ s.Completed u x d 0 0 0 ∧ u.cores = s.cores ∧ u.trunk = s.trunk ∧ u.root = s.root)
    ∧ (d.opcode = 0x0E → d.clean 1 [] = true → (s.ctx x).open_.head? = some d.pos →
        ∃ u, exec (.fenceDescriptor r) s = .next u ∧ s.Completed u x d 0 0 0 ∧ u.cores = s.cores ∧ u.trunk = s.trunk ∧ u.root = s.root)

/-- R270, R273, R274, R276: the end of a tile's move, of an object's fill and of a rearrangement: bytes, entries and what
leaves the engine's queue. Model's choices: an engine's copy takes effect at its end command (log 5); bytes that a fill or a
rearrangement would put on a pool's pages are dropped (log 85). -/
def Obligations.MemoryEngines : Prop :=
  (∀ (p : PartId) (s : State) (m : MigReq) (f : Nat) (o : Obj), (s.mem p).mig = [m] → m.copying = [(m.next, f)] → m.begun = true →
    m.arrange = none → s.findObj m.obj = some o → m.next + 1 = m.stop → m.cancelled = false → (∀ q : Nat, q ≠ p.val → (s.mem q).mig = []) →
    (s.ctx m.ctx).deferred = [] → (s.ctx m.done.ring).cq.dev = false → f * 65536 < rootBase → o.kind = 0 →
    (s.tilePte m.ctx o m.next).frame * 65536 < rootBase → s.mustCheck ((s.tilePte m.ctx o m.next).frame * 65536) 65536 = false →
    s.tileEntries o m.next = [(m.ctx, o.ova / 65536 + m.next)] →
    ∃ u, exec (.migrationTileSwitch p) s = .next u ∧ (u.mem p).mig = []
      ∧ getBytes u.trunk (f * 65536) 65536 = getBytes s.trunk ((s.tilePte m.ctx o m.next).frame * 65536) 65536
      ∧ (∀ a, a < f * 65536 ∨ f * 65536 + 65536 ≤ a → getByte u.trunk a = getByte s.trunk a)
      ∧ ((u.ctx m.ctx).pages.get {} (o.ova / 65536 + m.next)).frame = f
      ∧ ((u.ctx m.ctx).pages.get {} (o.ova / 65536 + m.next)).tier = m.tier
      ∧ ((u.ctx m.ctx).pages.get {} (o.ova / 65536 + m.next)).mig = false
      ∧ u.fld PRT_XL_MIG.TILES_MOVED p = min PRT_XL_MIG.TILES_MOVED.max (s.fld PRT_XL_MIG.TILES_MOVED p + 1)
      ∧ u.cores = s.cores ∧ u.root = s.root)
  ∧ (∀ (x : Fin 4096) (s : State) (f : FillReq), (s.ctx x).fills = [f] → f.done.ring = x → (s.ctx x).cq.dev = false →
      (∀ o, s.findObj f.obj = some o → ((s.objFrames x o).all s.writable && (f.adopt || o.golden.all fun g => s.writable (g / 65536))) = true) →
      ∃ u, exec (.objMapFillEnd x) s = .next u ∧ (u.ctx x).fills = [] ∧ u.cores = s.cores
        ∧ (∀ o, s.findObj f.obj = some o → f.adopt = false → f.src = 0 → o.bytes = 65536 → o.golden = [] → s.inPool x o.ova = false →
            (s.pte x o.ova).present = true → (s.pte x o.ova).tier = .trunk → (s.pte x o.ova).big = false → o.ova % 65536 = 0 →
            (s.pte x o.ova).frame * 65536 < rootBase →
            getBytes u.trunk ((s.pte x o.ova).frame * 65536) 65536 = List.replicate 65536 0))
  ∧ ∀ (p : PartId) (s : State) (m : MigReq) (a : Arrange) (o : Obj), (s.mem p).mig = [m] → m.arrange = some a → m.begun = true →
      s.findObj m.obj = some o → (s.ctx m.done.ring).cq.dev = false →
      ∃ u, exec (.arrangeEnd p) s = .next u ∧ (u.mem p).mig = [] ∧ u.cores = s.cores
        ∧ (∀ q, s.findObj a.dst = some q → (∀ k : Nat, k ≠ p.val → (s.mem k).mig = []) → s.tmarks = [] → s.fld FLT_INJ_CTL.ACTIVE 0 = 0 →
            q.ova % 65536 = 0 → s.inPool m.ctx q.ova = false → (s.pte m.ctx q.ova).present = true → (s.pte m.ctx q.ova).tier = .trunk →
            (s.pte m.ctx q.ova).frame * 65536 < rootBase → (s.pte m.ctx q.ova).big = false →
            let src := s.objBytes m.obj (m.first * 65536) (arrangeSrc a.n a.k (elemBits a.wfmt))
            (arranged src a.n a.k a.kg a.wfmt).length ≤ 65536 →
            getBytes u.trunk ((s.pte m.ctx q.ova).frame * 65536) (arranged src a.n a.k a.kg a.wfmt).length
              = arranged src a.n a.k a.kg a.wfmt)

/-- R58, R59, R61, R81, R89: TRAIL_LOAD of an image that passes the checks loads the instance and places the cores' images;
TRAIL_START arms it for its start tick; TRAIL_STOP announces the stop at its boundary and waits for it. Model's choices: the
layout of an image (log 30); rings count from the start tick (log 76); STOP_CAUSE returns to 0 when a trail is armed (log 77). -/
def Obligations.TrailDescriptors : Prop :=
  ∀ (r : RingId) (s : State) (d : Desc),
    let x := ringNo r
    let t := s.modCtx x fun c => { c with started := c.started.tail }
    let i := s.instOf (ctxPart x)
    let e := d.le 8 8
    x < 4096 → i < 16 → s.RingReady x d →
    (∀ im, d.opcode = 0x09 → d.clean 1 [(8, 8), (16, 8), (24, 1)] = true → d.le 24 1 ≤ 1 → e % 64 = 0 → s.inGroup (ctxPart x) = true →
      t.notOwner i x = false → t.readSpace x (maskBit (d.le 24 1) 0) e (d.le 16 8) = some im →
      t.loadCheck i (s.groupMask (ctxPart x)) im (d.le 16 8) = 0 → ((readImage im).cores.map CoreEnt.lcid).Nodup →
      ∃ u, exec (.trailLoad r) s = .next u ∧ u.iState i = 1 ∧ u.inst i = { image := readImage im, owner := x }
        ∧ (∀ k, k ≠ i → u.inst k = s.inst k) ∧ u.fld RSQ_TRL_STATUS.TRAIL_ID_LO i = (readImage im).trailId % 2 ^ 32
        ∧ u.fld RSQ_TRL_STATUS.GROUP_MASK i = s.groupMask (ctxPart x) ∧ u.reg .RSQ_TRL_RING i = 0 ∧ u.reg .RSQ_TRL_TICKS i = 0
        ∧ (∀ q ∈ (readImage im).cores, ∀ k, k < 8 → (u.thr q.lcid k).state = .inactive ∧ (u.thr q.lcid k).entry = q.entries.getD k 0
            ∧ (u.thr q.lcid k).ibase = 0 ∧ (u.thr q.lcid k).ibound = q.code.length / 8 ∧ (u.thr q.lcid k).cbase = 0
            ∧ (u.thr q.lcid k).cbound = 2097152)
        ∧ (∀ c, (u.core c).canopy = (s.core c).canopy) ∧ s.Completed u x d 0 0 0 ∧ u.trunk = s.trunk ∧ u.root = s.root)
    ∧ (t.startCheck x d = 0 → (s.inst i).image.scope = 0 →
      (d.isStart false = true → (s.inst i).ringTick e = true → t.startOk i (BitVec.ofNat 384 (beNat ((d.bytes.drop 16).take 48))) = true →
        ∃ u, exec (.trailStart r) s = .next u ∧ u.iState i = 2 ∧ (u.inst i).startAt = e ∧ (u.inst i).origin = e
          ∧ (u.inst i).startBy = (s.sdid, s.opSeq + 1)
          ∧ (u.inst i).startReq = some (d.later x) ∧ (u.inst i).stopAt = none ∧ u.reg .RSQ_TRL_TICKS i = BitVec.ofNat 64 e
          ∧ u.fld RSQ_TRL_CNT.STOP_CAUSE i = 0 ∧ (u.ctx x).started = (s.ctx x).started.tail ∧ (∀ k, k ≠ i → u.inst k = s.inst k)
          ∧ u.cores = s.cores ∧ s.SameBytes u [] ∧ s.SameRegs u [(.RSQ_TRL_STATUS, i), (.RSQ_TRL_CNT, i), (.RSQ_TRL_TICKS, i)])
      ∧ (d.isStart true = true → s.iState i = 3 → (s.inst i).isBoundary e = true → (s.inst i).stopAt = none →
        ∃ u, exec (.trailStop r) s = .next u ∧ u.iState i = 4
          ∧ u.inst i = { s.inst i with stopReqs := (s.inst i).stopReqs ++ [d.later x], stopAt := some (e, 1), stopBy := (s.sdid, s.opSeq + 1) }
          ∧ u.reg .RSQ_TRL_TICKS i = BitVec.ofNat 64 e ∧ (u.ctx x).started = (s.ctx x).started.tail ∧ (∀ k, k ≠ i → u.inst k = s.inst k)
          ∧ u.cores = s.cores ∧ s.SameBytes u [] ∧ s.SameRegs u [(.RSQ_TRL_STATUS, i), (.RSQ_TRL_TICKS, i)]))

/-- R53, R421, R422: SNAPSHOT is held for its tick; at that tick, in its turn among the global operations, the member captures the bytes of the owner's sequences; once the
copy is durable the object holds them and the SNAPSHOT completes. Model's choices: the layout of a snapshot (log 45). -/
def Obligations.Snapshots : Prop :=
  (∀ (r : RingId) (s : State) (d : Desc),
    let x := ringNo r
    let i := s.instOf (ctxPart x)
    let e := d.le 8 8
    s.RingReady x d → d.opcode = 0x0C → d.clean 1 [(8, 8), (0x10, 4)] = true → d.le 0x10 4 < 2 ^ 20 → s.inGroup (ctxPart x) = true →
    (s.inst i).owner = x → s.trailActive i = true → s.now + s.lead (s.inst i).image.scope ≤ e → (s.inst i).isBoundary e = true →
    (s.inst i).image.scope = 0 →
    ∃ u, exec (.snapshot r) s = .next u
      ∧ u.snapsOf i = s.snapsOf i ++ [{ snapId := d.le 0x10 4, e := e, sdid := s.sdid, seq := s.opSeq + 1, done := some (d.later x) }]
      ∧ (∀ k, k ≠ i → u.snapsOf k = s.snapsOf k) ∧ (u.ctx x).started = (s.ctx x).started.tail ∧ u.regs = s.regs ∧ u.insts = s.insts
      ∧ u.cores = s.cores ∧ s.SameBytes u [])
  ∧ ∀ (i : PartId) (s : State) (g : Snap), s.snapsOf i = [g] → g.own = none →
      let x := (s.inst i).owner
      (g.data = none → g.e ≤ s.now → s.opTurn i g.key = true → s.snapCheck x g.snapId = 0 → exec (.snapshotCapture i) s = .next
        (s.setSnaps i [{ g with data := some (s.snapBytes x g.snapId g.e), held := s.snapPages x }]))
      ∧ (∀ bs l o, g.data = some bs → g.done = some l → (s.inst i).image.scope = 0 → s.snapFree = [] → bs.length = 65536 →
          s.findObj (x * 2 ^ 20 + g.snapId) = some o → x < 4096 → g.snapId < 2 ^ 20 → o.ova % 65536 = 0 →
          (s.pte x o.ova).present = true → (s.pte x o.ova).tier = .root → (s.pte x o.ova).big = false → rootBase ≤ (s.pte x o.ova).frame * 65536 →
          (s.ctx l.ring).cq.dev = false → (s.ctx l.ring).adopting = false → (s.ctx l.ring).held = [] → s.ringLive l.ring = true →
          cqUsed (s.ctx l.ring) < (s.ctx l.ring).cq.entries →
          ∃ u, exec (.snapshotCopyEnd i) s = .next u ∧ u.snapsOf i = [] ∧ getBytes u.root ((s.pte x o.ova).frame * 65536) 65536 = bs
            ∧ getBytes u.host (s.hostKey l.ring ((s.ctx l.ring).cq.entryAddr (s.ctx l.ring).cqWritten 32)) 32
                = ({ tag := l.tag, opcode := l.opcode, status := 0, info := 1, result := 65536 } : Compl).bytes
                    ((s.ctx l.ring).cq.phase (s.ctx l.ring).cqWritten) (s.sqHead l.ring) s.now
            ∧ u.trunk = s.trunk ∧ u.cores = s.cores)

/-- R53, R397, R398: MIGRATE is recorded at its source; at E, in its turn among the global operations of its trails, it goes on; at B the destination's context takes the next epoch; at
the source a sequence that has landed leaves the list of those left. Model's choices: the migration messages and phases (log
44). -/
def Obligations.Migration : Prop :=
  (∀ (r : RingId) (s : State) (d : Desc),
    let x := d.le 8 2
    s.RingReady (ringNo r) d → d.opcode = 0x0D → d.clean 1 [(8, 2), (0xA, 1), (0xC, 4), (0x10, 8)] = true → x < 4096 → d.le 0xA 1 ≠ s.sdid →
    s.cLive x = true → s.migOf x = none → s.ownedTrails x = [] →
    s.now + s.lead (if s.boardPeer (d.le 0xA 1) = true then 1 else 2) ≤ d.le 0x10 8 →
    ∃ u g, exec (.migrate r) s = .next u ∧ u.migs = s.migs ++ [g] ∧ g.ctx = x ∧ g.dest = d.le 0xA 1 ∧ g.e = d.le 0x10 8
      ∧ g.d = d.le 0x10 8 + d.le 0xC 4 ∧ g.b = s.migB x g.d ∧ g.phase = 0 ∧ g.done = some (d.later (ringNo r))
      ∧ (u.ctx (ringNo r)).started = (s.ctx (ringNo r)).started.tail ∧ u.regs = s.regs ∧ u.cores = s.cores ∧ u.seqs = s.seqs ∧ s.SameBytes u [])
  ∧ ∀ (x : Fin 4096) (s : State),
      (∀ g, s.migOf x = some g → g.phase = 0 → g.e ≤ s.now → g.refused = false → s.migIns = [] →
        (∀ i ∈ s.ownedTrails x, s.opTurn i (g.e, s.sdid, g.seq) = true) →
        exec (.migrationTick x) s = .next (s.putMig { g with phase := 1 }))
      ∧ (∀ g, s.migOf x = none → (s.ctx x).eq.dev = false → s.migIns = [g] → g.dest = true → g.ctx = x → g.b ≤ s.now → g.past = false →
        ∃ u, exec (.migrateBoundary x) s = .next u ∧ u.migIns = [{ g with past := true }]
          ∧ u.fld VF_CTX_STATUS.EPOCH x = (g.epoch + 1) % 256 ∧ u.cState x = s.cState x
          ∧ (∀ pg, (s.ctx x).pages.find pg ≠ none → ((u.ctx x).pages.get {} pg).epoch = (g.epoch + 1) % 256)
          ∧ u.seqs = s.seqs ∧ u.insts = s.insts ∧ u.cores = s.cores ∧ u.trunk = s.trunk ∧ u.root = s.root)
      ∧ (∀ g (q : Fin 262144), s.migOf x = some g → g.phase = 3 → q.val ∈ g.left → g.left.erase q ≠ [] → s.migIns = [] →
        exec (.migrateSequenceLanded x q) s = .next (s.putMig { g with left := g.left.erase q, moved := g.moved + 1 }))

/-- R427, R431 to R433, R436, R439: an accepted PROFILE_SET resets the partitions that the profile leaves out; once what they
started has completed, they and the stacks left out go dark and the rest keeps running; its end sets the profile. PROFILE_SET
of Watch completes and wipes the device into Watch, which a request over I3C leaves with what it then holds. Model's choices:
what Watch keeps and wipes (log 64). -/
def Obligations.ProfilesAndWatch : Prop :=
  (∀ (s : State) (d : Desc), s.RingReady 4096 d → d.opcode = 0x11 → d.clean 1 [(8, 1)] = true →
    let n := d.le 8 1
    let t := s.modCtx 4096 fun c => { c with started := c.started.tail }
    let quiet := ((t.darkParts n).foldl State.partReset t).partsQuiet (t.darkParts n)
    t.profileRefused n = false →
    (n ≠ 4 → ∃ u j, exec (.profileSet none) s = .next u ∧ u.power.prof = some j ∧ j.profile = n ∧ j.done = some (d.later 4096)
        ∧ j.dark = quiet ∧ u.fld PWR_STATUS.PROFILE 0 = s.fld PWR_STATUS.PROFILE 0
        ∧ (j.dark = true → (∀ st, profStacks n ≤ st → st < 16 → u.fld TRK_STATUS.STATE st = 0)
            ∧ (∀ st, st < profStacks n → u.fld TRK_STATUS.STATE st ≠ 0)
            ∧ (∀ c, c < 512 → s.present (c / 32) = true → profParts n ≤ c / 32 → (u.core c).canopy = [] ∧ (u.core c).cells = [])))
    ∧ (n = 4 → ∃ u, exec (.watchEnter none) s = .next u
        ∧ (quiet = false → (∃ j, u.power.prof = some j ∧ j.profile = 4 ∧ j.dark = false)
            ∧ u.fld PWR_STATUS.PROFILE 0 = s.fld PWR_STATUS.PROFILE 0)
        ∧ (quiet = true → u.fld PWR_STATUS.PROFILE 0 = 4 ∧ u.power.before = s.fld PWR_STATUS.PROFILE 0
            ∧ u.trunk = [] ∧ (∀ c, (u.core c).canopy = [] ∧ (u.core c).cells = [] ∧ (u.core c).istore = [])
            ∧ (∀ x, (u.ctx x).pages = [] ∧ (u.ctx x).objs = []) ∧ u.seqs = [] ∧ u.insts = [] ∧ u.steps = [])))
  ∧ (∀ (s : State) (j : ProfJob), s.power.prof = some j → j.profile ≤ 3 →
      (j.dark = false → s.partsQuiet (s.darkParts j.profile) = false → exec .profileChangeEnd s = .next s)
      ∧ (j.dark = true ∨ s.partsQuiet (s.darkParts j.profile) = true →
          ∃ u, exec .profileChangeEnd s = .next u ∧ u.fld PWR_STATUS.PROFILE 0 = j.profile ∧ u.power.prof = none)
      ∧ (j.dark = true → (∀ t, t < 16 → s.fld RTF_STATUS.STATE t ≠ 1) →
          ∃ u, exec .profileChangeEnd s = .next u ∧ u.cores = s.cores ∧ ∀ st, st < 16 → u.fld TRK_STATUS.STATE st
            = if st < profStacks j.profile ∧ s.fld TRK_STATUS.STATE st = 1 then 2 else s.fld TRK_STATUS.STATE st))
  ∧ ∀ (s : State) (p : Option (Fin 4)), s.running = true → s.mayLeave = true →
      let n := match p with | some k => k.val | none => s.power.before % 16
      ∃ u, exec (.watchExit p) s = .next u ∧ u.fld PWR_STATUS.PROFILE 0 = n ∧ u.fld PWR_STATUS.RESET_CAUSE 0 = 5
        ∧ u.power.wakeLow = true ∧ u.power.perstHigh = false ∧ s.SameBytes u [] ∧ u.cores = s.cores ∧ u.ctxs = s.ctxs
        ∧ u.seqs = s.seqs ∧ u.insts = s.insts
        ∧ (4 ∈ s.power.stages → n ≤ 3 → ∀ st, st < profStacks n → s.fld TRK_STATUS.STATE st = 0 → u.fld TRK_STATUS.STATE st = 1)

/-- R28, R29, R32, R33, R37, R41 to R44, R50, R54, R55: the counter's step and what moves with it, PPS edges and their
absence, the loss of measurements, the estimates and guard bits, TIME frames, the latched read and the margins. Model's
choices: a time-frame's payload and the rounding of estimates (log 48); the instant of a read within its tick is free (log 98). -/
def Obligations.NetworkTimeCounter : Prop :=
  ∀ s : State,
    (∀ off, s.ntu.stepWant = some off → (s.stepBlocked = false ∨ s.ntu.stepFirst = true) → s.evtClass 0xA 0x7 ≠ 2 →
      let d := (-off).fdiv 4000
      ∃ u, exec .ntuStep s = .next u ∧ u.ntu.tick = ((s.ntu.tick : Int) + d).toNat ∧ u.ntu.stepWant = none ∧ u.ntu.elapsed = s.ntu.elapsed
        ∧ u.fld NTU_STATUS.STEP_PENDING 0 = 0 ∧ u.reg .NTU_STEP_DELTA 0 = BitVec.ofInt 64 d ∧ u.fld NTU_EVT.STEPPED 0 = 1
        ∧ (∀ i, s.insts.find i ≠ none → (u.inst i).origin = (((s.inst i).origin : Int) + d).toNat
            ∧ (u.inst i).image = (s.inst i).image ∧ (u.inst i).slips = (s.inst i).slips)
        ∧ (∀ i : PartId, s.iState i = 3 → u.reg .RSQ_TRL_TICKS i = BitVec.ofNat 64 (((s.reg .RSQ_TRL_TICKS i).toNat : Int) + d).toNat)
        ∧ (∀ x, s.ctxs.find x ≠ none → (u.ctx x).started.map (·.arrived) = (s.ctx x).started.map fun q => ((q.arrived : Int) + d).toNat)
        ∧ (∀ k : Nat, k < 16 → (u.stack k).shut = true ∧ (u.tower k).shut = true) ∧ u.ntu.ns = 0
        ∧ u.cores = s.cores ∧ s.SameBytes u [])
    ∧ (∀ frac : Fin 1000, let sec := s.fld NTU_TOD_SET.SEC 0
        (s.tsrc ≠ 4 → exec (.ppsInEdge frac) s = .next ((s.setFld NTU_STATUS.PPS_PRESENT 0 1).modNtu fun n => { n with lastPps := n.elapsed }))
        ∧ (s.tsrc = 4 → s.dState = 2 → sec + 1 < 2 ^ 48 → ∃ u, exec (.ppsInEdge frac) s = .next u
            ∧ u.ntu.offs = ((4 * ((s.ntu.tick * 1000 + frac.val : Nat) - (sec * 1000000000 : Nat) : Int)) :: s.ntu.offs).take 16
            ∧ u.ntu.lastMeas = s.ntu.elapsed ∧ u.ntu.lastPps = s.ntu.elapsed ∧ u.fld NTU_TOD_SET.SEC 0 = sec + 1 ∧ u.dState = 2
            ∧ u.fld NTU_STATUS.PPS_PRESENT 0 = 1 ∧ u = { s with ntu := u.ntu, regs := u.regs } ∧ s.SameRegs u [(.NTU_STATUS, 0), (.NTU_TOD_SET, 0)]))
    ∧ (s.tsrc = 4 → s.dState = 2 → s.ntu.lastPps + 1500000 ≤ s.ntu.elapsed → ∃ u, exec .ppsMissing s = .next u ∧ u.dState = 3
        ∧ u.fld NTU_STATUS.PPS_PRESENT 0 = 0 ∧ u.fld NTU_EVT.PPS_MISSING 0 = 1 ∧ u.fld NTU_EVT.LOCK_LOST 0 = 1
        ∧ u.ntu.hoStart = s.ntu.elapsed ∧ u.ntu.tick = s.ntu.tick ∧ u.cores = s.cores)
    ∧ (s.dState = 2 → s.ntu.lastMeas + 3000000 ≤ s.ntu.elapsed → ∃ u, exec .noValidMeasurement s = .next u ∧ u.dState = 3
        ∧ u.fld NTU_EVT.LOCK_LOST 0 = 1 ∧ u.ntu.hoStart = s.ntu.elapsed ∧ u.cores = s.cores)
    ∧ (∃ u, exec .teUpdate s = .next u ∧ u.ntu = s.ntu ∧ u.dState = s.dState ∧ u.cores = s.cores
        ∧ (s.dState ≤ 1 → u.fld NTU_TE.TE_EST 0 = 2 ^ 32 - 1 ∧ u.fld NTU_TE.TE_PEER 0 = 2 ^ 32 - 1
            ∧ u.fld NTU_STATUS.BOARD_OK 0 = 0 ∧ u.fld NTU_STATUS.SPAN_OK 0 = 0)
        ∧ (s.dState = 2 → 8 ≤ s.tsrc → u.fld NTU_TE.TE_EST 0 = min (2 ^ 32 - 1) (s.ntu.srcTe + 10)
            ∧ u.fld NTU_TE.TE_PEER 0 = min (2 ^ 32 - 1) (10 * (s.ntu.hop + 1)))
        ∧ (2 ≤ s.dState → s.dState ≤ 3 →
            (u.fld NTU_STATUS.BOARD_OK 0 = 1 ↔ u.fld NTU_TE.TE_PEER 0 ≤ s.fld NTU_GUARD.BOARD_GUARD 0)
            ∧ (u.fld NTU_STATUS.SPAN_OK 0 = 1 ↔ u.fld NTU_TE.TE_EST 0 ≤ s.fld NTU_GUARD.SPAN_GUARD 0)))
    ∧ (∀ l : Fin 8, let x := s.link l
        s.fld NTU_CTL.TIME_LEADER 0 = 1 → s.tsrc ≠ 8 + l → s.fld ZXL_LNK_STATUS.STATE l = 4 → x.waiting = [] → 1 ≤ x.credits.getD 0 0 →
        ∃ u f, exec (.timeFrameSend l) s = .next u ∧ u.outs = .frame l f :: s.outs ∧ f.typ = 3 ∧ f.seq = x.txSeq
          ∧ f.hops = (if 8 ≤ s.tsrc then s.ntu.hop + 1 else 0) ∧ f.payload = leBytes (s.fld NTU_TE.TE_EST 0) 4 ++ leBytes s.dState 1
          ∧ (u.link l).txSeq = (x.txSeq + 1) % 4096 ∧ (u.link l).unacked = x.unacked ++ [f] ∧ u = { s with links := u.links, outs := u.outs })
    ∧ (s.fld HIF_STATUS.READY 0 = 1 → ∃ n, (s.ntu.ns < 1000 → s.ntu.ns ≤ n ∧ n < 1000) ∧ exec .ntuTimeLoRead s = .next
        (({ s.setFld NTU_TIME_HI.SEC_HI 0 (s.ntu.tick / 1000000 / 2 ^ 32) with ntu := { s.ntu with ns := n }, freeCnt := s.freeCnt + 1 } : State).send
          (.readValue (BitVec.ofNat 64 (s.ntu.tick / 1000000 % 2 ^ 32 * 2 ^ 32 + s.ntu.tick % 1000000 * 1000 + n)))))
    ∧ (s.fld HIF_STATUS.READY 0 ≠ 1 → exec .ntuTimeLoRead s = .next (s.send (.readValue (onesOf 8))))
    ∧ (∃ u, exec .marginRst s = .next u ∧ u.fld NTU_MARGIN.SPAN_MIN 0 = 0xFFFFFFFF ∧ u.fld NTU_MARGIN.BOARD_MIN 0 = 0xFFFFFFFF
        ∧ u = { s with regs := u.regs } ∧ s.SameRegs u [(.NTU_MARGIN, 0)])

/-- R34 to R36, R41: locking to a reference, its loss and return; messages of another domain or transport are ignored; Announce
messages and their absence choose the master; a Sync whose send time is known, by itself or by its Follow_Up, sends a
Delay_Req, whose Delay_Resp gives one measurement. Model's choices: the measurement exchange (log 48). -/
def Obligations.NetworkTimeSources : Prop :=
  ∀ s : State,
    (s.dState = 0 → s.tsrc ≠ 0 → s.fld NTU_CTL.FSRC 0 ≠ 0 → s.fld NTU_CTL.FSRC 0 < 4 → s.fld NTU_STATUS.REF_PRESENT 0 = 1 →
      ∃ u, exec .pllLock s = .next u ∧ u.ntu.pllLocked = true ∧ u.dState = 1 ∧ u.fld NTU_STATUS.FSRC_ACTIVE 0 = s.fld NTU_CTL.FSRC 0
        ∧ u.ntu.tick = s.ntu.tick ∧ u.cores = s.cores)
    ∧ (s.fld NTU_CTL.FSRC 0 ≠ 0 → s.dState ≠ 3 → s.evtClass 0xA 0x7 ≠ 2 →
        ∃ u, exec .refLost s = .next u ∧ u.fld NTU_STATUS.REF_PRESENT 0 = 0 ∧ u.fld NTU_STATUS.FSRC_ACTIVE 0 = 0
          ∧ u.fld NTU_EVT.REF_LOST 0 = 1 ∧ u.dState = s.dState ∧ u.cores = s.cores
          ∧ u.ntu = { s.ntu with refs := listSet s.ntu.refs (s.fld NTU_CTL.FSRC 0 - 1) (some false) })
    ∧ (s.fld NTU_CTL.FSRC 0 ≠ 0 → s.fld NTU_CTL.FSRC 0 < 4 → s.dState ≠ 3 → s.ntu.pllLocked = true →
        ∃ u, exec .refReturn s = .next u ∧ u.fld NTU_STATUS.REF_PRESENT 0 = 1 ∧ u.fld NTU_STATUS.FSRC_ACTIVE 0 = s.fld NTU_CTL.FSRC 0
          ∧ u = { s with regs := u.regs, ntu := { s.ntu with refs := listSet s.ntu.refs (s.fld NTU_CTL.FSRC 0 - 1) (some true) } }
          ∧ s.SameRegs u [(.NTU_STATUS, 0)])
    ∧ (∀ (port : Fin 2) (h : PtpHdr) (rank : Nat), s.ntu.ranks.length = 2 →
        (s.ptpMine h = false → exec (.ptpAnnounce port h rank) s = .next s)
        ∧ (s.ptpMine h = true → s.evtClass 0xA 0x7 ≠ 2 →
          ∃ u, exec (.ptpAnnounce port h rank) s = .next u ∧ u.ntu.ranks = listSet s.ntu.ranks port (some rank)
            ∧ u.fld NTU_STATUS.PTP_MASTER_SEEN 0 = 1 ∧ u.dState = s.dState ∧ u.cores = s.cores
            ∧ (s.tsrc = 3 → ∀ other, s.ntu.ranks.getD (1 - port.val) none = some other → rank < other →
                u.fld NTU_STATUS.TSRC_ACTIVE 0 = port.val + 1)
            ∧ (s.tsrc = 3 → s.ntu.ranks.getD (1 - port.val) none = none → u.fld NTU_STATUS.TSRC_ACTIVE 0 = port.val + 1)
            ∧ (s.tsrc ≠ 3 → u.fld NTU_STATUS.TSRC_ACTIVE 0 = s.fld NTU_STATUS.TSRC_ACTIVE 0))
        ∧ (s.ntu.lastAnn.getD port 0 + 3000000 ≤ s.ntu.elapsed → s.ntu.ranks.getD (1 - port.val) none = none →
          ∃ u, exec (.announceTimeout port) s = .next u ∧ u.ntu.ranks = listSet s.ntu.ranks port none
            ∧ u.fld NTU_STATUS.PTP_MASTER_SEEN 0 = 0 ∧ u = { s with ntu := u.ntu, regs := u.regs } ∧ s.SameRegs u [(.NTU_STATUS, 0)]))
    ∧ ∀ (port : Fin 2) (h : PtpHdr) (corr : Int), let x := s.ntu.ex.getD port {}
        (s.ptpMine h = (decide (h.domain.toNat = s.fld NTU_PTP_CFG.DOMAIN 0)
          && decide (h.transport.toNat = if s.fld NTU_PTP_CFG.PROFILE 0 = 1 then 0 else s.fld NTU_PTP_CFG.TRANSPORT 0)))
        ∧ (∀ t1 t2 : Int, let new : PtpEx := { seq := h.seq.toNat, waitFollow := true, t1 := t1, corr := corr, t2 := t2, reqSeq := x.reqSeq }
            exec (.ptpSync port h true t1 corr t2) s = .next (if s.ptpMine h then s.setEx port new else s)
            ∧ exec (.ptpSync port h false t1 corr t2) s = .next (if s.ptpMine h then s.askDelay port { new with waitFollow := false } else s))
        ∧ (∀ t1 : Int, exec (.ptpFollowUp port h t1 corr) s = .next
            (if s.ptpMine h ∧ x.waitFollow = true ∧ x.seq = h.seq.toNat then s.askDelay port { x with t1 := t1, corr := x.corr + corr } else s))
        ∧ (∀ y : PtpEx, let n := (y.reqSeq + 1) % 65536
            s.askDelay port y = (s.setEx port { y with waitFollow := false, haveSync := true, asked := true, reqSeq := n }).send (.delayReq port n))
        ∧ (∀ t3 t4 : Int, (s.ptpMine h = false ∨ x.asked = false ∨ h.seq.toNat ≠ x.reqSeq → exec (.ptpDelayResp port h t3 t4 corr) s = .next s)
          ∧ (s.ptpMine h = true → x.asked = true → x.haveSync = true → h.seq.toNat = x.reqSeq → s.tsrc = port.val + 1 →
              s.fld NTU_STATUS.TSRC_ACTIVE 0 = port.val + 1 → s.dState = 2 → s.ntu.acquired = true →
            ∃ u, exec (.ptpDelayResp port h t3 t4 corr) s = .next u
              ∧ u.ntu.offs = (((x.t2 - x.t1 - x.corr) - (t4 - t3 - corr) - signedOf (s.fld NTU_PTP_CFG.DELAY_ASYM 0) 32) :: s.ntu.offs).take 16
              ∧ u.ntu.lastMeas = s.ntu.elapsed ∧ u.dState = 2 ∧ u = { s with ntu := u.ntu, regs := u.regs } ∧ s.SameRegs u [(.NTU_STATUS, 0)]))

/-- R50: a write of NTU_LEAD or NTU_GUARD takes effect where L × 1,000 ≥ 2 × G + 1,000 holds for both pairs with the value
written, and where it does not the write changes nothing. -/
def Obligations.LeadAndGuardLimits : Prop :=
  ∀ (s : State) (v : Word),
    (let ok := 2 * s.fld NTU_GUARD.BOARD_GUARD 0 + 1000 ≤ NTU_LEAD.BOARD_LEAD.of v * 1000
      ∧ 2 * s.fld NTU_GUARD.SPAN_GUARD 0 + 1000 ≤ NTU_LEAD.SPAN_LEAD.of v * 1000
     (ok → ∃ u, exec (.ntuLeadWrite v) s = .next u ∧ u.fld NTU_LEAD.BOARD_LEAD 0 = NTU_LEAD.BOARD_LEAD.of v
        ∧ u.fld NTU_LEAD.SPAN_LEAD 0 = NTU_LEAD.SPAN_LEAD.of v ∧ u = { s with regs := u.regs } ∧ s.SameRegs u [(.NTU_LEAD, 0)])
     ∧ (¬ ok → exec (.ntuLeadWrite v) s = .next s))
    ∧ (let ok := 2 * NTU_GUARD.BOARD_GUARD.of v + 1000 ≤ s.fld NTU_LEAD.BOARD_LEAD 0 * 1000
        ∧ 2 * NTU_GUARD.SPAN_GUARD.of v + 1000 ≤ s.fld NTU_LEAD.SPAN_LEAD 0 * 1000
       (ok → ∃ u, exec (.ntuGuardWrite v) s = .next u ∧ u.fld NTU_GUARD.BOARD_GUARD 0 = NTU_GUARD.BOARD_GUARD.of v
          ∧ u.fld NTU_GUARD.SPAN_GUARD 0 = NTU_GUARD.SPAN_GUARD.of v ∧ u.cores = s.cores)
       ∧ (¬ ok → exec (.ntuGuardWrite v) s = .next s))

/-- R6 to R10, R19, R358: a 64-bit host write of a plain register of PF0: each field takes the value by its access type and
nothing else changes; an access of another size or alignment is counted and changes nothing; before READY nothing is
written. A read returns each field's value, 0 in write-only fields, reserved bits and unoccupied offsets, and a half of it in
a 32-bit read; one of another size or alignment, and before READY one of another register than three of PF0, returns all
ones. Model's choice: a read is a function, a command of the table only for two registers (log 99). -/
def Obligations.HostRegisterWrites : Prop :=
  ∀ (s : State) (offset size : Nat) (v : Word),
    (s.fld HIF_STATUS.READY 0 = 1 → ∀ (fn : Fn) (bar : Nat),
      ((size ≠ 4 ∧ size ≠ 8) ∨ offset % size ≠ 0 → s.hostRead fn bar offset size = (onesOf size, s.inc HIF_STATUS.BAD_ACCESS 0))
      ∧ (bar ≠ 0 → (size = 4 ∨ size = 8) → offset % size = 0 → s.hostRead fn bar offset size = (0, s))
      ∧ (∀ r i, (size = 4 ∨ size = 8) → offset % size = 0 → s.regAt fn (offset / 8 * 8) = some (r, i) → ¬ (fn = .pf0 ∧ offset / 8 * 8 = 0x100010) →
          ¬ (fn = .pf0 ∧ (0x310000 ≤ offset ∧ offset < 0x320000 ∨ 0x410000 ≤ offset ∧ offset < 0x420000)) →
          (s.hostRead fn 0 offset size).2 = s
          ∧ (s.hostRead fn 0 offset size).1.toNat = (s.readReg r i).toNat / 2 ^ (8 * (offset % 8)) % 2 ^ (8 * size)
          ∧ ∀ row ∈ r.rows, let f : Fld := ⟨r, row.hi, row.lo⟩; f.of (s.readReg r i) = if row.acc = .wo then 0 else f.of (s.regNow r i))
      ∧ (s.regAt fn (offset / 8 * 8) = none → (size = 4 ∨ size = 8) → offset % size = 0 →
          ¬ (fn = .pf0 ∧ (0x310000 ≤ offset ∧ offset < 0x320000 ∨ 0x410000 ≤ offset ∧ offset < 0x420000)) → (s.hostRead fn 0 offset size).1 = 0))
    ∧ (s.fld HIF_STATUS.READY 0 ≠ 1 → (offset / 8 * 8 ∉ earlyRegs → ∀ (fn : Fn) (bar : Nat), s.hostRead fn bar offset size = (onesOf size, s))
        ∧ (s.hostRead .pf0 0 0 8).1 = s.readReg .HUB_ID 0)
    ∧ (∀ (fn : Fn) (bar : Fin 6), s.fld HIF_STATUS.READY 0 ≠ 1 → exec (.regWrite fn bar offset size v) s = .next s)
    ∧ (∀ (fn : Fn) (bar : Fin 6), s.fld HIF_STATUS.READY 0 = 1 → ((size ≠ 4 ∧ size ≠ 8) ∨ offset % size ≠ 0) →
        exec (.regWrite fn bar offset size v) s = .next (s.inc HIF_STATUS.BAD_ACCESS 0))
    ∧ (∀ r i, s.fld HIF_STATUS.READY 0 = 1 → offset % 8 = 0 → s.regAt .pf0 offset = some (r, i) →
        r ∈ [RegId.NTU_SERVO, .NTU_PTP_CFG, .NTU_TOD_SET, .NTU_ZX_ASYM, .NTU_EVT, .PRT_RADD_STATUS, .PRT_XL_LOOKUP, .PRT_CNP_ECC, .PRT_OUT_CNT,
             .TRK_ECC, .RTF_READ, .PRT_KV_CNT, .FLT_SEV_SEL, .FLT_LEAK, .FLT_ROUTE, .FLT_INJ_TGT, .FLT_INJ_ADDR, .FLT_INJ_MASK, .FLT_CTL,
             .ETH_QP_SEL, .ETH_QP_GID_LO, .ETH_QP_GID_HI, .ZXL_MIG_IN, .ZXL_MIG_MAP, .HUB_ID, .HUB_CAP_RES, .RSQ_TRL_STATUS, .PWR_CNT] →
        ∃ u, exec (.regWrite .pf0 0 offset 8 v) s = .next u ∧ u = { s with regs := u.regs } ∧ s.SameRegs u [(r, i)]
          ∧ ∀ row ∈ r.rows, let f : Fld := ⟨r, row.hi, row.lo⟩
              u.fld f i = match row.acc with
                | .rw => if reservedEnc r row.lo (f.of v) then s.fld f i else f.of v
                | .rw1c => if f.of v = 1 then 0 else s.fld f i
                | _ => s.fld f i)

/-- R90, R231, R262, R282, R285, R291, R306, R322, R332, R395, R404: the writes of thread-slot bounds, buckets, staging
areas, regulators, grants, clasp budgets, event classes and the span, where they take effect, and the read of PRT_XL_PTE. -/
def Obligations.RegistersWithRules : Prop :=
  ∀ (s : State) (p q : PartId) (v : Word),
    let only := fun (u : State) (r : RegId) (i : Nat) => u = { s with regs := u.regs } ∧ s.SameRegs u [(r, i)]
    (∀ (c : Lcid) (t : TSlot), s.lockOpen (c / 32) = true →
      (PRT_TBB_I.IBASE.of v + PRT_TBB_I.IBOUND.of v ≤ 16384 → exec (.prtTbbWrite c t false v) s = .next
        (s.setThr c t { s.thr c t with ibase := PRT_TBB_I.IBASE.of v, ibound := PRT_TBB_I.IBOUND.of v }))
      ∧ (PRT_TBB_C.CBASE.of v + PRT_TBB_C.CBOUND.of v ≤ 2097152 → PRT_TBB_C.CBASE.of v % 64 = 0 → PRT_TBB_C.CBOUND.of v % 64 = 0 →
          exec (.prtTbbWrite c t true v) s = .next
            (s.setThr c t { s.thr c t with cbase := PRT_TBB_C.CBASE.of v, cbound := PRT_TBB_C.CBOUND.of v })))
    ∧ (∀ (c : Lcid) (t : TSlot) (canopy : Bool), s.lockOpen (c / 32) = false → exec (.prtTbbWrite c t canopy v) s = .next (s.lockEvent (c / 32)))
    ∧ (∀ b : Fin 16, s.lockOpen p = true →
        (∀ k, k + 1 < s.fld PRT_KV_CFG.BKT_COUNT p →
          (if k = b.val then PRT_KV_BKT.BOUND.of v else s.fld PRT_KV_BKT.BOUND (p * 16 + k))
            < (if k + 1 = b.val then PRT_KV_BKT.BOUND.of v else s.fld PRT_KV_BKT.BOUND (p * 16 + (k + 1)))) →
        ∃ u, exec (.prtKvBktWrite p b v) s = .next u ∧ only u .PRT_KV_BKT (p * 16 + b) ∧ u.fld PRT_KV_BKT.CAP (p * 16 + b) = PRT_KV_BKT.CAP.of v
          ∧ u.fld PRT_KV_BKT.BOUND (p * 16 + b) = PRT_KV_BKT.BOUND.of v)
    ∧ (s.lockOpen p = true → PRT_XL_CFG.STAGE_MIB.of v ≤ 32768 → ∃ u, exec (.prtXlCfgWrite p v) s = .next u
        ∧ u.fld PRT_XL_CFG.STAGE_MIB p = PRT_XL_CFG.STAGE_MIB.of v ∧ s.SameRegs u [(.PRT_XL_CFG, p)] ∧ u.cores = s.cores ∧ s.SameBytes u [])
    ∧ (let e := s.pte (p * 256 + s.fld PRT_XL_LOOKUP.CTX_LOCAL p) (s.fld PRT_XL_LOOKUP.OVA_PAGE p * 65536)
       (s.fld HIF_STATUS.READY 0 = 1 → exec (.prtXlPteRead p) s = .next (s.send (.readValue (if e.present then e.word else 0))))
       ∧ (s.fld HIF_STATUS.READY 0 ≠ 1 → exec (.prtXlPteRead p) s = .next (s.send (.readValue (onesOf 8)))))
    ∧ ((((List.range 16).filter (· ≠ q.val)).map fun k => s.fld TRK_REG.SHARE (p * 16 + k)).sum + TRK_REG.SHARE.of v ≤ 2240 →
        (s.stack p).regNow.find q = none →
        ∃ u, exec (.trkRegWrite p q v) s = .next u ∧ u.fld TRK_REG.SHARE (p * 16 + q) = TRK_REG.SHARE.of v
          ∧ u.fld TRK_REG.DEPTH (p * 16 + q) = TRK_REG.DEPTH.of v ∧ u.trkReg p q = s.reg .TRK_REG (p * 16 + q)
          ∧ u = { s with regs := u.regs, hbm := u.hbm } ∧ s.SameRegs u [(.TRK_REG, p * 16 + q)])
    ∧ ((((List.range 16).filter (· ≠ q.val)).map fun k => s.fld RTF_SLOT.SLOTS (p * 16 + k)).sum + RTF_SLOT.SLOTS.of v
          ≤ (if s.fld PWR_STATUS.PROFILE 0 = 3 then 24 else 100) →
        ∃ u, exec (.rtfSlotWrite p q v) s = .next u ∧ u.fld RTF_SLOT.SLOTS (p * 16 + q) = RTF_SLOT.SLOTS.of v
          ∧ u = { s with regs := u.regs, towers := u.towers } ∧ s.SameRegs u [(.RTF_SLOT, p * 16 + q)])
    ∧ ((((List.range 16).filter (· ≠ q.val)).map fun k => s.fld PRT_CLP_BUD.BUDGET (p * 16 + k)).sum + PRT_CLP_BUD.BUDGET.of v ≤ 8192 →
        ∃ u, exec (.prtClpBudWrite p q v) s = .next u ∧ u.fld PRT_CLP_BUD.BUDGET (p * 16 + q) = PRT_CLP_BUD.BUDGET.of v
          ∧ only u .PRT_CLP_BUD (p * 16 + q))
    ∧ (let e := s.fld FLT_SEV_SEL.EVT 0
       let i := s.fld FLT_SEV_SEL.SCLASS 0 * 16 + e
       (FLT_SEV_CFG.SEV.of v ≤ 2 → (evtDefault e ≤ FLT_SEV_CFG.SEV.of v ∨ evtDemotable e = true) →
          ∃ u, exec (.fltSevCfgWrite v) s = .next u ∧ u.fld FLT_SEV_CFG.SEV i = FLT_SEV_CFG.SEV.of v ∧ only u .FLT_SEV_CFG i)
       ∧ (FLT_SEV_CFG.SEV.of v < evtDefault e → evtDemotable e = false → exec (.fltSevCfgWrite v) s = .next s))
    ∧ ((∀ k, k < 16 → (s.inst k).image.scope = 2 → s.trailActive k = false) → ∃ u, exec (.zxlSpanWrite v) s = .next u
        ∧ u.fld ZXL_SPAN.VALID 0 = ZXL_SPAN.VALID.of v ∧ u.fld ZXL_SPAN.SPAN_ID 0 = ZXL_SPAN.SPAN_ID.of v
        ∧ u.fld ZXL_SPAN.SDID 0 = ZXL_SPAN.SDID.of v ∧ only u .ZXL_SPAN 0)

/-- R384, R386 to R388, R420: IDLE, CREDIT, ACK and NAK of an active link, in sequence and undamaged: nothing, credits gained,
frames acknowledged, frames sent again. A damaged frame, or one that an injected error makes uncorrectable, asks for a replay.
Model's choices: control frames carry the next sequence number and take no credit (log 40). -/
def Obligations.LinkFrames : Prop :=
  ∀ (f : FrameIn) (s : State),
    let l := f.link.val
    let x := s.link l
    s.fld ZXL_LNK_STATUS.STATE l = 4 →
    ((s.fecHit 0x70 l).1 = some true → ∀ i ∈ [Instr.idle f, .credit f, .ack f, .nak f],
        exec i s = .next (((s.fecHit 0x70 l).2.inc ZXL_LNK_CNT.FEC_UNCORR l).send
          (.frame l { typ := 2, vc := 3, dst := 0xFF, arg := x.rxSeq + 4096, seq := x.txSeq })))
    ∧ (s.NoInjection → f.crcOk = false → ∀ i ∈ [Instr.idle f, .credit f, .ack f, .nak f],
        exec i s = .next (s.send (.frame l { typ := 2, vc := 3, dst := 0xFF, arg := x.rxSeq + 4096, seq := x.txSeq })))
    ∧ (s.NoInjection → f.crcOk = true → f.seq.toNat = x.rxSeq → x.rxSeq < 4096 →
        exec (.idle f) s = .next s
        ∧ (x.waiting = [] → ∃ u, exec (.credit f) s = .next u ∧ u = { s with links := u.links } ∧ (∀ k, k ≠ l → u.link k = s.link k)
            ∧ u.link l = { x with credits := x.credits.mapIdx fun i c => c + f.arg.toNat / 2 ^ (16 * i) % 65536 })
        ∧ (∃ u, exec (.ack f) s = .next u ∧ u = { s with links := u.links } ∧ (∀ k, k ≠ l → u.link k = s.link k)
            ∧ (u.link l).unacked = x.unacked.filter fun g => (f.arg.toNat % 4096 + 4096 - g.seq) % 4096 ≥ 2048)
        ∧ (let left := x.unacked.filter fun g => ((f.arg.toNat + 4095) % 4096 + 4096 - g.seq) % 4096 ≥ 2048
           left ≠ [] → left = x.unacked → x.replays < 3 →
            ∃ u, exec (.nak f) s = .next u ∧ u.outs = (left.map fun g => Out.frame l g).reverse ++ s.outs
              ∧ u.link l = { x with replays := x.replays + 1 }
              ∧ u.fld ZXL_LNK_CNT.REPLAYS l = min ZXL_LNK_CNT.REPLAYS.max (s.fld ZXL_LNK_CNT.REPLAYS l + left.length)
              ∧ u = { s with links := u.links, outs := u.outs, regs := u.regs } ∧ s.SameRegs u [(.ZXL_LNK_CNT, l)]))

/-- R38, R52, R53, R75, R386 to R389, R406, R415, R438: each frame of a virtual channel that arrives in sequence is acknowledged
and does its work; one already delivered is only acknowledged again, one ahead of the sequence asks for a replay. A stop or slip
that is not late is kept with its issuer and number. Model's choices: acknowledgement, credits and the transfer of frames (log
40, 43); the instant of arrival within a tick is free (log 98). -/
def Obligations.SequencedFrames : Prop :=
  ∀ (f : FrameIn) (t : TimeInfo) (m : CtrlMsg) (r : PeerFault) (s : State),
    let l := f.link.val
    let x := s.link l
    let all := [Instr.time f t, .write f, .addF f, .addI f, .resp f, .tile f, .ctrl f m, .fault f r, .frameReservedType f]
    let d := (f.seq.toNat + 4096 - x.rxSeq) % 4096
    s.fld ZXL_LNK_STATUS.STATE l = 4 → f.crcOk = true → x.rxSeq < 4096 → s.NoInjection →
    (2048 ≤ d → ∀ i ∈ all, exec i s = .next (s.sendCtl l 2 ((x.rxSeq + 4095) % 4096)))
    ∧ (0 < d → d < 2048 → ∀ i ∈ all, exec i s = .next (s.sendCtl l 2 (x.rxSeq + 4096)))
    ∧ (d = 0 →
        let taken := fun u : State => (u.link l).rxSeq = (x.rxSeq + 1) % 4096 ∧ ∃ more, u.outs = more
          ++ [Out.frame l { typ := 1, vc := 3, dst := 0xFF, arg := max 1 ((f.payload.length + 63) / 64) * 2 ^ (16 * (f.vc.toNat % 3)), seq := x.txSeq },
              Out.frame l { typ := 2, vc := 3, dst := 0xFF, arg := x.rxSeq, seq := x.txSeq }] ++ s.outs
        (∃ u, exec (.frameReservedType f) s = .next u ∧ taken u ∧ u.fld ZXL_LNK_CNT.FEC_UNCORR l = min ZXL_LNK_CNT.FEC_UNCORR.max (s.fld ZXL_LNK_CNT.FEC_UNCORR l + 1)
            ∧ u = { s with links := u.links, outs := u.outs, regs := u.regs } ∧ s.SameRegs u [(.ZXL_LNK_CNT, l)])
        ∧ (s.tsrc = 8 + l → f.hops.toNat < 7 → (t.state = 2 ∨ t.state = 3) → s.dState = 2 → s.ntu.acquired = true →
            ∃ u, exec (.time f t) s = .next u ∧ taken u ∧ u.ntu.hop = f.hops.toNat ∧ u.ntu.srcTe = t.te.toNat ∧ u.ntu.lastMeas = s.ntu.elapsed
              ∧ u.ntu.offs = (((t.t2 - t.t1) - (t.t4 - t.t3) - signedOf ((s.reg .NTU_ZX_ASYM 0).toNat / 2 ^ (8 * l)) 8).fdiv 2 :: s.ntu.offs).take 16
              ∧ u.cores = s.cores ∧ s.SameBytes u [] ∧ s.SameRegs u [(.NTU_STATUS, 0)])
        ∧ (∀ i, s.frameInst f.src.toNat f.dst.toNat = some i → s.memberIdx i = f.dst.toNat →
            -- a transfer of one block to a Trunk page of the trail's owner
            (let ova := f.arg.toNat % 2 ^ 48
             let e := s.pte (s.inst i).owner ova
             let at_ := e.dpa ova
             let lands := fun (o : Host.Outcome State Fault Refusal) (bs : Nat → Nat) => ∃ u, o = .next u ∧ taken u
               ∧ (∀ j, j < 16 → leNat (getBytes u.trunk (at_ + 4 * j) 4) = bs j)
               ∧ (∀ a, a < at_ ∨ at_ + 64 ≤ a → getByte u.trunk a = getByte s.trunk a) ∧ u.root = s.root ∧ u.host = s.host ∧ u.rx = []
               ∧ u.cores = s.cores
             let old := fun j : Nat => BitVec.ofNat 32 (leNat (getBytes s.trunk (at_ + 4 * j) 4))
             let new := fun j : Nat => BitVec.ofNat 32 (leNat ((f.payload.drop (4 * j)).take 4))
             f.arg.getLsbD 63 = true → f.land = false → f.payload.length = 64 → ova % 64 = 0 → f.last = true → s.rx = [] → e.present = true →
             e.w = true → e.mig = false → e.epoch = f.epoch.toNat → e.tier = .trunk → at_ < 0x10000000000 → s.mustCheck at_ 64 = false →
             s.claspOn (s.inst i).owner ova 64 = false →
             lands (exec (.write f) s) (fun j => (new j).toNat)
             ∧ lands (exec (.addF f) s) (fun j => (f32add (old j) (new j)).toNat)
             ∧ lands (exec (.addI f) s) (fun j => (old j + new j).toNat))
            ∧ (∀ o : Op, let c := f.arg.toNat / 256 % 2 ^ 32 / 2 ^ 23
               f.arg.toNat % 256 = 0 → o.flag = none → o.adm = none →
               (s.core c).ops.find? (fun o => o.remote ∧ o.id % 2 ^ 23 = f.arg.toNat / 256 % 2 ^ 32 % 2 ^ 23) = some o →
               ∃ u, exec (.resp f) s = .next u ∧ taken u ∧ (∀ q ∈ (u.core c).ops, q.id ≠ o.id) ∧ (u.core c).threads = (s.core c).threads
                 ∧ (u.core c).cells = (s.core c).cells ∧ s.SameCores u c ∧ s.SameBytes u [c])
            ∧ (∀ ctx, let c := wbits f.arg 8 0
               let cell := s.cell c (wbits f.arg 19 9)
               let at_ := cell.base + wbits f.arg 47 24
               f.arg.getLsbD 63 = false → s.boundCtx c = some ctx → s.fld VF_CTX_STATUS.EPOCH ctx = f.epoch.toNat → cell.full = false →
               cell.claimed = false → cell.size ≠ 0 → f.payload.length = 64 → wbits f.arg 47 24 + 64 ≤ cell.size → at_ % 64 = 0 → s.NoHeld c →
               ∃ u, exec (.tile f) s = .next u ∧ taken u ∧ getBytes (u.core c).canopy at_ 64 = f.payload
                 ∧ (∀ a, a < at_ ∨ at_ + 64 ≤ a → getByte (u.core c).canopy a = getByte (s.core c).canopy a)
                 ∧ u.cell c (wbits f.arg 19 9) = { cell with full := f.last } ∧ (u.core c).threads = (s.core c).threads
                 ∧ s.SameCores u c ∧ s.SameBytes u [c])
            ∧ (r.retired = true → f.src.toNat ∉ (s.inst i).retired → f.src.toNat < (s.inst i).image.members.length → s.trailActive i = true →
               ∃ u, exec (.fault f r) s = .next u ∧ taken u
                 ∧ (r.flags.toNat % 4 ≠ 2 → (u.inst i).retired = f.src.toNat :: (s.inst i).retired ∧ u.rx = s.rx ∧ u.cores = s.cores ∧ s.SameBytes u [])
                 ∧ (r.flags.toNat % 4 = 2 → ∀ y ∈ u.rx, y.src ≠ f.src.toNat ∨ y.inst ≠ i)))
        ∧ (∀ (trail : Word) (i e : Nat) (cause issuer slot : BitVec 8) (n : Nat), f.dst = 0xFF → s.trailsOf trail.toNat = [i] →
            (m = .heartbeat trail slot → ∃ u, exec (.ctrl f m) s = .next u ∧ taken u ∧ (u.inst i).missed.get 0 slot.toNat = 0
              ∧ (∀ k, k ≠ slot.toNat → (u.inst i).missed.get 0 k = (s.inst i).missed.get 0 k) ∧ u.regs = s.regs ∧ u.cores = s.cores)
            ∧ (m = .trailStop trail e cause issuer n → s.ntu.ns < 1000 → s.ntu.tick + 2 ≤ e → s.iState i = 3 → (s.inst i).stopAt = none →
              ∃ u, exec (.ctrl f m) s = .next u ∧ taken u ∧ u.iState i = 4 ∧ (u.inst i).stopAt = some (e, cause.toNat)
                ∧ (u.inst i).stopBy = (issuer.toNat, n)
                ∧ u.reg .RSQ_TRL_TICKS i = BitVec.ofNat 64 e ∧ u.cores = s.cores)
            ∧ (m = .slip trail e slot issuer n → s.ntu.ns < 1000 → s.ntu.tick + 2 ≤ e → (s.inst i).slipAt = none →
              ∃ u, exec (.ctrl f m) s = .next u ∧ taken u ∧ u.cores = s.cores
                ∧ u.inst i = { s.inst i with slipAt := some (e, slot.toNat), slipBy := (issuer.toNat, n) })))

/-- R18, R384, R385, R386, R391, R392: the states of a link: enabled, a peer detected, capabilities exchanged, active,
retraining, failed; lanes retired; the address a device is given. Model's choices: ENUM_IN is taken as asserted (log 46);
lanes and spares (log 42). -/
def Obligations.LinkStates : Prop :=
  ∀ (l : Fin 8) (s : State),
    let st := s.fld ZXL_LNK_STATUS.STATE l
    let only := fun u : State => u = { s with regs := u.regs } ∧ s.SameRegs u [(.ZXL_LNK_STATUS, l)]
    (s.fld ZXL_LNK_CTL.EN l = 0 → ∃ u, exec (.linkEnable l true) s = .next u ∧ u.fld ZXL_LNK_STATUS.STATE l = 1 ∧ u.fld ZXL_LNK_CTL.EN l = 1
        ∧ u = { s with regs := u.regs } ∧ s.SameRegs u [(.ZXL_LNK_STATUS, l), (.ZXL_LNK_CTL, l)])
    ∧ (st = 1 → s.fld ZXL_LNK_CTL.EN l = 1 → s.fld ZXL_BOARD.ENUM_DONE 0 = 1 →
        ∃ u, exec (.peerDetected l) s = .next u ∧ u.fld ZXL_LNK_STATUS.STATE l = 2 ∧ only u)
    ∧ (∀ (f : FrameIn) (caps : LinkCaps), f.link = l → f.crcOk = true → (st = 2 ∨ st = 3) →
        ∃ u o, exec (.train f caps) s = .next u ∧ u.fld ZXL_LNK_STATUS.STATE l = 3 ∧ (u.link l).caps = some caps
          ∧ u.fld ZXL_LNK_STATUS.PEER_BOARD l = caps.board.toNat ∧ u.fld ZXL_LNK_STATUS.PEER_BDID l = caps.bdid.toNat
          ∧ u.outs = .frame l o :: s.outs ∧ o.typ = 0x0B ∧ u.cores = s.cores ∧ s.SameRegs u [(.ZXL_LNK_STATUS, l)])
    ∧ (∀ caps, st = 3 → (s.link l).caps = some caps → (s.link l).waiting = [] → s.cableOk l caps = true →
        caps.versions.toNat &&& s.fld ZXL_CAP.ZXP_VERSIONS 0 ≠ 0 → caps.goodLanes = 511 → s.fld ZXL_LNK_STATUS.RETIRED l = 0 → (s.link l).spareFor = none →
        ∃ u, exec (.linkActive l) s = .next u ∧ u.fld ZXL_LNK_STATUS.STATE l = 4 ∧ u.fld ZXL_LNK_STATUS.WIDTH l = 8
          ∧ u.fld ZXL_LNK_STATUS.ZXP_VER l = topBit (caps.versions.toNat &&& s.fld ZXL_CAP.ZXP_VERSIONS 0)
          ∧ (u.link l).credits = [caps.cr0, caps.cr1, caps.cr2] ∧ (u.link l).txSeq = 0 ∧ (u.link l).rxSeq = 0 ∧ (u.link l).unacked = []
          ∧ u.cores = s.cores ∧ s.SameRegs u [(.ZXL_LNK_STATUS, l)])
    ∧ (st = 5 → (s.link l).waiting = [] → ∃ u, exec (.linkActive l) s = .next u ∧ u.fld ZXL_LNK_STATUS.STATE l = 4
        ∧ u.outs = ((s.link l).unacked.map fun g => Out.frame l g).reverse ++ s.outs ∧ u.link l = { s.link l with replays := 0 }
        ∧ u.cores = s.cores ∧ s.SameRegs u [(.ZXL_LNK_STATUS, l)])
    ∧ (st = 5 → (s.link l).since + 10000 ≤ s.ntu.elapsed → ∃ u, exec (.retrainTimeout l) s = .next u
        ∧ u.fld ZXL_LNK_STATUS.STATE l = 6 ∧ u.fld ZXL_LNK_STATUS.WIDTH l = 0 ∧ u.cores = s.cores)
    ∧ (∀ lane : Fin 9, lane.val < 8 → s.fld ZXL_LNK_STATUS.RETIRED l = 0 → (s.link l).spareFor = none → st = 4 → s.fld ZXL_LNK_STATUS.WIDTH l = 8 →
        s.evtClass 7 5 ≠ 2 → ∀ i ∈ [Instr.laneRetire l lane, .laneErrorRate l lane],
        ∃ u, exec i s = .next u ∧ u.fld ZXL_LNK_STATUS.RETIRED l = 2 ^ lane.val ∧ (u.link l).spareFor = some lane.val
          ∧ u.fld ZXL_LNK_STATUS.WIDTH l = 8 ∧ u.fld ZXL_LNK_STATUS.STATE l = 5 ∧ u.cores = s.cores
          ∧ (s.fld HIF_STATUS.READY 0 ≠ 1 → s.SameBytes u [])
          ∧ (s.fld HIF_STATUS.READY 0 = 1 → u.fld HUB_CAP_RES.RES_GEN 0 = (s.fld HUB_CAP_RES.RES_GEN 0 + 1) % 256
              ∧ u.fld HUB_CAP_RES.ZX_LINKS 0 = s.fld HUB_CAP_RES.ZX_LINKS 0))
    ∧ (∀ da : BitVec 7, ∃ u, exec (.dynamicAddressAssignment da) s = .next u ∧ u.fld ZXL_BOARD.BDID 0 = da.toNat % 8
        ∧ u.fld ZXL_BOARD.ENUM_DONE 0 = 1 ∧ u.power.enumOut = true ∧ u = { s with regs := u.regs, power := u.power }
        ∧ s.SameRegs u [(.ZXL_BOARD, 0)])

/-- R345, R393, R394, R400, R406: RoCEv2 writes to a context's Trunk object, refused where the object does not allow them,
frames of a span queue pair, acknowledgements, the state of a port, whose loss ends a lock to its master (R41), and an error
of an edge. Model's choices: an RDMA target
lies in Trunk and acknowledgements are implicit (log 47). -/
def Obligations.Ethernet : Prop :=
  ∀ (q : Fin 8192) (s : State),
    let x := s.fld ETH_QP_CFG.CTX q
    let got := fun u : State => (u.qp q).rxPsn = ((s.qp q).rxPsn + 1) % 2 ^ 24
    (s.fld ETH_QP_CFG.VALID q = 1 → s.fld ETH_PORT_STATUS.LINK_UP (s.fld ETH_QP_CFG.PORT q) = 1 → s.NoInjection →
      (∀ (rkey : BitVec 32) (va : Nat) (data : List Byte), s.cLive x = true → s.fld ETH_QP_CFG.KIND q ≤ 1 →
        (s.rdmaOk x rkey.toNat va data.length = false → ∃ u, exec (.rdmaWrite q rkey va data) s = .next u ∧ got u
            ∧ u.outs = .roce q true va [] :: s.outs ∧ u.cores = s.cores ∧ s.SameBytes u []
            ∧ s.SameRegs u [(.ETH_PORT_STATUS, s.fld ETH_QP_CFG.PORT q)])
        ∧ (∀ o, s.rdmaOk x rkey.toNat va data.length = true → s.findObj rkey.toNat = some o → (s.ctx x).sq.dev = false → (s.ctx x).cq.dev = false →
            let ova := o.ova + va
            let at_ := (s.pte x ova).dpa ova
            0 < data.length → ova % 65536 + data.length ≤ 65536 → at_ + data.length ≤ 0x10000000000 → s.inPool x ova = false →
            ∃ u, exec (.rdmaWrite q rkey va data) s = .next u ∧ got u ∧ getBytes u.trunk at_ data.length = data
              ∧ (∀ a, a < at_ ∨ at_ + data.length ≤ a → getByte u.trunk a = getByte s.trunk a)
              ∧ u.root = s.root ∧ u.host = s.host ∧ u.cores = s.cores
              ∧ ∀ (r : RegId) i, r ≠ .TRK_REG → r ≠ .PRT_XL_MIG → u.reg r i = s.reg r i))
      ∧ (∀ (f : FrameIn) (trail : Word) (member : BitVec 8), s.fld ETH_QP_CFG.KIND q = 3 → f.dst = 0xFF →
          ∃ u, exec (.rdmaWriteWithImmediate q f (.ctrl (.heartbeat trail member))) s = .next u ∧ got u
            ∧ (∀ i ∈ s.trailsOf trail.toNat, (u.inst i).missed.get 0 member.toNat = 0) ∧ u.regs = s.regs ∧ u.cores = s.cores))
    ∧ (∀ psn : BitVec 24, ∃ u, exec (.roceAcknowledgement q psn) s = .next u ∧ u = { s with qps := u.qps }
        ∧ u.qp q = { s.qp q with unacked := (s.qp q).unacked.filter fun n => 2 ^ 23 ≤ (psn.toNat + 2 ^ 24 - n) % 2 ^ 24 }
        ∧ ∀ k, k ≠ q.val → u.qp k = s.qp k)
    ∧ (∀ (p : Fin 2) (mode : BitVec 2), mode ≠ 3 → ∃ u, exec (.ethPortLinkChange p mode) s = .next u
        ∧ u.fld ETH_PORT_STATUS.MODE p = mode.toNat ∧ u.fld ETH_PORT_STATUS.LINK_UP p = (if mode = 0 then 0 else 1) ∧ u.cores = s.cores
        ∧ (let source := s.tsrc ∈ [1, 2, 3] ∧ s.fld NTU_STATUS.TSRC_ACTIVE 0 = p.val + 1 ∧ s.dState = 2
           (mode ≠ 0 ∨ ¬ source → u = { s with regs := u.regs } ∧ s.SameRegs u [(.ETH_PORT_STATUS, p)])
           ∧ (mode = 0 → source → u.dState = 3)))
    ∧ ∀ (inst : BitVec 8) (retries : Nat) (ok : Bool), (inst.toNat / 4 = 4 ∨ inst.toNat / 4 = 8) → s.NoInjection →
        exec (.ucieFlitCrcError inst retries ok) s = .next (s.raise
          { cls := 6, ins := inst.toNat, evt := if ok then 4 else 0xE, loc := inst.toNat, retries := min retries 255 })

/-- R288, R291, R292, R294 to R299, R306, R315: the Trunk controller. A service window settles its accounts and grants what
waits; a granted read or write of a sector is charged and does what the sector's mark asks; one that cannot be granted waits;
scrubbing, refresh, temperature and remap copies. Model's choices: arbitration, and marks in place of codes (log 24, 51, 53). -/
def Obligations.TrunkAccesses : Prop :=
  ∀ (k p : PartId) (s : State) (o : Nat),
    let dpa := trunkDpa k o
    let q := (s.trunkPlaceNow k o).1
    let b := (s.trunkPlaceNow k o).2.1
    let r := (s.trunkPlaceNow k o).2.2
    let cost := if (s.stack k).openRow.get 0 (q * 64 + b) = r + 1 then 1 else 5
    let granted := fun u : State => u.fld TRK_REG.SERVED (k * 16 + p) = min TRK_REG.SERVED.max (s.fld TRK_REG.SERVED (k * 16 + p) + cost)
      ∧ (u.stack k).openRow.get 0 (q * 64 + b) = r + 1 ∧ (∀ j, j ≠ k.val → u.stack j = s.stack j) ∧ u.cores = s.cores ∧ u.root = s.root
    let quiet := fun evt : Nat => s.evtClass 4 evt ≠ 2 ∧ s.flt.buckets.get 0 (bkRow k q b r) + 1 < s.fld FLT_LEAK.THRESH 0
    let mark := s.tmarks.get .clean (dpa / 32)
    -- a window begins
    (let lvl := s.stackLevel k
     (s.stack k).pend = [] ∨ s.tkServes k = false →
     ∃ u, exec (.serviceWindow k) s = .next u ∧ u = { s with hbm := u.hbm } ∧ (∀ j, j ≠ k.val → u.stack j = s.stack j)
      ∧ (u.stack k).used = [] ∧ (u.stack k).ctxUsed = [] ∧ (u.stack k).shut = false ∧ (u.stack k).met = [] ∧ (u.stack k).regNow = [] ∧ (u.stack k).arbNow = none
      ∧ ∀ j, j < 16 → (u.stack k).spent.get 0 j = if TRK_ARB_CFG.MODE.of (s.reg .TRK_ARB_CFG k) = 1
          then max 0 ((s.stack k).spent.get 0 j - (TRK_REG.SHARE.of (s.reg .TRK_REG (k * 16 + j)) * (8 - 2 * lvl) / 8 : Nat))
          else (s.stack k).spent.get 0 j)
    -- a read that waits for a window
    ∧ (o < 0x1000000000 → o % 32 = 0 → s.tkServes k = true → ∀ lat : Bool,
        let req : TrkReq := { part := p, dpa := dpa, crit := lat, data := none, seen := [], arr := s.arrivals }
        ((s.stack k).shut = true ∨ (∃ e ∈ (s.stack k).pend, e.part = p.val ∨ e.dpa = dpa) ∨ s.claspHolds s.arrivals dpa 32 = true →
          exec (.trunkRead p dpa lat []) s = .next
            (({ s with arrivals := s.arrivals + 1 } : State).modStack k fun x => { x with pend := x.pend ++ [req] }))
        ∧ ((s.stack k).pend = [req] → mark = .clean → s.NoInjection → (s.stack k).burst = none → (s.stack k).remaps = [] → (s.stack k).clasp = [] →
            TRK_ARB_CFG.MODE.of (s.reg .TRK_ARB_CFG k) ≠ 2 → s.stackLevel k ≤ 3 →
            ∃ u, exec (.serviceWindow k) s = .next u ∧ granted u ∧ (u.stack k).pend = [] ∧ u = { s with regs := u.regs, hbm := u.hbm }))
    ∧ (o < 0x1000000000 → o % 32 = 0 → s.tkServes k = true → s.NoInjection → (s.stack k).used = [] → (s.stack k).burst = none →
        (s.stack k).remaps = [] → (s.stack k).recentRows = [] → s.trkMode k ≠ 2 → s.stackLevel k ≤ 3 → (s.stack k).pend = [] →
        (s.stack k).shut = false → s.claspHolds s.arrivals dpa 32 = false →
        (∀ lat : Bool,
          (mark = .clean → ∃ u, exec (.trunkRead p dpa lat []) s = .next u ∧ granted u
            ∧ u = { s with regs := u.regs, hbm := u.hbm, arrivals := s.arrivals + 1 }
            ∧ s.SameRegs u [(.TRK_REG, k * 16 + p)])
          ∧ (mark = .poison → s.evtClass 4 3 ≠ 2 → ∃ u, exec (.trunkRead p dpa lat []) s = .next u ∧ granted u
              ∧ u.fld TRK_ECC.POISON_RD k = min TRK_ECC.POISON_RD.max (s.fld TRK_ECC.POISON_RD k + 1) ∧ u.trunk = s.trunk ∧ u.tmarks = s.tmarks)
          ∧ (mark = .ce → quiet 1 → (s.stack k).rewriteQ.length < 64 → dpa / 32 ∉ (s.stack k).rewriteQ →
              ∃ u, exec (.trunkRead p dpa lat []) s = .next u ∧ granted u ∧ (u.stack k).rewriteQ = (s.stack k).rewriteQ ++ [dpa / 32]
                ∧ u.fld TRK_ECC.CE_CNT k = min TRK_ECC.CE_CNT.max (s.fld TRK_ECC.CE_CNT k + 1) ∧ u.fld TRK_ECC.CB_CNT k = s.fld TRK_ECC.CB_CNT k
                ∧ u.trunk = s.trunk ∧ u.tmarks = s.tmarks)
          ∧ (mark = .ue → quiet 2 → s.ctxs = [] → o < mapArea → s.mapAt k o = none →
              ∃ u, exec (.trunkRead p dpa lat []) s = .next u ∧ granted u ∧ u.tmarks.get .clean (dpa / 32) = .poison
                ∧ u.fld TRK_ECC.UE_CNT k = min TRK_ECC.UE_CNT.max (s.fld TRK_ECC.UE_CNT k + 1) ∧ u.trunk = s.trunk
                ∧ (u.stack k).remaps = [{ q := q, bank := b, row := r, spare := b, copying := true }]
                ∧ u.fld TRK_REPAIR.REMAP_CNT k = min TRK_REPAIR.REMAP_CNT.max (s.fld TRK_REPAIR.REMAP_CNT k + 1)
                ∧ u.fld TRK_REPAIR.SPARE_FREE k = s.fld TRK_REPAIR.SPARE_FREE k - 1))
        ∧ ∀ data : BitVec 256, ∃ u, exec (.trunkWrite p dpa data) s = .next u ∧ granted u ∧ getBytes u.trunk dpa 32 = leBytes data.toNat 32
            ∧ (∀ a, a < dpa ∨ dpa + 32 ≤ a → getByte u.trunk a = getByte s.trunk a) ∧ u.tmarks.get .clean (dpa / 32) = .clean
            ∧ (∀ j, j ≠ dpa / 32 → u.tmarks.get .clean j = s.tmarks.get .clean j)
            ∧ u = { s with regs := u.regs, hbm := u.hbm, trunk := u.trunk, tmarks := u.tmarks, arrivals := s.arrivals + 1 }
            ∧ s.SameRegs u [(.TRK_REG, k * 16 + p)])
    ∧ (∀ j rest, (s.stack k).rewriteQ = j :: rest → (s.tmarks.get .clean j = .ce ∨ s.tmarks.get .clean j = .cb) →
        ∃ u, exec (.repairQueueRewrite k) s = .next u ∧ u.stack k = { s.stack k with rewriteQ := rest } ∧ u.tmarks.get .clean j = .clean
          ∧ (∀ i, i ≠ j → u.tmarks.get .clean i = s.tmarks.get .clean i) ∧ u = { s with hbm := u.hbm, tmarks := u.tmarks })
    ∧ (s.fld TRK_CTL.SCRUB_EN k ≠ 0 → s.tkServes k = true →
        (∀ e ∈ s.tmarks, e.1 * 32 / 0x1000000000 = k.val → e.2 = .poison ∨ e.2 = .clean) →
        exec (.patrolScrubPassEnd k) s = .next (s.setReg .TRK_SCRUB k (BitVec.ofNat 64 s.now)))
    ∧ (∀ (pc bank : Fin 64), s.tkServes k = true →
        let n := (s.stack k).postponed.get 0 (pc.val * 64 + bank)
        let after := fun m : Nat => s.modStack k fun x => { x with postponed := x.postponed.set 0 (pc.val * 64 + bank) m }
        exec (.refreshDue k pc bank true) s = .next (s.inc TRK_REF.RFM_CNT k)
        ∧ ((s.stack k).clasp.any (·.started) = false → exec (.refreshDue k pc bank false) s = .next (after 0))
        ∧ ((s.stack k).clasp.any (·.started) = true → n < 4 → exec (.refreshDue k pc bank false) s = .next (after (n + 1)))
        ∧ ((s.stack k).clasp.any (·.started) = true → 4 ≤ n → ∃ u, exec (.refreshDue k pc bank false) s = .next u
            ∧ u.fld TRK_REF.SEG_SPLIT k = min TRK_REF.SEG_SPLIT.max (s.fld TRK_REF.SEG_SPLIT k + 1)
            ∧ (u.stack k).postponed.get 0 (pc.val * 64 + bank) = 0 ∧ u = { s with regs := u.regs, hbm := u.hbm } ∧ s.SameRegs u [(.TRK_REF, k)]))
    ∧ (∀ temp : BitVec 8, s.tkState k ≠ 0 → ∃ u, exec (.temperatureReadout k temp) s = .next u ∧ u.fld TRK_STATUS.TEMP_C k = temp.toNat
        ∧ u.fld TRK_STATUS.REF_2X k = (if 85 ≤ temp.toNat then 1 else 0) ∧ u.fld TRK_STATUS.STATE k = s.fld TRK_STATUS.STATE k
        ∧ u = { s with regs := u.regs } ∧ s.SameRegs u [(.TRK_STATUS, k)])
    ∧ ∀ m, (s.stack k).remaps = [m] → m.copying = true →
        exec (.rowRemapEnd k) s = .next (s.modStack k fun x => { x with remaps := [{ m with copying := false }] })

/-- R301, R302, R304, R305: retirement of a pseudo-channel, maintenance of a stack and the traffic generators. Model's
choices: the layout of the reserved area (log 52). -/
def Obligations.TrunkMaintenance : Prop :=
  ∀ (k : PartId) (q : Fin 64) (s : State),
    let i := k.val * 64 + q
    let only := fun (u : State) (r : RegId) (j : Nat) => u = { s with regs := u.regs } ∧ s.SameRegs u [(r, j)]
    ((s.tkState k ≠ 2 ∨ s.fld TRK_STATUS.PC_RETIRED k = 1) → exec (.trkRetire k q) s = .next s)
    ∧ (s.tkState k = 2 → s.fld TRK_STATUS.PC_RETIRED k ≠ 1 → ∃ u, exec (.trkRetire k q) s = .next u ∧ u.tkState k = 4
        ∧ u.fld TRK_STATUS.RETIRED_PC k = q ∧ (∀ f, 999424 ≤ f → f < swFrames → (u.frames k).mem f = false ∧ (u.pendFrames k).mem f = false)
        ∧ s.SameRegs u [(.TRK_STATUS, k)] ∧ u.cores = s.cores ∧ u.ctxs = s.ctxs ∧ s.SameBytes u [])
    ∧ (s.tkState k = 4 → s.ctxs = [] → s.evtClass 4 5 ≠ 2 → (∀ j, j < 16 → s.iState j ∉ [3, 6]) →
        ∃ u, exec (.pcRetireEnd k) s = .next u ∧ u.tkState k = 2 ∧ u.fld TRK_STATUS.PC_RETIRED k = 1
          ∧ (s.fld HIF_STATUS.READY 0 = 1 → u.fld HUB_CAP_RES.TRUNK_GIB 0 = s.fld HUB_CAP_RES.TRUNK_GIB 0 - 1
              ∧ u.fld HUB_CAP_RES.RES_GEN 0 = (s.fld HUB_CAP_RES.RES_GEN 0 + 1) % 256) ∧ u.cores = s.cores ∧ s.SameBytes u [])
    ∧ (s.maintOk k = false → exec (.maintEnter k) s = .next s)
    ∧ (s.maintOk k = true → ∃ u, exec (.maintEnter k) s = .next u ∧ u.tkState k = 3 ∧ u.fld TRK_CTL.MAINT k = 1 ∧ (u.stack k).mirrorOff = true
        ∧ u = { s with regs := u.regs, hbm := u.hbm } ∧ s.SameRegs u [(.TRK_CTL, k), (.TRK_STATUS, k)])
    ∧ (s.tkState k = 3 → s.fld TRK_CTL.MAINT k = 1 → ∃ u, exec (.maintExit k) s = .next u ∧ u.fld TRK_CTL.MAINT k = 0 ∧ u.tkState k = 3
        ∧ (∀ j, j < 64 → u.fld TRK_BIST_STAT.BUSY (k * 64 + j) = 0) ∧ (u.stack k).leaving = true
        ∧ (∀ a, getByte u.trunk a = if trunkDpa k 0 ≤ a ∧ a < trunkDpa k 0 + 0xFFFC00000 then 0 else getByte s.trunk a)
        ∧ u = { s with regs := u.regs, hbm := u.hbm, trunk := u.trunk, tmarks := u.tmarks })
    ∧ (s.tkState k = 3 → (s.stack k).leaving = true → ∃ u, exec (.maintExitEnd k) s = .next u ∧ u.tkState k = 2
        ∧ (u.stack k).mirrorOff = false ∧ (u.stack k).leaving = false
        ∧ u.fld RTF_STATUS.STATE k = (if s.fld RTF_STATUS.STATE k = 3 then 1 else s.fld RTF_STATUS.STATE k)
        ∧ u = { s with regs := u.regs, hbm := u.hbm } ∧ s.SameRegs u [(.TRK_STATUS, k), (.RTF_STATUS, k)])
    ∧ (s.tkState k = 3 → (s.stack k).leaving = false → s.fld TRK_BIST_STAT.BUSY i = 0 → s.fld TRK_BIST_CFG.PATTERN i ≤ 3 →
        ∃ u, exec (.bistStart k q) s = .next u ∧ u.fld TRK_BIST_STAT.BUSY i = 1 ∧ u.fld TRK_BIST_STAT.ACCESSES i = 0
          ∧ u.fld TRK_BIST_STAT.FAILS i = 0 ∧ u.fld TRK_BIST_STAT.FAIL i = s.fld TRK_BIST_STAT.FAIL i ∧ only u .TRK_BIST_STAT i)
    ∧ (∃ u, exec (.bistStop k q) s = .next u ∧ u.fld TRK_BIST_STAT.BUSY i = 0 ∧ u.fld TRK_BIST_STAT.ACCESSES i = s.fld TRK_BIST_STAT.ACCESSES i
        ∧ only u .TRK_BIST_STAT i)
    ∧ ∀ (n fails : Nat) (row : Fin 16384) (bank : Fin 64) (sector : Fin 32) (mask : BitVec 36),
        s.fld TRK_BIST_STAT.BUSY i = 1 → s.fld TRK_BIST_CFG.COUNT i ≠ 0 → n < 2 ^ 32 →
        ∃ u, exec (.bistRunEnd k q n fails row bank sector mask) s = .next u ∧ u.fld TRK_BIST_STAT.BUSY i = 0
          ∧ u.fld TRK_BIST_STAT.ACCESSES i = n ∧ u = { s with regs := u.regs } ∧ s.SameRegs u [(.TRK_BIST_STAT, i), (.TRK_BIST_FAIL, i)]
          ∧ (fails = 0 → u.fld TRK_BIST_STAT.FAIL i = s.fld TRK_BIST_STAT.FAIL i ∧ u.reg .TRK_BIST_FAIL i = s.reg .TRK_BIST_FAIL i)
          ∧ (0 < fails → u.fld TRK_BIST_STAT.FAIL i = 1
              ∧ (s.fld TRK_BIST_STAT.FAIL i = 1 → u.reg .TRK_BIST_FAIL i = s.reg .TRK_BIST_FAIL i
                  ∧ u.fld TRK_BIST_STAT.FAILS i = min TRK_BIST_STAT.FAILS.max (s.fld TRK_BIST_STAT.FAILS i + fails))
              ∧ (s.fld TRK_BIST_STAT.FAIL i = 0 → u.fld TRK_BIST_FAIL.ROW i = row ∧ u.fld TRK_BIST_FAIL.BANK i = bank
                  ∧ u.fld TRK_BIST_FAIL.SECTOR i = sector ∧ u.fld TRK_BIST_FAIL.BYTE_MASK i = mask.toNat
                  ∧ u.fld TRK_BIST_STAT.FAILS i = min TRK_BIST_STAT.FAILS.max (s.fld TRK_BIST_STAT.FAILS i + (fails - 1))))

/-- R307 to R310, R313 to R315, R319, R320, R322: a clasp record is refused or queued and starts when budget and window let
it; the end of a unit operation writes the selected sectors of C; a dedicated burst ends. Model's choices: the queue of
records and the driver's reject order (log 54). -/
def Obligations.ClaspUnits : Prop :=
  ∀ (k p : PartId) (w : Rec64) (s : State),
    let c := (s.stack k).clasp
    -- front operation of partition p starts
    let fits := fun (r : ClaspRec) => s.pcGone k (claspAt r.word r.done).2 = false ∧ s.claspDedicated k r.part = false
      ∧ s.claspActsNow k r.part + claspActs r.word ≤ s.fld PRT_CLP_BUD.BUDGET (k * 16 + r.part) ∧ (s.stack k).used = []
      ∧ (s.stack k).shut = false ∧ s.claspLate k r = false ∧ s.trkMode k ≠ 2 ∧ s.stackLevel k ≤ 3
    let started := fun (u : State) (r : ClaspRec) =>
      u.fld PRT_CLP_BUD.ACTS_USED (k * 16 + r.part) = min PRT_CLP_BUD.ACTS_USED.max (s.fld PRT_CLP_BUD.ACTS_USED (k * 16 + r.part) + claspActs r.word)
      ∧ u.fld TRK_REG.SERVED (k * 16 + r.part) = min TRK_REG.SERVED.max (s.fld TRK_REG.SERVED (k * 16 + r.part) + claspCost r.word)
      ∧ u.fld PRT_CLP_STATUS.CLASP_MODE k = 1 ∧ u = { s with regs := u.regs, hbm := u.hbm, arrivals := u.arrivals }
    let drv := recOf ((List.range 8).flatMap fun i => leBytes (s.reg .PRT_CLP_REC (k * 8 + i)).toNat 8)
    -- records of device units
    (2 ≤ s.tkState k → claspRefusal k w true ≠ 0 → exec (.claspRecord k p w) s = .next (s.inc PRT_CLP_ERR.REC_REJ k))
    ∧ (2 ≤ s.tkState k → claspRefusal k w true = 0 → c.any (·.started) = true →
        exec (.claspRecord k p w) s = .next
          { s.modStack k (fun x => { x with clasp := x.clasp ++ [{ part := p, drv := false, word := w, arr := s.arrivals }] }) with
            arrivals := s.arrivals + 1 })
    ∧ (let r : ClaspRec := { part := p, drv := false, word := w, arr := s.arrivals }
       2 ≤ s.tkState k → claspRefusal k w true = 0 → c = [] → fits r →
        ∃ u, exec (.claspRecord k p w) s = .next u ∧ (u.stack k).clasp = [{ r with started := true }] ∧ started u r)
    -- the driver's
    ∧ (s.fld PRT_CLP_DRV.BUSY k = 1 → exec (.claspDrvGo k) s = .next s)
    ∧ (let code := if s.tkState k ≠ 3 then 3 else claspRefusal k drv false
       s.fld PRT_CLP_DRV.BUSY k = 0 → code ≠ 0 → ∃ u, exec (.claspDrvGo k) s = .next u ∧ u.fld PRT_CLP_DRV.REJ_CODE k = code
        ∧ u.fld PRT_CLP_DRV.BUSY k = 0 ∧ u.fld PRT_CLP_DRV.TAG_DONE k = recLe drv 4 4
        ∧ u.fld PRT_CLP_ERR.REC_REJ k = min PRT_CLP_ERR.REC_REJ.max (s.fld PRT_CLP_ERR.REC_REJ k + 1)
        ∧ u = { s with regs := u.regs } ∧ s.SameRegs u [(.PRT_CLP_DRV, k), (.PRT_CLP_ERR, k)])
    ∧ (s.fld PRT_CLP_DRV.BUSY k = 0 → s.tkState k = 3 → claspRefusal k drv false = 0 → c.any (·.started) = true →
        ∃ u, exec (.claspDrvGo k) s = .next u ∧ u.fld PRT_CLP_DRV.REJ_CODE k = 0 ∧ u.fld PRT_CLP_DRV.BUSY k = 1
          ∧ (u.stack k).clasp = c ++ [{ part := k, drv := true, word := drv, arr := s.arrivals }]
          ∧ u = { s with regs := u.regs, hbm := u.hbm, arrivals := s.arrivals + 1 } ∧ s.SameRegs u [(.PRT_CLP_DRV, k)])
    -- the end of an operation without error
    ∧ (∀ (r : ClaspRec) (rest : List ClaspRec) (st : ClaspStatus), c = r :: rest → r.started = true → s.NoInjection →
        let i := (claspAt r.word r.done).1
        let q := (claspAt r.word r.done).2
        let ops := claspSectors r.word q
        let a := fun d : Nat => getByte s.trunk (claspA r.word + i * 65536 + d)
        let b := fun d : Nat => getByte s.trunk (claspB r.word + i * 65536 + d)
        let cb := claspC r.word + i * 65536
        s.pcGone k q = false → st.state = 2 → st.poisMask = 0 → st.corr = 0 → (s.stack k).reissues = 0 → claspRefusal k r.word true = 0 →
        (∀ e ∈ ops, (claspOp r.word ≠ 2 → s.poisonedAt (claspA r.word + (i * 65536 + e.2)) 32 = false)
          ∧ (claspLogic r.word = true → s.poisonedAt (claspB r.word + (i * 65536 + e.2)) 32 = false)) →
        ∃ u, exec (.claspUnitOpEnd k st) s = .next u
          ∧ (∀ e ∈ ops, (∀ j, j < 32 → getByte u.trunk (cb + e.2 + j) = claspByteOf r.word (a (e.2 + j)) (b (e.2 + j)) j)
              ∧ u.tmarks.get .clean ((cb + e.2) / 32) = .clean)
          ∧ (∀ d, (∀ e ∈ ops, d < cb + e.2 ∨ cb + e.2 + 32 ≤ d) → getByte u.trunk d = getByte s.trunk d)
          ∧ u.fld PRT_CLP_OPS.UNIT_OPS k = min PRT_CLP_OPS.UNIT_OPS.max (s.fld PRT_CLP_OPS.UNIT_OPS k + 1)
          ∧ (claspCount r.word ≤ r.done + 1 → r.drv = true → rest = [] → (u.stack k).clasp = [] ∧ u.fld PRT_CLP_DRV.BUSY k = 0
              ∧ u.fld PRT_CLP_DRV.TAG_DONE k = recLe r.word 4 4)
          ∧ u = { s with regs := u.regs, hbm := u.hbm, trunk := u.trunk, tmarks := u.tmarks })
    -- a held operation, and the end of a burst
    ∧ (∀ r rest, c = r :: rest → c.any (·.started) = false → fits r → ∃ u, exec (.claspBudgetResume k) s = .next u
        ∧ (u.stack k).clasp = { r with started := true, held := false } :: rest ∧ started u r)
    ∧ (∀ x, (s.stack k).burst = some x → x.stop ≤ s.ntu.elapsed → c.any (·.started) = false →
        ∃ u, exec (.dedBurstEnd k) s = .next u ∧ u.stack k = { s.stack k with burst := none } ∧ u.fld PRT_CLP_STATUS.CLASP_MODE k = 0
          ∧ u = { s with regs := u.regs, hbm := u.hbm } ∧ s.SameRegs u [(.PRT_CLP_STATUS, k)])

/-- R280, R281, R282, R332: a window engine stages the next tile of a run from Root into its staging area, with a grant of the
tower, and delivers a run's bytes, from where its pages lay when it started, into the cell, which becomes full; the run ends
and its staging frames are free again. -/
def Obligations.WindowEngines : Prop :=
  ∀ (p : PartId) (entry : Nat) (s : State) (r : StreamRun) (e : StreamEnt) (b : Nat),
    (s.mem p).streams = [r] → r.entry = entry → r.base = some b → (s.inst r.inst).image.stream entry = some e →
    (∀ g, r.frames[r.staged.length]? = some g → rootBase ≤ g * 65536 →
      (∀ f t, (s.mem p).stageFree.nth 0 = some f → f < swFrames → s.rootTile p g (r.fresh g) = some t →
        ∃ u more, exec (.stagingEnd p entry) s = .next u
          ∧ getBytes u.trunk (trunkDpa p (f * 65536)) 65536 = getBytes s.root (g * 65536) 65536
          ∧ (∀ a, a < trunkDpa p (f * 65536) ∨ trunkDpa p (f * 65536) + 65536 ≤ a → getByte u.trunk a = getByte s.trunk a)
          ∧ (u.mem p).streams = [{ r with staged := r.staged ++ some f :: more, waiting := false }]
          ∧ (r.frames.length = r.staged.length + 1 → more = []) ∧ (u.mem p).stageFree.mem f = false
          ∧ u = { s with mems := u.mems, trunk := u.trunk, tmarks := u.tmarks, regs := u.regs, hbm := u.hbm, towers := u.towers })
      ∧ (∀ f, (s.mem p).stageFree.nth 0 = some f → s.rootTile p g (r.fresh g) = none → exec (.stagingEnd p entry) s = .next s)
      ∧ ((s.mem p).stageFree = [] → r.waiting = false → ∃ u, exec (.stagingEnd p entry) s = .next u
          ∧ (u.mem p).streams = [{ r with waiting := true }]
          ∧ u.fld PRT_XL_STREAM.STAGE_WAITS p = min PRT_XL_STREAM.STAGE_WAITS.max (s.fld PRT_XL_STREAM.STAGE_WAITS p + 1)
          ∧ u = { s with mems := u.mems, regs := u.regs } ∧ s.SameRegs u [(.PRT_XL_STREAM, p)]))
    ∧ (let k := r.cell e
       let cl := s.cell e.dst k
       let n := e.len - r.done
       let at_ := r.dpa p (r.ova + r.done)
       r.gated = true → cl.full = false → cl.claimed = false → cl.base % 64 = 0 → 0 < n → n ≤ cl.size → n % 64 = 0 →
       (r.ova + r.done) % 65536 + n ≤ 65536 → r.frames.length ≤ r.staged.length → s.poisonedAt at_ n = false →
       s.mustCheck at_ n = false → s.NoHeld e.dst →
       ∃ u, exec (.windowDeliveryEnd p entry) s = .next u ∧ getBytes (u.core e.dst).canopy cl.base n = s.readDpa at_ n
        ∧ (∀ a, a < cl.base ∨ cl.base + n ≤ a → getByte (u.core e.dst).canopy a = getByte (s.core e.dst).canopy a)
        ∧ u.cell e.dst k = { cl with full := true } ∧ (u.core e.dst).threads = (s.core e.dst).threads ∧ (u.mem p).streams = []
        ∧ s.SameCores u e.dst ∧ ((s.mem p).held = [] → s.SameBytes u [e.dst]))

/-- R325, R326, R328, R330 to R332, R426: reads and writes of Root tiles, what waits, the write buffer, relocation and read
windows. Model's choices: regions and the die of a tile (log 55, 56). -/
def Obligations.RootAccesses : Prop :=
  ∀ (t p : PartId) (tile lat : Nat) (s : State),
    let f := rootFrame t tile
    let region := tile / 256
    let x := s.tower t
    let count := fun (u : State) (g : Nat) => (u.tower t).counts.get (u.tower t).countBase g
    let bump := fun (fl : Fld) (u : State) => u.fld fl t = min fl.max (s.fld fl t + 1)
    let quiet := fun evt : Nat => s.evtClass 5 evt ≠ 2
    let asked := fun out : TileOutcome => ({ part := p, tile := tile, out := out, latUs := lat } : TileReq)
    let fresh := fun x : Tower => { x with used := [], cfgNow := none, slotNow := [], shut := false }
    let written := tile < rootTiles ∧ (s.tiles t).mem tile = false ∧ (s.root.any fun e => e.1 / 65536 = f) = true
    let granted := fun u : State => u.fld RTF_SLOT.SERVED (t * 16 + p) = min RTF_SLOT.SERVED.max (s.fld RTF_SLOT.SERVED (t * 16 + p) + 1)
      ∧ count u region = count s region + 1 ∧ (∀ g, g ≠ region → count u g = count s g)
      ∧ u.fld RTF_READ.LAT_MAX_US t = max (s.fld RTF_READ.LAT_MAX_US t) (min lat RTF_READ.LAT_MAX_US.max)
      ∧ u.root = s.root ∧ u.trunk = s.trunk ∧ u.cores = s.cores
    let sensed := fun (k : Fin 8) (u : State) => granted u ∧ bump RTF_READ.TILE_READS u ∧ (u.tower t).ladder.get 0 region = k
      ∧ (k.val = 0 → u.reg .RTF_RETRY t = s.reg .RTF_RETRY t) ∧ (k.val = 7 → bump RTF_RETRY.RETRY_SOFT u)
      ∧ (0 < k.val → k.val < 7 → bump RTF_RETRY.RETRY_HARD u) ∧ (u.tower t).pend = []
      ∧ u = { s with regs := u.regs, towers := u.towers, freeCnt := s.freeCnt + 1 }
      ∧ s.SameRegs u [(.RTF_READ, t), (.RTF_RETRY, t), (.RTF_SLOT, t * 16 + p)]
    -- a read window: fresh grants, settings in force, and a read that waits is granted
    (s.now % 16 ≠ 0 → exec (.rootReadWindow t) s = .next s)
    ∧ (s.now % 16 = 0 → (x.pend = [] ∨ s.rtServes t = false) → exec (.rootReadWindow t) s = .next (s.modTower t fresh))
    ∧ (s.now % 16 = 0 → s.rtServes t = true → s.NoInjection → RTF_CFG.MODE.of (s.reg .RTF_CFG t) ≠ 1 → s.towerLevel t ≤ 3 →
        tile ∉ x.buffer → s.rmarks.get .clean f ≠ .poison → ∀ k : Fin 8, x.pend = [asked (.step k)] →
        ∃ u, exec (.rootReadWindow t) s = .next u ∧ sensed k u)
    -- a read waits behind an earlier one of its partition, and for its tower; a blank tile reads as zero at once
    ∧ (∀ out, (s.rtServes t = false ∨ (written ∧ (x.shut = true ∨ ∃ q ∈ x.pend, q.part = p))) →
        exec (.rootTileRead t p tile out lat) s = .next (s.modTower t fun x => { x with pend := x.pend ++ [asked out] }))
    ∧ (∀ out, s.rtServes t = true → (rootTiles ≤ tile ∨ (s.tiles t).mem tile = true) → exec (.rootTileRead t p tile out lat) s = .next s)
    ∧ (s.rtServes t = true → written → s.NoInjection → x.used = [] → x.shut = false → x.pend = [] →
        RTF_CFG.MODE.of (s.rtfCfg t) ≠ 1 → s.towerLevel t ≤ 3 → tile ∉ x.buffer → s.rmarks.get .clean f ≠ .poison →
        (∀ k : Fin 8, ∃ u, exec (.rootTileRead t p tile (.step k) lat) s = .next u ∧ sensed k u)
        ∧ ((∀ d, d < 16 → s.flt.buckets.get 0 (bkDie t d) + 1 < s.fld FLT_LEAK.THRESH 0) → quiet 2 → quiet 4 → quiet 6 →
            (∃ u, exec (.rootTileRead t p tile .rebuilt lat) s = .next u ∧ granted u ∧ bump RTF_READ.TILE_READS u ∧ bump RTF_RETRY.RECON u
              ∧ u.rmarks = s.rmarks)
            ∧ (s.ctxs = [] → ∃ u, exec (.rootTileRead t p tile .lost lat) s = .next u ∧ granted u ∧ bump RTF_RETRY.UE_TILES u
                ∧ u.rmarks.get .clean f = .poison ∧ ∀ g, g ≠ f → u.rmarks.get .clean g = s.rmarks.get .clean g)))
    ∧ (∀ data : List Byte, s.rtState t ≠ 5 → tile < rootTiles → data.length = 65536 → quiet 6 →
        let stored := fun u : State => getBytes u.root (f * 65536) 65536 = data ∧ u.rmarks.get .clean f = .clean
          ∧ (∀ a, a < f * 65536 ∨ f * 65536 + 65536 ≤ a → getByte u.root a = getByte s.root a) ∧ u.trunk = s.trunk ∧ u.cores = s.cores
        (s.rtServes t = true → x.waitWr = [] → x.buffer.length < 64 → s.fld PWR_STATUS.VHOLD_OK 0 = 1 →
          ∃ u, exec (.rootTileWrite t tile data) s = .next u ∧ stored u ∧ (u.tower t).buffer = x.buffer ++ [tile]
            ∧ u.fld RTF_STATUS.BUF_TILES t = x.buffer.length + 1)
        ∧ ((s.fld PWR_STATUS.VHOLD_OK 0 = 0 ∨ s.rtServes t = false ∨ x.waitWr ≠ []) → x.buffer.length < 64 →
            exec (.rootTileWrite t tile data) s = .next (s.modTower t fun x => { x with waitWr := x.waitWr ++ [(tile, data)] }))
        ∧ (64 ≤ x.buffer.length → ∃ u, exec (.rootTileWrite t tile data) s = .next u ∧ bump RTF_RELOC.BUF_WAITS u
            ∧ u.tower t = { x with waitWr := x.waitWr ++ [(tile, data)] }
            ∧ u = { s with regs := u.regs, towers := u.towers } ∧ s.SameRegs u [(.RTF_RELOC, t)])
        -- the oldest tile is programmed; a write that waits takes its place
        ∧ (∀ a rest, x.buffer = a :: rest → rest.length < 64 →
            (x.waitWr = [] → ∃ u, exec (.rootBufferProgram t) s = .next u ∧ u.tower t = { x with buffer := rest }
              ∧ u.fld RTF_STATUS.BUF_TILES t = rest.length ∧ u = { s with regs := u.regs, towers := u.towers } ∧ s.SameRegs u [(.RTF_STATUS, t)])
            ∧ (x.waitWr = [(tile, data)] → s.rtServes t = true → s.fld PWR_STATUS.VHOLD_OK 0 = 1 →
                ∃ u, exec (.rootBufferProgram t) s = .next u
                ∧ stored u ∧ (u.tower t).buffer = rest ++ [tile] ∧ (u.tower t).waitWr = [])))
    ∧ ∀ g, s.rtServes t = true → g < rootTiles / 256 → RTF_CFG.RD_THRESH.of (s.rtfCfg t) ≤ count s g → quiet 6 →
        ∃ u, exec (.relocationEnd t g) s = .next u ∧ count u g = 0 ∧ (∀ h, h ≠ g → count u h = count s h) ∧ (u.tower t).ladder.get 0 g = 0
          ∧ bump RTF_RELOC.RELOCS u ∧ u.root = s.root ∧ u.rmarks = s.rmarks ∧ u.trunk = s.trunk ∧ u.cores = s.cores

/-- R334 to R338, R418: mounting and unmounting a tower, the reload of its map, retirement of dies and channels, rebuild.
Model's choices: the flag that an unmount waits under, and retired dies (log 57, 58). -/
def Obligations.RootMounting : Prop :=
  ∀ (t : PartId) (s : State),
    let x := s.tower t
    let only := fun u : State => u = { s with regs := u.regs, towers := u.towers }
    (s.fld RTF_STATUS.STATE t = 3 → ∃ u, exec (.mount t) s = .next u ∧ u.rtState t = 1 ∧ u = { s with regs := u.regs } ∧ s.SameRegs u [(.RTF_STATUS, t)])
    ∧ (s.fld RTF_STATUS.STATE t ≠ 3 → exec (.mount t) s = .next s)
    ∧ (let held := ∃ i, i < 16 ∧ maskBit (s.inst i).image.groupMask t = true ∧ s.iState i ∈ [2, 3, 4]
       (s.rtState t = 2 → ¬ held → s.towerBusy t = false →
          exec (.unmount t) s = .next (s.modTower t fun x => { x with leaving := true }))
       ∧ ((s.rtState t ≠ 2 ∨ held ∨ s.towerBusy t = true) → exec (.unmount t) s = .next s))
    ∧ (x.leaving = true → ∃ u, exec (.unmountEnd t) s = .next u ∧ u.rtState t = 3 ∧ (u.tower t).buffer = [] ∧ (u.tower t).leaving = false
        ∧ u.fld RTF_STATUS.BUF_TILES t = 0 ∧ only u ∧ s.SameRegs u [(.RTF_STATUS, t)])
    ∧ (x.leaving = false → exec (.unmountEnd t) s = .next s)
    ∧ (x.mapWait = true → ∃ u, exec (.rootMapReloadEnd t) s = .next u ∧ u.tower t = { x with mapWait := false }
        ∧ (let r := s.mapRange t
           s.tmarks.sorted = true → ∀ j, u.tmarks.get .clean j =
             if s.tmarks.get .clean j = .poison ∧ trunkDpa r.1 r.2.1 ≤ j * 32 ∧ j * 32 < trunkDpa r.1 r.2.2 then .clean
             else s.tmarks.get .clean j) ∧ u = { s with towers := u.towers, tmarks := u.tmarks })
    -- HUB_CAP_RES is written again once the device is ready
    ∧ (s.rtState t = 2 → s.evtClass 5 5 ≠ 2 → s.ctxs = [] → (∀ i, i < 16 → s.iState i ∉ [3, 6]) →
        let gone := fun (u : State) (dies : List Nat) => u.rtState t = 4 ∧ (u.tower t).deadDies = x.deadDies ++ dies
          ∧ u.fld RTF_STATUS.DIES_RETIRED t = (x.deadDies.length + dies.length) % 32 ∧ u.cores = s.cores ∧ s.SameBytes u []
          ∧ u.fld HUB_CAP_RES.RES_GEN 0 = if s.fld HIF_STATUS.READY 0 = 1 then (s.fld HUB_CAP_RES.RES_GEN 0 + 1) % 256
              else s.fld HUB_CAP_RES.RES_GEN 0
        (∀ d : Fin 16, d.val ∉ x.deadDies → ∃ u, exec (.rootDieRetire t d) s = .next u ∧ gone u [d.val])
        ∧ (∀ c : Fin 8, 2 * c.val ∉ x.deadDies → 2 * c.val + 1 ∉ x.deadDies →
            ∃ u, exec (.rootChannelRetire t c) s = .next u ∧ gone u [2 * c.val, 2 * c.val + 1]))
    ∧ (s.rtState t ≠ 2 → ∀ (d : Fin 16) (c : Fin 8), exec (.rootDieRetire t d) s = .next s ∧ exec (.rootChannelRetire t c) s = .next s)
    ∧ (s.rtState t = 4 → s.evtClass 5 6 ≠ 2 → s.fld RTF_STATUS.DIES_RETIRED t < 3 →
        ∃ u, exec (.rebuildEnd t) s = .next u ∧ u.rtState t = 2 ∧ u.cores = s.cores ∧ s.SameBytes u [])

/-- R336: after every mount retry ladders start at step 0 and poison marks stay; a mount from the journal keeps the read
counts, and after a scan mount every region's count starts at RD_THRESH ÷ 2, rounded down. No access waits for the tower. -/
def Obligations.MountedTower : Prop :=
  ∀ (t : PartId) (s : State),
    let x := s.tower t
    let only := fun u : State => u = { s with regs := u.regs, towers := u.towers }
    ∀ (kind : Fin 4) (us kib : Nat), s.rtState t = 1 → kind.val ≠ 0 → us < 2 ^ 32 → kib < 2 ^ 32 → x.waitWr = [] → x.pend = [] →
      ∃ u, exec (.mountEnd t kind us kib) s = .next u ∧ u.rtState t = (if 3 ≤ x.deadDies.length then 5 else 2)
        ∧ u.fld RTF_STATUS.MOUNT_KIND t = kind ∧ u.fld RTF_MOUNT.MOUNT_US t = us ∧ u.fld RTF_MOUNT.REPLAY_KIB t = kib
        ∧ (u.tower t).ladder = [] ∧ (u.tower t).leaving = false ∧ (u.tower t).mapWait = false ∧ only u ∧ s.SameRegs u [(.RTF_STATUS, t), (.RTF_MOUNT, t), (.RTF_WEAR, t)]
        ∧ (kind.val = 3 → (u.tower t).counts = [] ∧ (u.tower t).countBase = s.fld RTF_CFG.RD_THRESH t / 2)
        ∧ (kind.val ≠ 3 → (u.tower t).counts = x.counts ∧ (u.tower t).countBase = x.countBase)
      ∧ (∀ g, (u.tower t).ladder.get 0 g = 0) ∧ u.rmarks = s.rmarks

/-- R140, R410, R412, R416, R420: the Canopy scrubber, a golden copy that its tower grants written back, buckets that leak, the end of a FAULT_N
pulse and the arming of an injection. Model's choices: damage found is an operand (log 24); poison is not reported again
(log 59). -/
def Obligations.FaultsAndScrubbing : Prop :=
  (∀ (c : Lcid) (word : Fin 262144) (s : State), s.fld PRT_CANOPY_CFG.SCRUB_EN (c / 32) = 1 → s.NoInjection →
      s.flt.buckets.get 0 c + 1 < s.fld FLT_LEAK.THRESH 0 →
      let m := (s.core c).cmarks.get .clean word
      (m = .clean → exec (.canopyScrubRead c word .clean) s = .next s)
      ∧ (m = .poison → ∀ seen, exec (.canopyScrubRead c word seen) s = .next s)
      ∧ (s.evtClass 1 1 ≠ 2 → ∀ seen cb, (m = .clean ∧ seen = .fixable cb ∨ m = .ce ∧ cb = false ∨ m = .cb ∧ cb = true) →
          ∃ u, exec (.canopyScrubRead c word seen) s = .next u ∧ (u.core c).cmarks.get .clean word = .clean
            ∧ u.fld PRT_CNP_ECC.CE_CNT c = min PRT_CNP_ECC.CE_CNT.max (s.fld PRT_CNP_ECC.CE_CNT c + 1)
            ∧ u.fld PRT_CNP_ECC.CB_CNT c = (if cb then min PRT_CNP_ECC.CB_CNT.max (s.fld PRT_CNP_ECC.CB_CNT c + 1) else s.fld PRT_CNP_ECC.CB_CNT c)
            ∧ (u.core c).canopy = (s.core c).canopy ∧ s.SameCores u c ∧ s.SameBytes u [])
      ∧ (s.evtClass 1 2 ≠ 2 → ∀ seen, (m = .clean ∧ seen = .unfixable ∨ m = .ue) →
          ∃ u, exec (.canopyScrubRead c word seen) s = .next u ∧ (u.core c).cmarks.get .clean word = .poison
            ∧ u.fld PRT_CNP_ECC.UE_CNT c = min PRT_CNP_ECC.UE_CNT.max (s.fld PRT_CNP_ECC.UE_CNT c + 1)
            ∧ (u.core c).canopy = (s.core c).canopy ∧ s.SameCores u c ∧ s.SameBytes u []))
  ∧ (∀ (c : Lcid) (s : State), (∀ e ∈ (s.core c).cmarks, e.2 = .clean ∨ e.2 = .poison) →
      exec (.canopyScrubPassEnd c) s = .next (if s.fld PRT_CANOPY_CFG.SCRUB_EN (c / 32) = 0 then s
        else s.setReg .PRT_CNP_SCRUB c (BitVec.ofNat 64 s.now)))
  ∧ (∀ (p : PartId) (s : State),
      (s.restorable p = [] → exec (.goldenCopyRestore p) s = .next s)
      ∧ (∀ f g rest t o, s.restorable p = (f, g) :: rest → place g = .root t o → s.rtServes t = false →
          exec (.goldenCopyRestore p) s = .next s)
      ∧ (∀ f g rest t o, s.restorable p = (f, g) :: rest → place g = .root t o → g % 65536 = 0 → f < 2 ^ 24 → s.rtServes t = true →
          (s.tower t).used = [] → (s.tower t).shut = false → RTF_CFG.MODE.of (s.rtfCfg t) ≠ 1 → s.towerLevel t ≤ 3 →
          ∃ u, exec (.goldenCopyRestore p) s = .next u ∧ getBytes u.trunk (f * 65536) 65536 = getBytes s.root g 65536
            ∧ (∀ a, a < f * 65536 ∨ f * 65536 + 65536 ≤ a → getByte u.trunk a = getByte s.trunk a)
            ∧ (∀ j, f * 2048 ≤ j → j < f * 2048 + 2048 → u.tmarks.get .clean j = .clean)
            ∧ u.fld FLT_CNT.GOLDEN_FETCH 0 = min FLT_CNT.GOLDEN_FETCH.max (s.fld FLT_CNT.GOLDEN_FETCH 0 + 1)
            ∧ u = { s with regs := u.regs, trunk := u.trunk, tmarks := u.tmarks, hbm := u.hbm, towers := u.towers }
            ∧ s.SameRegs u [(.FLT_CNT, 0), (.TRK_REG, p * 16 + p), (.RTF_SLOT, t * 16 + p), (.RTF_READ, t)]))
  ∧ ∀ (s : State),
      (∀ n, ∃ u, exec (.leakyBucketDecay n) s = .next u ∧ u.flt.buckets.get 0 n = s.flt.buckets.get 0 n - 1
        ∧ (∀ m, m ≠ n → u.flt.buckets.get 0 m = s.flt.buckets.get 0 m) ∧ u = { s with flt := { s.flt with buckets := u.flt.buckets } })
      ∧ (∃ u, exec .faultNPulseEnd s = .next u ∧ u.fld FLT_PIN_CTL.PULSE 0 = 0 ∧ u.flt.pinLow = decide (s.fld FLT_PIN_CTL.LEVEL 0 = 1)
          ∧ u = { s with regs := u.regs, flt := { s.flt with pinLow := u.flt.pinLow } } ∧ s.SameRegs u [(.FLT_PIN_CTL, 0)])
      ∧ ((s.fld FLT_INJ_CTL.ACTIVE 0 = 1 ∨ s.fld FLT_INJ_TGT.COUNT 0 = 0) → exec .fltInjGo s = .next s)
      ∧ (s.fld FLT_INJ_CTL.ACTIVE 0 = 0 → s.fld FLT_INJ_TGT.COUNT 0 ≠ 0 → ∃ u, exec .fltInjGo s = .next u
          ∧ u.fld FLT_INJ_CTL.ACTIVE 0 = 1 ∧ u.fld FLT_INJ_CTL.REMAIN 0 = s.fld FLT_INJ_TGT.COUNT 0
          ∧ u.flt = { s.flt with injSource := s.fld FLT_INJ_TGT.SOURCE 0, injMode := decide (s.fld FLT_INJ_TGT.MODE 0 = 1)
                                 injLeak := decide (s.fld FLT_INJ_TGT.LEAK 0 = 1), injAddr := s.fld FLT_INJ_ADDR.ADDR 0
                                 injMask := s.fld FLT_INJ_MASK.MASK 0 }
          ∧ u = { s with regs := u.regs, flt := u.flt } ∧ s.SameRegs u [(.FLT_INJ_CTL, 0)])

/-- R350 to R354: debug opens after an erasure of every store, or the request is refused; the lifecycle state moves in its
direction only; measurements are answered; an authentic firmware image replaces the stored one. Model's choices: debug
tokens, the erasure as one command, and signatures (log 22, 62). -/
def Obligations.Security : Prop :=
  ∀ (s : State),
    let lc := s.fld SEC_LC.STATE 0
    let erased := fun u : State => u.sec.keys = [] ∧ u.sec.groupKey = [] ∧ u.sec.retained = [] ∧ u.root = [] ∧ u.rmarks = []
      ∧ (∀ st, st < 16 → u.frames st = []) ∧ (∀ x, (u.ctx x).key = 0) ∧ u.cores = s.cores ∧ u.trunk = s.trunk
      ∧ (∀ t, t < 16 → s.rtState t ≠ 0 → (u.tower t).waitWr = [] ∧ (u.tower t).buffer = [] ∧ u.fld RTF_STATUS.BUF_TILES t = 0)
      ∧ s.SameRegs u ((.SEC_DBG, 0) :: (List.range 16).map fun t => (.RTF_STATUS, t))
    let allowed := fun tok : DebugToken => tok.fresh = true ∧ s.fld SEC_DBG.DEBUG_STATE 0 = 0 ∧ s.sec.eraseLc = none
      ∧ (lc = 1 ∨ (lc = 2 ∧ tok.fenfort = true ∧ tok.owner = true) ∨ (lc = 3 ∧ tok.fenfort = true))
    (∀ tok, allowed tok → exec (.debugRequest tok) s = .next ((List.range 16).foldl State.partReset (s.setFld SEC_DBG.DEBUG_STATE 0 1)))
    ∧ (∀ tok, ¬ allowed tok → exec (.debugRequest tok) s = .next (s.inc SEC_DBG.DBG_REFUSED 0))
    -- it waits for every core's clear; in RETIRED no erase nonce is left
    ∧ ((∃ c, c < 512 ∧ (s.fld PRT_CNP_STATUS.CLEAR_BUSY c = 1 ∨ (s.core c).wantClear = true)) → exec .debugOpen s = .next s)
    ∧ ((∀ c, c < 512 → s.fld PRT_CNP_STATUS.CLEAR_BUSY c = 0 ∧ s.NoClear c) →
        (s.fld SEC_DBG.DEBUG_STATE 0 = 1 → ∃ u, exec .debugOpen s = .next u ∧ erased u ∧ u.fld SEC_DBG.DEBUG_STATE 0 = 2
          ∧ u.sec.eraseNonce = s.freeCnt + 1)
        ∧ (s.fld SEC_DBG.DEBUG_STATE 0 = 0 → s.sec.eraseLc ≠ none → ∃ u, exec .debugOpen s = .next u ∧ erased u ∧ u.sec.eraseLc = none
            ∧ u.fld SEC_DBG.DEBUG_STATE 0 = 0 ∧ u.sec.eraseNonce = if s.sec.eraseLc = some 4 then 0 else s.freeCnt + 1))
    ∧ (∀ n : BitVec 4, let m := n.toNat
        ((lc, m) ∉ [(1, 2), (2, 3), (2, 4), (3, 4)] → exec (.lifecycleChange n) s = .next s)
        ∧ (lc = 1 → m = 2 → exec (.lifecycleChange n) s = .next (s.setFld SEC_LC.STATE 0 2))
        ∧ ((lc, m) ∈ [(2, 3), (2, 4), (3, 4)] → exec (.lifecycleChange n) s = .next ((List.range 16).foldl State.partReset
            ({ s.setFld SEC_LC.STATE 0 m with sec := { s.sec with eraseLc := some m } }))))
    ∧ (∀ ix : BitVec 8, let answers := fun bs : List Byte => exec (.spdmGetMeasurements ix) s = .next (s.send (.spdm ix.toNat bs))
        (ix = 1 → answers [BitVec.ofNat 8 lc, BitVec.ofNat 8 (s.fld SEC_BOOT.BOOT_STATE 0), BitVec.ofNat 8 (s.fld SEC_DBG.DEBUG_STATE 0)])
        ∧ (ix = 4 → answers (leBytes (s.fld SEC_BOOT.ROLLBACK 0) 4 ++ leBytes (s.fld SEC_BOOT.FW_SVN 0) 4))
        ∧ (∀ i, i < 16 → ix.toNat = 0x10 + i → s.iState i ≠ 0 → answers ((leBytes (s.inst i).image.digest.toNat 48).reverse
            ++ leBytes (s.inst i).image.groupMask 2 ++ leBytes (s.iState i) 1)))
    ∧ ∀ img : FwImage,
        (img.signed = true → s.fld SEC_BOOT.ROLLBACK 0 ≤ img.svn.toNat → exec (.pldmFirmwareUpdate img) s = .next
          { s with sec := { s.sec with fwMajor := img.major.toNat, fwMinor := img.minor.toNat, bootSvn := img.svn.toNat } })
        ∧ ((img.signed = false ∨ img.svn.toNat < s.fld SEC_BOOT.ROLLBACK 0) → exec (.pldmFirmwareUpdate img) s = .next s)

/-- R13, R425, R430, R434, R435, R442: supply good, each stage of the start sequence when its turn comes, the profile pins, and the
deassertion of PERST_N. Model's choices: what ends each stage (log 63). -/
def Obligations.StartSequence : Prop :=
  ∀ (s : State),
    let ends := fun (u : State) (k : Nat) => u.power.stages = k :: s.power.stages ∧ u.cores = s.cores ∧ s.SameBytes u []
    let due := fun k : Nat => s.stageDue k = true
    let prof := s.fld PWR_STATUS.PROFILE 0
    (∀ vq : BitVec 8, 168 ≤ vq.toNat → s.power.on = false → ∃ u, exec (.vin48Good vq) s = .next u ∧ u.power = { s.power with on := true }
        ∧ u.fld PWR_STATUS.VIN48_Q 0 = vq.toNat ∧ u = { s with regs := u.regs, power := u.power } ∧ s.SameRegs u [(.PWR_STATUS, 0)])
    ∧ (∀ vq : BitVec 8, 168 ≤ vq.toNat → s.power.on = true → s.power.save ≠ none → ∃ u, exec (.vin48Good vq) s = .next u
        ∧ u.power = { s.power with vinBack := true })
    ∧ (∀ k ok bad, s.stageDue k.val = false → exec (.startStageEnd k ok bad) s = .next s)
    ∧ (due 1 → ∀ ok bad, exec (.startStageEnd 1 ok bad) s = .next (s.endStage 1))
    ∧ (due 2 → ∀ bad,
        (s.fld SEC_BOOT.ROLLBACK 0 ≤ s.sec.bootSvn → s.sec.bootSvn < 2 ^ 16 → s.sec.fwMajor < 256 → s.sec.fwMinor < 256 →
          ∃ u, exec (.startStageEnd 2 true bad) s = .next u ∧ ends u 2 ∧ u.fld SEC_BOOT.BOOT_STATE 0 = 1 ∧ u.fld SEC_BOOT.FW_SVN 0 = s.sec.bootSvn
            ∧ u.fld HUB_ID.FW_MAJOR 0 = s.sec.fwMajor ∧ u.fld HUB_ID.FW_MINOR 0 = s.sec.fwMinor ∧ s.SameRegs u [(.SEC_BOOT, 0), (.HUB_ID, 0)])
        ∧ exec (.startStageEnd 2 false bad) s = .next (s.setFld SEC_BOOT.BOOT_STATE 0 2)
        ∧ (s.sec.bootSvn < s.fld SEC_BOOT.ROLLBACK 0 → exec (.startStageEnd 2 true bad) s = .next (s.setFld SEC_BOOT.BOOT_STATE 0 2)))
    ∧ (∀ v : BitVec 2, ∃ u, exec (.profSample v) s = .next u ∧ u.power.pins = v.toNat
        ∧ (due 3 → u.fld PWR_STATUS.PROFILE 0 = v.toNat ∧ u.fld PWR_STATUS.PROF_PINS 0 = v.toNat ∧ ends u 3 ∧ s.SameRegs u [(.PWR_STATUS, 0)])
        ∧ (s.stageDue 3 = false → u = s.modPower fun p => { p with pins := v.toNat }))
    ∧ (due 4 → ∀ ok bad,
        (s.ntu.pllLocked = true → ∃ u, exec (.startStageEnd 4 ok bad) s = .next u ∧ ends u 4
          ∧ ∀ st, st < 16 → u.tkState st = if st < profStacks prof ∧ s.tkState st = 0 then 1 else s.tkState st)
        ∧ (s.ntu.pllLocked = false → exec (.startStageEnd 4 ok bad) s = .next s))
    ∧ (due 5 → ∀ ok bad, ∃ u, exec (.startStageEnd 5 ok bad) s = .next u ∧ ends u 5
        -- LCID k of a cluster is its k-th working core, in a position from 0 to 8; where there is none it is absent
        ∧ (∀ cl k, cl < 64 → k < 8 →
            let work := (List.range 9).filter fun q => !maskBit (s.dead.get 0 cl) q
            (cl * 8 + k ∈ u.absent ↔ work.length ≤ k) ∧ ∀ q, work[k]? = some q → u.lcidPos.get 0 (cl * 8 + k) = q + 1)
        ∧ ∀ l, l < 8 → u.linkState l = if s.fld ZXL_LNK_CTL.EN l = 1 ∧ s.linkState l = 0 then 1 else s.linkState l)
    ∧ (due 6 → ∀ ok, ∃ u, exec (.startStageEnd 6 ok 0) s = .next u ∧ u.power.stages = 6 :: s.power.stages
        ∧ ∀ st, st < profStacks prof → s.tkState st = 1 → u.tkState st = 2 ∧ u.rtState st = 1)
    ∧ (due 7 → ∀ ok, (∀ t, t < 16 → s.rtState t ≠ 1) → exec (.startStageEnd 7 ok 0) s = .next (s.endStage 7))
    ∧ (due 7 → ∀ ok t, t < 16 → s.rtState t = 1 → exec (.startStageEnd 7 ok 0) s = .next s)
    ∧ (due 8 → ∀ ok bad, exec (.startStageEnd 8 ok bad) s = .next (s.endStage 8))
    ∧ (due 9 → ∀ ok bad, exec (.startStageEnd 9 ok bad) s = .next (if s.fld PWR_STATUS.VHOLD_OK 0 = 1 then s.endStage 9 else s))
    ∧ (due 10 → s.ctxs = [] → ∀ ok bad, ∃ u, exec (.startStageEnd 10 ok bad) s = .next u ∧ ends u 10 ∧ u.fld HIF_STATUS.READY 0 = 1
        ∧ u.fld HUB_CAP_RES.RES_GEN 0 = (s.fld HUB_CAP_RES.RES_GEN 0 + 1) % 256
        ∧ (∀ f ∈ [HUB_CAP_RES.PART_PRESENT, HUB_CAP_RES.CORES_ACTIVE, HUB_CAP_RES.TRUNK_GIB, HUB_CAP_RES.ROOT_TIB, HUB_CAP_RES.ZX_LINKS],
            u.fld f 0 = f.of s.capsNow)
        ∧ u.fld SEC_BOOT.ROLLBACK 0 = max (s.fld SEC_BOOT.ROLLBACK 0) (min s.sec.bootSvn SEC_BOOT.ROLLBACK.max))
    ∧ (due 11 → ∀ ok bad, exec (.startStageEnd 11 ok bad) s = .next (if s.dState = 2 then s.endStage 11 else s))
    ∧ ∀ width code rate, (width, code) ∈ [(1, 1), (4, 2), (8, 3), (16, 4)] → 1 ≤ rate → rate ≤ 8 → s.running = true → s.profile ≠ 4 →
        ∃ u, exec (.perstNDeassert width rate) s = .next u ∧ u.fld HIF_STATUS.LINK_WIDTH 0 = code ∧ u.fld HIF_STATUS.LINK_RATE 0 = rate - 1
          ∧ u.power = { s.power with perstHigh := true, wakeLow := false } ∧ u = { s with regs := u.regs, power := u.power }
          ∧ s.SameRegs u [(.HIF_STATUS, 0)]

/-- R401, R407, R410, R425, R426, R440, R441, R443 to R445: low supplies, hold-up, the save, throttling and shutdown; the
record that the fault collector writes and its FAULT_N pulse. Model's choices: the gate on throttle changes (log 66). -/
def Obligations.SupplyAndThermal : Prop :=
  ∀ (s : State),
    let n := s.fld FLT_STATUS.LOG_WR 0
    let cls := s.evtClass 0xB 7
    -- a STATE event of the power controller is logged, and pulls FAULT_N low where it is armed
    let logged := fun (u : State) (e : Evt) => 64 ≤ s.logFree → u.flt.log.get [] (n % 1024) = e.record n s.now cls false
      ∧ u.fld FLT_STATUS.LOG_WR 0 = (n + 1) % 2 ^ 32
      ∧ (s.fld FLT_PIN_CTL.ARM 0 = 1 → s.fld FLT_PIN_CTL.PULSE 0 = 0 → s.fld FLT_PIN_CTL.THRESH 0 ≤ cls →
          u.flt.pinLow = true ∧ u.fld FLT_PIN_CTL.ARM 0 = 0 ∧ u.fld FLT_PIN_CTL.PULSE 0 = 1)
      ∧ (cls = 0 → u.fld FLT_CNT.CORR_CNT 0 = min FLT_CNT.CORR_CNT.max (s.fld FLT_CNT.CORR_CNT 0 + 1))
    let dark := fun (u : State) (cause : Nat) => (∀ c a, getByte (u.core c).canopy a = 0) ∧ (∀ c t, (u.thr c t).state = .inactive)
      ∧ u.power.save = some cause ∧ u.power.vinBack = false ∧ u.power.prof = none ∧ u.power.warm = none
      ∧ (∀ st, st < 16 → u.tkState st = 0)
      ∧ (s.fatal = true → ∀ st, st < 16 → s.tkState st ≠ 0 → ∀ a, trunkDpa st 0 ≤ a → a < trunkDpa (st + 1) 0 → getByte u.trunk a = 0)
    (∀ vq : BitVec 8, vq.toNat < 160 → s.running = true → cls ≠ 2 → ∃ u, exec (.vin48Low vq) s = .next u
        ∧ u.fld PWR_STATUS.VIN48_Q 0 = vq.toNat ∧ logged u { cls := 0xB, ins := 0, evt := 7, value := vq.toNat } ∧ u.cores = s.cores ∧ s.SameBytes u [])
    ∧ (∀ vq : BitVec 8, vq.toNat < 208 → s.fld PWR_STATUS.VHOLD_OK 0 = 1 → s.running = true → cls ≠ 2 →
        ∃ u, exec (.vholdOkFall vq) s = .next u ∧ u.fld PWR_STATUS.VHOLD_OK 0 = 0 ∧ u.fld PWR_STATUS.VHOLD_Q 0 = vq.toNat
          ∧ u.fld PWR_CNT.VHOLD_LOSS 0 = min PWR_CNT.VHOLD_LOSS.max (s.fld PWR_CNT.VHOLD_LOSS 0 + 1)
          ∧ logged u { cls := 0xB, ins := 1, evt := 7, value := vq.toNat } ∧ u.cores = s.cores ∧ s.SameBytes u [])
    ∧ (∀ vq : BitVec 8, 208 ≤ vq.toNat → (∀ t, t < 16 → (s.tower t).waitWr = []) → ∃ u, exec (.vholdOkRise vq) s = .next u
        ∧ u.fld PWR_STATUS.VHOLD_OK 0 = 1 ∧ u.fld PWR_STATUS.VHOLD_Q 0 = vq.toNat ∧ s.SameRegs u [(.PWR_STATUS, 0)]
        ∧ u = { s with regs := u.regs, power := u.power }
        ∧ u.power.stages = if s.stageDue 9 then 9 :: s.power.stages else s.power.stages)
    ∧ (∀ (vq : BitVec 8) (t tile : Nat) (data : List Byte), 208 ≤ vq.toNat → t < 16 → (s.tower t).waitWr = [(tile, data)] → data.length = 65536 →
        (∀ j, j < 16 → j ≠ t → (s.tower j).waitWr = []) → (s.tower t).buffer.length < 64 → s.rtServes t = true → s.evtClass 5 6 ≠ 2 →
        ∃ u, exec (.vholdOkRise vq) s = .next u ∧ u.fld PWR_STATUS.VHOLD_OK 0 = 1 ∧ (u.tower t).waitWr = []
          ∧ (u.tower t).buffer = (s.tower t).buffer ++ [tile] ∧ getBytes u.root (rootFrame t tile * 65536) 65536 = data)
    ∧ (s.running = true → ∃ u, exec .supplySag s = .next u ∧ dark u 3 ∧ u.fld PWR_STATUS.VIN48_Q 0 < 152)
    ∧ (∀ inst temp : BitVec 8, s.running = true → s.profile ≠ 4 → inst.toNat ∈ sensors → pointThrottle inst.toNat + 10 ≤ temp.toNat →
        ∃ u, exec (.thermalShutdown inst temp) s = .next u ∧ dark u 4)
    -- the save ends
    ∧ (∀ us mj, s.power.save = none → exec (.sagSaveEnd us mj) s = .next s)
    ∧ (∀ us mj, us < 2 ^ 16 → mj < 2 ^ 16 → s.regs.sorted = true →
        let saved := fun (u : State) (cause : Nat) => u.fld PWR_SAG.SAVE_US 0 = us ∧ u.fld PWR_SAG.SAVE_MJ 0 = mj ∧ u.fld PWR_STATUS.SAG_LOG_VALID 0 = 1
          ∧ u.fld PWR_STATUS.RESET_CAUSE 0 = cause ∧ u.flt.saved = s.flt.log ∧ u.power.servoSaved = true ∧ u.power.save = none ∧ u.trunk = []
          ∧ (∀ t, (u.tower t).buffer = []) ∧ (∀ x, (u.ctx x).objs = [])
        (s.power.save = some 3 → ∃ u, exec (.sagSaveEnd us mj) s = .next u ∧ saved u 3 ∧ u.cores = [] ∧ u.ntu = {}
          ∧ u.fld PWR_CNT.SAGS 0 = min PWR_CNT.SAGS.max (s.fld PWR_CNT.SAGS 0 + 1) ∧ u.power.on = s.power.vinBack)
        ∧ (s.power.save = some 4 → ∃ u, exec (.sagSaveEnd us mj) s = .next u ∧ saved u 4 ∧ u.profile = 4 ∧ u.power.before = s.profile
            ∧ ((s.timeSourceUp = false ∨ s.dState ≠ 2) → u.ntu = s.ntu)
            ∧ u.fld PWR_CNT.THERM_SHUTDOWNS 0 = min PWR_CNT.THERM_SHUTDOWNS.max (s.fld PWR_CNT.THERM_SHUTDOWNS 0 + 1)))
    -- throttle levels
    ∧ ∀ inst temp : BitVec 8, s.running = true → inst.toNat ∈ sensors →
        let i := inst.toNat
        let level := fun u : State => u.power.level.get 0 i
        let rest := fun u : State => u.power.temp.get 0 i = temp.toNat ∧ (∀ j, j ≠ i → u.power.level.get 0 j = s.power.level.get 0 j)
          ∧ (pointThrottle i ≤ temp.toNat → u.fld PWR_STATUS.THERM 0 = 1) ∧ u.cores = s.cores ∧ s.SameBytes u []
        (pointThrottle i ≤ temp.toNat → level s < 3 → s.since i 10000 = true → (level s = 0 → cls ≠ 2) →
          ∃ u, exec (.throttleRise inst temp) s = .next u ∧ level u = level s + 1 ∧ rest u
            ∧ (level s = 0 → u.fld PWR_CNT.THROT_ENTRIES 0 = min PWR_CNT.THROT_ENTRIES.max (s.fld PWR_CNT.THROT_ENTRIES 0 + 1)
                ∧ logged u { cls := 0xB, ins := i, evt := 7, value := temp.toNat }))
        ∧ ((temp.toNat < pointThrottle i ∨ level s = 3 ∨ s.since i 10000 = false) → level s ≤ 3 →
            ∃ u, exec (.throttleRise inst temp) s = .next u ∧ level u = level s ∧ rest u)
        ∧ (temp.toNat < pointThrottle i - 5 → 0 < level s → s.since i 100000 = true →
            ∃ u, exec (.throttleFall inst temp) s = .next u ∧ level u = level s - 1 ∧ rest u)
        ∧ ((pointThrottle i - 5 ≤ temp.toNat ∨ level s = 0 ∨ s.since i 100000 = false) →
            ∃ u, exec (.throttleFall inst temp) s = .next u ∧ level u = level s ∧ rest u)

/-- R41, R142, R360, R436 to R438: a warm reset waits for buffered stores, or not in the fatal state; what it keeps and what
it clears, the clears it counts, and a time source that goes down with it; an FLR of PF0 removes the admin context and
leaves the rest. Model's choices: the registers and fields a reset keeps (log 65). -/
def Obligations.Resets : Prop :=
  ∀ (s : State),
    let restarted := fun (u : State) (cause : Nat) => u.fld PWR_STATUS.RESET_CAUSE 0 = cause ∧ u.fld PWR_STATUS.PROFILE 0 = s.fld PWR_STATUS.PROFILE 0
      ∧ u.trunk = [] ∧ u.insts = [] ∧ u.seqs = [] ∧ u.steps = [] ∧ u.links = [] ∧ u.qps = [] ∧ u.mems = []
      ∧ (∀ c a, getByte (u.core c).canopy a = 0) ∧ (∀ c t, (u.thr c t).state = .inactive) ∧ (∀ x, (u.ctx x).objs = [] ∧ u.cState x = 0)
      ∧ u.power.stages = s.power.stages.filter (· ≤ 4) ∧ u.power.warm = none ∧ u.host = s.host
      -- network time goes on; where the link it comes from goes down, a lock is lost
      ∧ ((s.timeSourceUp = false ∨ s.dState ≠ 2) → u.ntu = s.ntu ∧ u.flt.log = s.flt.log
          ∧ (∀ r ∈ warmWhole, r ≠ .PWR_STATUS → ∀ i, u.reg r i = s.reg r i)
          ∧ (∀ r, r ∉ warmWhole → (∀ f ∈ warmFields, f.reg ≠ r) → ∀ i, u.reg r i = regReset r i)
          ∧ (s.regs.sorted = true → (∀ f ∈ warmFields, f ≠ PRT_CNP_STATUS.CLEAR_CNT → ∀ i, u.fld f i = s.fld f i)
              ∧ ∀ c, c < 512 → u.fld PRT_CNP_STATUS.CLEAR_CNT c = if c ∈ s.absent then s.fld PRT_CNP_STATUS.CLEAR_CNT c
                  else min PRT_CNP_STATUS.CLEAR_CNT.max (s.fld PRT_CNP_STATUS.CLEAR_CNT c + 1)))
      ∧ (8 ≤ s.tsrc → s.timeSourceUp = true → s.dState = 2 → u.dState = 3)
    (∀ cause : Fin 3, cause.val ≠ 0 → s.running = true → s.warming = false → s.profile ≠ 4 →
      (s.fatal = true → ∃ u, exec (.warmReset cause) s = .next u ∧ restarted u cause)
      ∧ (s.fatal = false → (∀ e ∈ s.towers, e.2.waitWr = []) → s.links.any (fun e => e.2.waiting ≠ []) = false → ∃ u, exec (.warmReset cause) s = .next u ∧ restarted u cause)
      ∧ (s.fatal = false → (∀ e ∈ s.towers, e.2.waitWr = []) → s.links.any (fun e => e.2.waiting ≠ []) = true →
          ∃ u, exec (.warmReset cause) s = .next u ∧ u.power.warm = some cause.val ∧ u = { s with power := u.power }))
    ∧ (∀ cause, s.power.warm = some cause → cause < 16 → ∃ u, exec .bufferedStoreTimeout s = .next u ∧ restarted u cause)
    ∧ (s.power.warm = none → exec .bufferedStoreTimeout s = .next s)
    ∧ (∃ u, exec .flrPf0 s = .next u ∧ u.ctx 4096 = {}
        ∧ (∀ r ∈ [RegId.HIF_ADM_SQ, .HIF_ADM_CQ, .HIF_ADM_EQ, .HIF_ADM_CFG, .HIF_ADM_CTL], u.reg r 0 = regReset r 0)
        ∧ s.SameRegs u [(.HIF_ADM_SQ, 0), (.HIF_ADM_CQ, 0), (.HIF_ADM_EQ, 0), (.HIF_ADM_CFG, 0), (.HIF_ADM_CTL, 0)]
        ∧ (u.power.prof.map (·.profile)) = (s.power.prof.map (·.profile)) ∧ (∀ j, u.power.prof = some j → j.done = none)
        ∧ (s.snapFree = [] → (∀ x, x ≠ 4096 → u.ctx x = s.ctx x) ∧ (∀ i, (u.inst i).image = (s.inst i).image)
            ∧ u = { s with regs := u.regs, ctxs := u.ctxs, power := u.power, insts := u.insts, snaps := u.snaps, migs := u.migs }))

/-- The model's step (no numbered rule): the command in front of the queue takes effect on the rest of the state, with the
queue's rest; an empty queue lets a tick pass. Model's choices: the queue, and the idle tick of an empty one (log 1, 2). -/
def Obligations.StepTakesFront : Prop :=
  (∀ (c : Instr) (rest : List Instr) (s : State), step { s with pending := c :: rest } = exec c { s with pending := rest })
  ∧ (∀ s : State, s.pending = [] → step s = .next s.idleTick)
  ∧ (∀ s : State, s.pending = [] → s.power.on = false → step s = .next s)

/-- The state after reset is canonical (R11, R19): the reset values of HUB_ID, and every memory in its one form. -/
def Obligations.CanonicalAtReset : Prop := State.reset.Canonical ∧ State.reset.pending = []

/-- Every command completes, and every step keeps the canonical form (R19, and the model's one form of memories, log 6):
from every canonical state, reached or not, a step answers a next state, that state is canonical, and the queue has lost its
front and nothing else. -/
def Obligations.EveryStepKeepsCanonical : Prop :=
  ∀ s : State, s.Canonical → ∃ u, step s = .next u ∧ u.Canonical ∧ u.pending = s.pending.tail
end

