-- ==== Sys2Proof/Laws/Maps.lean ====
section
/-! SUPPORT. Laws of the sparse maps: reading after writing, and the canonical form, which every operation on a memory
keeps. -/

namespace Sys2Proof.Machine

variable {α : Type}

@[simp] theorem SMap.get_nil (d : α) (k : Nat) : SMap.get d [] k = d := rfl

theorem SMap.get_erase_same (d : α) (m : SMap α) (k : Nat) : SMap.get d (m.erase k) k = d := by
  induction m with
  | nil => rfl
  | cons e m ih =>
    obtain ⟨j, v⟩ := e
    by_cases h : j = k
    · simpa [SMap.erase, h] using ih
    · simpa [SMap.erase, h, SMap.get] using ih

theorem SMap.get_erase_ne (d : α) (m : SMap α) {k q : Nat} (h : q ≠ k) : SMap.get d (m.erase k) q = SMap.get d m q := by
  induction m with
  | nil => rfl
  | cons e m ih =>
    obtain ⟨j, v⟩ := e
    by_cases hj : j = k
    · subst hj
      simpa [SMap.erase, SMap.get, Ne.symm h] using ih
    · by_cases hq : j = q
      · subst hq
        simp [SMap.erase, hj, SMap.get]
      · simpa [SMap.erase, hj, SMap.get, hq] using ih

theorem SMap.get_insert_same (d : α) (m : SMap α) (k : Nat) (v : α) : SMap.get d (m.insert k v) k = v := by
  induction m with
  | nil => simp [SMap.insert, SMap.get]
  | cons e m ih =>
    obtain ⟨j, w⟩ := e
    by_cases hj : j = k
    · simp [SMap.insert, hj, SMap.get]
    · by_cases hk : k < j
      · simp [SMap.insert, hj, hk, SMap.get]
      · simpa [SMap.insert, hj, hk, SMap.get] using ih

theorem SMap.get_insert_ne (d : α) (m : SMap α) {k q : Nat} (v : α) (h : q ≠ k) :
    SMap.get d (m.insert k v) q = SMap.get d m q := by
  induction m with
  | nil => simp [SMap.insert, SMap.get, Ne.symm h]
  | cons e m ih =>
    obtain ⟨j, w⟩ := e
    by_cases hj : j = k
    · subst hj
      simp [SMap.insert, SMap.get, Ne.symm h]
    · by_cases hk : k < j
      · simp [SMap.insert, hj, hk, SMap.get, Ne.symm h]
      · by_cases hq : j = q
        · subst hq
          simp [SMap.insert, hj, hk, SMap.get]
        · simpa [SMap.insert, hj, hk, SMap.get, hq] using ih

/-- A read after a write to the same place gives the value written. -/
@[simp] theorem SMap.get_set_same [DecidableEq α] (d : α) (m : SMap α) (k : Nat) (v : α) : SMap.get d (m.set d k v) k = v := by
  unfold SMap.set
  split
  · next h => rw [SMap.get_erase_same, h]
  · exact SMap.get_insert_same d m k v

/-- A write leaves every other place alone. -/
theorem SMap.get_set_ne [DecidableEq α] (d e : α) (m : SMap α) {k q : Nat} (v : α) (h : q ≠ k) :
    SMap.get e (m.set d k v) q = SMap.get e m q := by
  unfold SMap.set
  split
  · exact SMap.get_erase_ne e m h
  · exact SMap.get_insert_ne e m v h

/-! ### The canonical form -/

theorem SMap.sorted_cons {e : Nat × α} {m : SMap α} :
    SMap.sorted (e :: m) = true ↔ (∀ x ∈ m, e.1 < x.1) ∧ SMap.sorted m = true := by
  induction m generalizing e with
  | nil => simp [SMap.sorted]
  | cons f m ih =>
    obtain ⟨j, v⟩ := e
    obtain ⟨k, w⟩ := f
    simp only [SMap.sorted, Bool.and_eq_true, decide_eq_true_eq, List.mem_cons, forall_eq_or_imp]
    constructor
    · rintro ⟨hjk, hs⟩
      refine ⟨⟨hjk, fun x hx => ?_⟩, hs⟩
      exact lt_trans hjk ((ih.mp hs).1 x hx)
    · rintro ⟨⟨hjk, -⟩, hs⟩
      exact ⟨hjk, hs⟩

theorem SMap.mem_erase {m : SMap α} {k : Nat} {e : Nat × α} (h : e ∈ m.erase k) : e ∈ m := by
  induction m with
  | nil => simp [SMap.erase] at h
  | cons f m ih =>
    obtain ⟨j, v⟩ := f
    by_cases hj : j = k
    · simp only [SMap.erase, hj, if_true] at h
      exact List.mem_cons_of_mem _ (ih h)
    · simp only [SMap.erase, hj, if_false, List.mem_cons] at h
      rcases h with h | h
      · exact h ▸ List.mem_cons_self
      · exact List.mem_cons_of_mem _ (ih h)

theorem SMap.mem_insert {m : SMap α} {k : Nat} {v : α} {e : Nat × α} (h : e ∈ m.insert k v) : e = (k, v) ∨ e ∈ m := by
  induction m with
  | nil => simpa [SMap.insert] using h
  | cons f m ih =>
    obtain ⟨j, w⟩ := f
    by_cases hj : j = k
    · simp only [SMap.insert, hj, if_true, List.mem_cons] at h
      rcases h with h | h
      · exact .inl h
      · exact .inr (List.mem_cons_of_mem _ h)
    · by_cases hk : k < j
      · simp only [SMap.insert, hj, if_false, hk, if_true, List.mem_cons] at h
        rcases h with h | h
        · exact .inl h
        · exact .inr (by simpa using h)
      · simp only [SMap.insert, hj, if_false, hk, List.mem_cons] at h
        rcases h with h | h
        · exact .inr (h ▸ List.mem_cons_self)
        · rcases ih h with h | h
          · exact .inl h
          · exact .inr (List.mem_cons_of_mem _ h)

theorem SMap.sorted_erase {m : SMap α} (k : Nat) (h : m.sorted = true) : (m.erase k).sorted = true := by
  induction m with
  | nil => exact h
  | cons f m ih =>
    obtain ⟨j, v⟩ := f
    have hm := SMap.sorted_cons.mp h
    by_cases hj : j = k
    · simpa [SMap.erase, hj] using ih hm.2
    · simp only [SMap.erase, hj, if_false]
      exact SMap.sorted_cons.mpr ⟨fun x hx => hm.1 x (SMap.mem_erase hx), ih hm.2⟩

theorem SMap.sorted_insert {m : SMap α} (k : Nat) (v : α) (h : m.sorted = true) : (m.insert k v).sorted = true := by
  induction m with
  | nil => rfl
  | cons f m ih =>
    obtain ⟨j, w⟩ := f
    have hm := SMap.sorted_cons.mp h
    by_cases hj : j = k
    · subst hj
      simp only [SMap.insert, if_true]
      exact SMap.sorted_cons.mpr ⟨hm.1, hm.2⟩
    · by_cases hk : k < j
      · simp only [SMap.insert, hj, if_false, hk, if_true]
        refine SMap.sorted_cons.mpr ⟨fun x hx => ?_, h⟩
        rcases List.mem_cons.mp hx with hx | hx
        · rw [hx]; exact hk
        · exact lt_trans hk (hm.1 x hx)
      · simp only [SMap.insert, hj, if_false, hk]
        refine SMap.sorted_cons.mpr ⟨fun x hx => ?_, ih hm.2⟩
        rcases SMap.mem_insert hx with hx | hx
        · rw [hx]; show j < k; omega
        · exact hm.1 x hx

/-- A write keeps the canonical form. -/
theorem SMap.wf_set [DecidableEq α] {d : α} {m : SMap α} (k : Nat) (v : α) (h : m.wf (fun _ => d) = true) :
    (m.set d k v).wf (fun _ => d) = true := by
  simp only [SMap.wf, Bool.and_eq_true, List.all_eq_true, decide_eq_true_eq] at h ⊢
  unfold SMap.set
  split
  · exact ⟨SMap.sorted_erase k h.1, fun x hx => h.2 x (SMap.mem_erase hx)⟩
  · next hv =>
    refine ⟨SMap.sorted_insert k v h.1, fun x hx => ?_⟩
    rcases SMap.mem_insert hx with hx | hx
    · rw [hx]; exact hv
    · exact h.2 x hx

theorem SMap.sorted_filter {m : SMap α} (p : Nat × α → Bool) (h : m.sorted = true) :
    SMap.sorted (m.filter p) = true := by
  induction m with
  | nil => exact h
  | cons f m ih =>
    have hm := SMap.sorted_cons.mp h
    rw [List.filter_cons]
    split
    · exact SMap.sorted_cons.mpr ⟨fun x hx => hm.1 x (List.mem_of_mem_filter hx), ih hm.2⟩
    · exact ih hm.2

/-- A map with entries left out keeps the canonical form. -/
theorem SMap.wf_filter [DecidableEq α] {d : Nat → α} {m : SMap α} (p : Nat × α → Bool) (h : m.wf d = true) :
    SMap.wf d (m.filter p) = true := by
  simp only [SMap.wf, Bool.and_eq_true, List.all_eq_true, decide_eq_true_eq] at h ⊢
  exact ⟨SMap.sorted_filter p h.1, fun x hx => h.2 x (List.mem_of_mem_filter hx)⟩

/-! ### Byte memories -/

theorem Memory.wf_setByte {m : SMap Byte} (a : Nat) (b : Byte) (h : Memory.wf m = true) :
    Memory.wf (setByte m a b) = true := SMap.wf_set a b h

theorem Memory.wf_setBytes {m : SMap Byte} (a : Nat) (bs : List Byte) (h : Memory.wf m = true) :
    Memory.wf (setBytes m a bs) = true := by
  induction bs generalizing m a with
  | nil => exact h
  | cons b bs ih => exact ih (a + 1) (Memory.wf_setByte a b h)

theorem Memory.wf_zeroBytes {m : SMap Byte} (a n : Nat) (h : Memory.wf m = true) :
    Memory.wf (zeroBytes m a n) = true := SMap.wf_filter _ h

@[simp] theorem getByte_setByte_same (m : SMap Byte) (a : Nat) (b : Byte) : getByte (setByte m a b) a = b :=
  SMap.get_set_same 0 m a b

theorem getByte_setByte_ne (m : SMap Byte) {a x : Nat} (b : Byte) (h : x ≠ a) : getByte (setByte m a b) x = getByte m x :=
  SMap.get_set_ne 0 0 m b h

/-- Bytes outside those written read as before. -/
theorem getByte_setBytes_ne (m : SMap Byte) {a x : Nat} (bs : List Byte) (h : x < a ∨ a + bs.length ≤ x) :
    getByte (setBytes m a bs) x = getByte m x := by
  induction bs generalizing m a with
  | nil => rfl
  | cons b bs ih =>
    simp only [List.length_cons] at h
    rw [setBytes, ih _ (by omega), getByte_setByte_ne _ _ (by omega)]

/-- A byte among those written reads as written. -/
theorem getByte_setBytes (m : SMap Byte) {a i : Nat} (bs : List Byte) (h : i < bs.length) :
    getByte (setBytes m a bs) (a + i) = bs[i] := by
  induction bs generalizing m a i with
  | nil => simp at h
  | cons b bs ih =>
    cases i with
    | zero =>
      rw [setBytes, getByte_setBytes_ne _ _ (by omega)]
      exact getByte_setByte_same m a b
    | succ i =>
      have := ih (setByte m a b) (a := a + 1) (i := i) (by simpa using h)
      rw [setBytes, show a + (i + 1) = a + 1 + i by omega, this]
      rfl

theorem getBytes_length (m : SMap Byte) (a n : Nat) : (getBytes m a n).length = n := by
  induction n generalizing a with
  | zero => rfl
  | succ n ih => simp [getBytes, ih]

theorem leBytes_length (v n : Nat) : (leBytes v n).length = n := by
  induction n generalizing v with
  | zero => rfl
  | succ n ih => simp [leBytes, ih]

/-- The bytes of a number read back as the number. -/
theorem leNat_leBytes (v n : Nat) : leNat (leBytes v n) = v % 256 ^ n := by
  induction n generalizing v with
  | zero => simp [leBytes, leNat, Nat.mod_one]
  | succ n ih =>
    rw [leBytes, leNat, ih, BitVec.toNat_ofNat, show (256 : Nat) ^ (n + 1) = 256 * 256 ^ n from pow_succ' 256 n, Nat.mod_mul]

/-- Bytes read just after they are written are the bytes written. -/
theorem getBytes_setBytes (m : SMap Byte) (a : Nat) (bs : List Byte) : getBytes (setBytes m a bs) a bs.length = bs := by
  apply List.ext_getElem
  · rw [getBytes_length]
  · intro i h1 h2
    have key : ∀ (m : SMap Byte) (n a i : Nat) (h : i < (getBytes m a n).length), (getBytes m a n)[i] = getByte m (a + i) := by
      intro m n
      induction n with
      | zero => intro a i h; simp [getBytes] at h
      | succ n ih =>
        intro a i h
        cases i with
        | zero => rfl
        | succ i =>
          simp only [getBytes, List.getElem_cons_succ]
          rw [ih (a + 1) i, show a + (i + 1) = a + 1 + i by omega]
    rw [key, getByte_setBytes m bs h2]

end Sys2Proof.Machine
end

