-- ==== Sys2Proof/Laws/State.lean ====
section
/-! SUPPORT. Each update of the state leaves every field but its own as it was: one lemma for each field and update. -/

namespace Sys2Proof.Machine

variable (s : State)

@[simp] theorem State.setReg_pending (r : RegId) (i : Nat) (v : Word) : (s.setReg r i v).pending = s.pending := rfl
@[simp] theorem State.setReg_freeCnt (r : RegId) (i : Nat) (v : Word) : (s.setReg r i v).freeCnt = s.freeCnt := rfl
@[simp] theorem State.setReg_ntu (r : RegId) (i : Nat) (v : Word) : (s.setReg r i v).ntu = s.ntu := rfl
@[simp] theorem State.setReg_cores (r : RegId) (i : Nat) (v : Word) : (s.setReg r i v).cores = s.cores := rfl
@[simp] theorem State.setReg_insts (r : RegId) (i : Nat) (v : Word) : (s.setReg r i v).insts = s.insts := rfl
@[simp] theorem State.setReg_waiting (r : RegId) (i : Nat) (v : Word) : (s.setReg r i v).waiting = s.waiting := rfl
@[simp] theorem State.setReg_steps (r : RegId) (i : Nat) (v : Word) : (s.setReg r i v).steps = s.steps := rfl
@[simp] theorem State.setReg_replays (r : RegId) (i : Nat) (v : Word) : (s.setReg r i v).replays = s.replays := rfl
@[simp] theorem State.setReg_nextObj (r : RegId) (i : Nat) (v : Word) : (s.setReg r i v).nextObj = s.nextObj := rfl
@[simp] theorem State.setReg_arrivals (r : RegId) (i : Nat) (v : Word) : (s.setReg r i v).arrivals = s.arrivals := rfl
@[simp] theorem State.setReg_lastAdmitted (r : RegId) (i : Nat) (v : Word) : (s.setReg r i v).lastAdmitted = s.lastAdmitted := rfl
@[simp] theorem State.setReg_snaps (r : RegId) (i : Nat) (v : Word) : (s.setReg r i v).snaps = s.snaps := rfl
@[simp] theorem State.setReg_snapFree (r : RegId) (i : Nat) (v : Word) : (s.setReg r i v).snapFree = s.snapFree := rfl
@[simp] theorem State.setReg_migs (r : RegId) (i : Nat) (v : Word) : (s.setReg r i v).migs = s.migs := rfl
@[simp] theorem State.setReg_migIns (r : RegId) (i : Nat) (v : Word) : (s.setReg r i v).migIns = s.migIns := rfl
@[simp] theorem State.setReg_rx (r : RegId) (i : Nat) (v : Word) : (s.setReg r i v).rx = s.rx := rfl
@[simp] theorem State.setReg_opSeq (r : RegId) (i : Nat) (v : Word) : (s.setReg r i v).opSeq = s.opSeq := rfl
@[simp] theorem State.setReg_ctxs (r : RegId) (i : Nat) (v : Word) : (s.setReg r i v).ctxs = s.ctxs := rfl
@[simp] theorem State.setReg_mems (r : RegId) (i : Nat) (v : Word) : (s.setReg r i v).mems = s.mems := rfl
@[simp] theorem State.setReg_freeFrames (r : RegId) (i : Nat) (v : Word) : (s.setReg r i v).freeFrames = s.freeFrames := rfl
@[simp] theorem State.setReg_clearPend (r : RegId) (i : Nat) (v : Word) : (s.setReg r i v).clearPend = s.clearPend := rfl
@[simp] theorem State.setReg_freeTiles (r : RegId) (i : Nat) (v : Word) : (s.setReg r i v).freeTiles = s.freeTiles := rfl
@[simp] theorem State.setReg_seqs (r : RegId) (i : Nat) (v : Word) : (s.setReg r i v).seqs = s.seqs := rfl
@[simp] theorem State.setReg_poolFree (r : RegId) (i : Nat) (v : Word) : (s.setReg r i v).poolFree = s.poolFree := rfl
@[simp] theorem State.setReg_trunk (r : RegId) (i : Nat) (v : Word) : (s.setReg r i v).trunk = s.trunk := rfl
@[simp] theorem State.setReg_tmarks (r : RegId) (i : Nat) (v : Word) : (s.setReg r i v).tmarks = s.tmarks := rfl
@[simp] theorem State.setReg_root (r : RegId) (i : Nat) (v : Word) : (s.setReg r i v).root = s.root := rfl
@[simp] theorem State.setReg_rmarks (r : RegId) (i : Nat) (v : Word) : (s.setReg r i v).rmarks = s.rmarks := rfl
@[simp] theorem State.setReg_host (r : RegId) (i : Nat) (v : Word) : (s.setReg r i v).host = s.host := rfl
@[simp] theorem State.setReg_links (r : RegId) (i : Nat) (v : Word) : (s.setReg r i v).links = s.links := rfl
@[simp] theorem State.setReg_qps (r : RegId) (i : Nat) (v : Word) : (s.setReg r i v).qps = s.qps := rfl
@[simp] theorem State.setReg_hbm (r : RegId) (i : Nat) (v : Word) : (s.setReg r i v).hbm = s.hbm := rfl
@[simp] theorem State.setReg_towers (r : RegId) (i : Nat) (v : Word) : (s.setReg r i v).towers = s.towers := rfl
@[simp] theorem State.setReg_power (r : RegId) (i : Nat) (v : Word) : (s.setReg r i v).power = s.power := rfl
@[simp] theorem State.setReg_absent (r : RegId) (i : Nat) (v : Word) : (s.setReg r i v).absent = s.absent := rfl
@[simp] theorem State.setReg_dead (r : RegId) (i : Nat) (v : Word) : (s.setReg r i v).dead = s.dead := rfl
@[simp] theorem State.setReg_lcidPos (r : RegId) (i : Nat) (v : Word) : (s.setReg r i v).lcidPos = s.lcidPos := rfl
@[simp] theorem State.setReg_flt (r : RegId) (i : Nat) (v : Word) : (s.setReg r i v).flt = s.flt := rfl
@[simp] theorem State.setReg_sec (r : RegId) (i : Nat) (v : Word) : (s.setReg r i v).sec = s.sec := rfl
@[simp] theorem State.setReg_outs (r : RegId) (i : Nat) (v : Word) : (s.setReg r i v).outs = s.outs := rfl

@[simp] theorem State.setFld_pending (f : Fld) (i v : Nat) : (s.setFld f i v).pending = s.pending := rfl
@[simp] theorem State.setFld_freeCnt (f : Fld) (i v : Nat) : (s.setFld f i v).freeCnt = s.freeCnt := rfl
@[simp] theorem State.setFld_ntu (f : Fld) (i v : Nat) : (s.setFld f i v).ntu = s.ntu := rfl
@[simp] theorem State.setFld_cores (f : Fld) (i v : Nat) : (s.setFld f i v).cores = s.cores := rfl
@[simp] theorem State.setFld_insts (f : Fld) (i v : Nat) : (s.setFld f i v).insts = s.insts := rfl
@[simp] theorem State.setFld_waiting (f : Fld) (i v : Nat) : (s.setFld f i v).waiting = s.waiting := rfl
@[simp] theorem State.setFld_steps (f : Fld) (i v : Nat) : (s.setFld f i v).steps = s.steps := rfl
@[simp] theorem State.setFld_replays (f : Fld) (i v : Nat) : (s.setFld f i v).replays = s.replays := rfl
@[simp] theorem State.setFld_nextObj (f : Fld) (i v : Nat) : (s.setFld f i v).nextObj = s.nextObj := rfl
@[simp] theorem State.setFld_arrivals (f : Fld) (i v : Nat) : (s.setFld f i v).arrivals = s.arrivals := rfl
@[simp] theorem State.setFld_lastAdmitted (f : Fld) (i v : Nat) : (s.setFld f i v).lastAdmitted = s.lastAdmitted := rfl
@[simp] theorem State.setFld_snaps (f : Fld) (i v : Nat) : (s.setFld f i v).snaps = s.snaps := rfl
@[simp] theorem State.setFld_snapFree (f : Fld) (i v : Nat) : (s.setFld f i v).snapFree = s.snapFree := rfl
@[simp] theorem State.setFld_migs (f : Fld) (i v : Nat) : (s.setFld f i v).migs = s.migs := rfl
@[simp] theorem State.setFld_migIns (f : Fld) (i v : Nat) : (s.setFld f i v).migIns = s.migIns := rfl
@[simp] theorem State.setFld_rx (f : Fld) (i v : Nat) : (s.setFld f i v).rx = s.rx := rfl
@[simp] theorem State.setFld_opSeq (f : Fld) (i v : Nat) : (s.setFld f i v).opSeq = s.opSeq := rfl
@[simp] theorem State.setFld_ctxs (f : Fld) (i v : Nat) : (s.setFld f i v).ctxs = s.ctxs := rfl
@[simp] theorem State.setFld_mems (f : Fld) (i v : Nat) : (s.setFld f i v).mems = s.mems := rfl
@[simp] theorem State.setFld_freeFrames (f : Fld) (i v : Nat) : (s.setFld f i v).freeFrames = s.freeFrames := rfl
@[simp] theorem State.setFld_clearPend (f : Fld) (i v : Nat) : (s.setFld f i v).clearPend = s.clearPend := rfl
@[simp] theorem State.setFld_freeTiles (f : Fld) (i v : Nat) : (s.setFld f i v).freeTiles = s.freeTiles := rfl
@[simp] theorem State.setFld_seqs (f : Fld) (i v : Nat) : (s.setFld f i v).seqs = s.seqs := rfl
@[simp] theorem State.setFld_poolFree (f : Fld) (i v : Nat) : (s.setFld f i v).poolFree = s.poolFree := rfl
@[simp] theorem State.setFld_trunk (f : Fld) (i v : Nat) : (s.setFld f i v).trunk = s.trunk := rfl
@[simp] theorem State.setFld_tmarks (f : Fld) (i v : Nat) : (s.setFld f i v).tmarks = s.tmarks := rfl
@[simp] theorem State.setFld_root (f : Fld) (i v : Nat) : (s.setFld f i v).root = s.root := rfl
@[simp] theorem State.setFld_rmarks (f : Fld) (i v : Nat) : (s.setFld f i v).rmarks = s.rmarks := rfl
@[simp] theorem State.setFld_host (f : Fld) (i v : Nat) : (s.setFld f i v).host = s.host := rfl
@[simp] theorem State.setFld_links (f : Fld) (i v : Nat) : (s.setFld f i v).links = s.links := rfl
@[simp] theorem State.setFld_qps (f : Fld) (i v : Nat) : (s.setFld f i v).qps = s.qps := rfl
@[simp] theorem State.setFld_hbm (f : Fld) (i v : Nat) : (s.setFld f i v).hbm = s.hbm := rfl
@[simp] theorem State.setFld_towers (f : Fld) (i v : Nat) : (s.setFld f i v).towers = s.towers := rfl
@[simp] theorem State.setFld_power (f : Fld) (i v : Nat) : (s.setFld f i v).power = s.power := rfl
@[simp] theorem State.setFld_absent (f : Fld) (i v : Nat) : (s.setFld f i v).absent = s.absent := rfl
@[simp] theorem State.setFld_dead (f : Fld) (i v : Nat) : (s.setFld f i v).dead = s.dead := rfl
@[simp] theorem State.setFld_lcidPos (f : Fld) (i v : Nat) : (s.setFld f i v).lcidPos = s.lcidPos := rfl
@[simp] theorem State.setFld_flt (f : Fld) (i v : Nat) : (s.setFld f i v).flt = s.flt := rfl
@[simp] theorem State.setFld_sec (f : Fld) (i v : Nat) : (s.setFld f i v).sec = s.sec := rfl
@[simp] theorem State.setFld_outs (f : Fld) (i v : Nat) : (s.setFld f i v).outs = s.outs := rfl

@[simp] theorem State.incr_pending (f : Fld) (i n : Nat) : (s.incr f i n).pending = s.pending := rfl
@[simp] theorem State.incr_freeCnt (f : Fld) (i n : Nat) : (s.incr f i n).freeCnt = s.freeCnt := rfl
@[simp] theorem State.incr_ntu (f : Fld) (i n : Nat) : (s.incr f i n).ntu = s.ntu := rfl
@[simp] theorem State.incr_cores (f : Fld) (i n : Nat) : (s.incr f i n).cores = s.cores := rfl
@[simp] theorem State.incr_insts (f : Fld) (i n : Nat) : (s.incr f i n).insts = s.insts := rfl
@[simp] theorem State.incr_waiting (f : Fld) (i n : Nat) : (s.incr f i n).waiting = s.waiting := rfl
@[simp] theorem State.incr_steps (f : Fld) (i n : Nat) : (s.incr f i n).steps = s.steps := rfl
@[simp] theorem State.incr_replays (f : Fld) (i n : Nat) : (s.incr f i n).replays = s.replays := rfl
@[simp] theorem State.incr_nextObj (f : Fld) (i n : Nat) : (s.incr f i n).nextObj = s.nextObj := rfl
@[simp] theorem State.incr_arrivals (f : Fld) (i n : Nat) : (s.incr f i n).arrivals = s.arrivals := rfl
@[simp] theorem State.incr_lastAdmitted (f : Fld) (i n : Nat) : (s.incr f i n).lastAdmitted = s.lastAdmitted := rfl
@[simp] theorem State.incr_snaps (f : Fld) (i n : Nat) : (s.incr f i n).snaps = s.snaps := rfl
@[simp] theorem State.incr_snapFree (f : Fld) (i n : Nat) : (s.incr f i n).snapFree = s.snapFree := rfl
@[simp] theorem State.incr_migs (f : Fld) (i n : Nat) : (s.incr f i n).migs = s.migs := rfl
@[simp] theorem State.incr_migIns (f : Fld) (i n : Nat) : (s.incr f i n).migIns = s.migIns := rfl
@[simp] theorem State.incr_rx (f : Fld) (i n : Nat) : (s.incr f i n).rx = s.rx := rfl
@[simp] theorem State.incr_opSeq (f : Fld) (i n : Nat) : (s.incr f i n).opSeq = s.opSeq := rfl
@[simp] theorem State.incr_ctxs (f : Fld) (i n : Nat) : (s.incr f i n).ctxs = s.ctxs := rfl
@[simp] theorem State.incr_mems (f : Fld) (i n : Nat) : (s.incr f i n).mems = s.mems := rfl
@[simp] theorem State.incr_freeFrames (f : Fld) (i n : Nat) : (s.incr f i n).freeFrames = s.freeFrames := rfl
@[simp] theorem State.incr_clearPend (f : Fld) (i n : Nat) : (s.incr f i n).clearPend = s.clearPend := rfl
@[simp] theorem State.incr_freeTiles (f : Fld) (i n : Nat) : (s.incr f i n).freeTiles = s.freeTiles := rfl
@[simp] theorem State.incr_seqs (f : Fld) (i n : Nat) : (s.incr f i n).seqs = s.seqs := rfl
@[simp] theorem State.incr_poolFree (f : Fld) (i n : Nat) : (s.incr f i n).poolFree = s.poolFree := rfl
@[simp] theorem State.incr_trunk (f : Fld) (i n : Nat) : (s.incr f i n).trunk = s.trunk := rfl
@[simp] theorem State.incr_tmarks (f : Fld) (i n : Nat) : (s.incr f i n).tmarks = s.tmarks := rfl
@[simp] theorem State.incr_root (f : Fld) (i n : Nat) : (s.incr f i n).root = s.root := rfl
@[simp] theorem State.incr_rmarks (f : Fld) (i n : Nat) : (s.incr f i n).rmarks = s.rmarks := rfl
@[simp] theorem State.incr_host (f : Fld) (i n : Nat) : (s.incr f i n).host = s.host := rfl
@[simp] theorem State.incr_links (f : Fld) (i n : Nat) : (s.incr f i n).links = s.links := rfl
@[simp] theorem State.incr_qps (f : Fld) (i n : Nat) : (s.incr f i n).qps = s.qps := rfl
@[simp] theorem State.incr_hbm (f : Fld) (i n : Nat) : (s.incr f i n).hbm = s.hbm := rfl
@[simp] theorem State.incr_towers (f : Fld) (i n : Nat) : (s.incr f i n).towers = s.towers := rfl
@[simp] theorem State.incr_power (f : Fld) (i n : Nat) : (s.incr f i n).power = s.power := rfl
@[simp] theorem State.incr_absent (f : Fld) (i n : Nat) : (s.incr f i n).absent = s.absent := rfl
@[simp] theorem State.incr_dead (f : Fld) (i n : Nat) : (s.incr f i n).dead = s.dead := rfl
@[simp] theorem State.incr_lcidPos (f : Fld) (i n : Nat) : (s.incr f i n).lcidPos = s.lcidPos := rfl
@[simp] theorem State.incr_flt (f : Fld) (i n : Nat) : (s.incr f i n).flt = s.flt := rfl
@[simp] theorem State.incr_sec (f : Fld) (i n : Nat) : (s.incr f i n).sec = s.sec := rfl
@[simp] theorem State.incr_outs (f : Fld) (i n : Nat) : (s.incr f i n).outs = s.outs := rfl

@[simp] theorem State.inc_pending (f : Fld) (i : Nat) : (s.inc f i).pending = s.pending := rfl
@[simp] theorem State.inc_freeCnt (f : Fld) (i : Nat) : (s.inc f i).freeCnt = s.freeCnt := rfl
@[simp] theorem State.inc_ntu (f : Fld) (i : Nat) : (s.inc f i).ntu = s.ntu := rfl
@[simp] theorem State.inc_cores (f : Fld) (i : Nat) : (s.inc f i).cores = s.cores := rfl
@[simp] theorem State.inc_insts (f : Fld) (i : Nat) : (s.inc f i).insts = s.insts := rfl
@[simp] theorem State.inc_waiting (f : Fld) (i : Nat) : (s.inc f i).waiting = s.waiting := rfl
@[simp] theorem State.inc_steps (f : Fld) (i : Nat) : (s.inc f i).steps = s.steps := rfl
@[simp] theorem State.inc_replays (f : Fld) (i : Nat) : (s.inc f i).replays = s.replays := rfl
@[simp] theorem State.inc_nextObj (f : Fld) (i : Nat) : (s.inc f i).nextObj = s.nextObj := rfl
@[simp] theorem State.inc_arrivals (f : Fld) (i : Nat) : (s.inc f i).arrivals = s.arrivals := rfl
@[simp] theorem State.inc_lastAdmitted (f : Fld) (i : Nat) : (s.inc f i).lastAdmitted = s.lastAdmitted := rfl
@[simp] theorem State.inc_snaps (f : Fld) (i : Nat) : (s.inc f i).snaps = s.snaps := rfl
@[simp] theorem State.inc_snapFree (f : Fld) (i : Nat) : (s.inc f i).snapFree = s.snapFree := rfl
@[simp] theorem State.inc_migs (f : Fld) (i : Nat) : (s.inc f i).migs = s.migs := rfl
@[simp] theorem State.inc_migIns (f : Fld) (i : Nat) : (s.inc f i).migIns = s.migIns := rfl
@[simp] theorem State.inc_rx (f : Fld) (i : Nat) : (s.inc f i).rx = s.rx := rfl
@[simp] theorem State.inc_opSeq (f : Fld) (i : Nat) : (s.inc f i).opSeq = s.opSeq := rfl
@[simp] theorem State.inc_ctxs (f : Fld) (i : Nat) : (s.inc f i).ctxs = s.ctxs := rfl
@[simp] theorem State.inc_mems (f : Fld) (i : Nat) : (s.inc f i).mems = s.mems := rfl
@[simp] theorem State.inc_freeFrames (f : Fld) (i : Nat) : (s.inc f i).freeFrames = s.freeFrames := rfl
@[simp] theorem State.inc_clearPend (f : Fld) (i : Nat) : (s.inc f i).clearPend = s.clearPend := rfl
@[simp] theorem State.inc_freeTiles (f : Fld) (i : Nat) : (s.inc f i).freeTiles = s.freeTiles := rfl
@[simp] theorem State.inc_seqs (f : Fld) (i : Nat) : (s.inc f i).seqs = s.seqs := rfl
@[simp] theorem State.inc_poolFree (f : Fld) (i : Nat) : (s.inc f i).poolFree = s.poolFree := rfl
@[simp] theorem State.inc_trunk (f : Fld) (i : Nat) : (s.inc f i).trunk = s.trunk := rfl
@[simp] theorem State.inc_tmarks (f : Fld) (i : Nat) : (s.inc f i).tmarks = s.tmarks := rfl
@[simp] theorem State.inc_root (f : Fld) (i : Nat) : (s.inc f i).root = s.root := rfl
@[simp] theorem State.inc_rmarks (f : Fld) (i : Nat) : (s.inc f i).rmarks = s.rmarks := rfl
@[simp] theorem State.inc_host (f : Fld) (i : Nat) : (s.inc f i).host = s.host := rfl
@[simp] theorem State.inc_links (f : Fld) (i : Nat) : (s.inc f i).links = s.links := rfl
@[simp] theorem State.inc_qps (f : Fld) (i : Nat) : (s.inc f i).qps = s.qps := rfl
@[simp] theorem State.inc_hbm (f : Fld) (i : Nat) : (s.inc f i).hbm = s.hbm := rfl
@[simp] theorem State.inc_towers (f : Fld) (i : Nat) : (s.inc f i).towers = s.towers := rfl
@[simp] theorem State.inc_power (f : Fld) (i : Nat) : (s.inc f i).power = s.power := rfl
@[simp] theorem State.inc_absent (f : Fld) (i : Nat) : (s.inc f i).absent = s.absent := rfl
@[simp] theorem State.inc_dead (f : Fld) (i : Nat) : (s.inc f i).dead = s.dead := rfl
@[simp] theorem State.inc_lcidPos (f : Fld) (i : Nat) : (s.inc f i).lcidPos = s.lcidPos := rfl
@[simp] theorem State.inc_flt (f : Fld) (i : Nat) : (s.inc f i).flt = s.flt := rfl
@[simp] theorem State.inc_sec (f : Fld) (i : Nat) : (s.inc f i).sec = s.sec := rfl
@[simp] theorem State.inc_outs (f : Fld) (i : Nat) : (s.inc f i).outs = s.outs := rfl

@[simp] theorem State.setCore_pending (c : Nat) (x : Core) : (s.setCore c x).pending = s.pending := rfl
@[simp] theorem State.setCore_freeCnt (c : Nat) (x : Core) : (s.setCore c x).freeCnt = s.freeCnt := rfl
@[simp] theorem State.setCore_regs (c : Nat) (x : Core) : (s.setCore c x).regs = s.regs := rfl
@[simp] theorem State.setCore_ntu (c : Nat) (x : Core) : (s.setCore c x).ntu = s.ntu := rfl
@[simp] theorem State.setCore_insts (c : Nat) (x : Core) : (s.setCore c x).insts = s.insts := rfl
@[simp] theorem State.setCore_waiting (c : Nat) (x : Core) : (s.setCore c x).waiting = s.waiting := rfl
@[simp] theorem State.setCore_steps (c : Nat) (x : Core) : (s.setCore c x).steps = s.steps := rfl
@[simp] theorem State.setCore_replays (c : Nat) (x : Core) : (s.setCore c x).replays = s.replays := rfl
@[simp] theorem State.setCore_nextObj (c : Nat) (x : Core) : (s.setCore c x).nextObj = s.nextObj := rfl
@[simp] theorem State.setCore_arrivals (c : Nat) (x : Core) : (s.setCore c x).arrivals = s.arrivals := rfl
@[simp] theorem State.setCore_lastAdmitted (c : Nat) (x : Core) : (s.setCore c x).lastAdmitted = s.lastAdmitted := rfl
@[simp] theorem State.setCore_snaps (c : Nat) (x : Core) : (s.setCore c x).snaps = s.snaps := rfl
@[simp] theorem State.setCore_snapFree (c : Nat) (x : Core) : (s.setCore c x).snapFree = s.snapFree := rfl
@[simp] theorem State.setCore_migs (c : Nat) (x : Core) : (s.setCore c x).migs = s.migs := rfl
@[simp] theorem State.setCore_migIns (c : Nat) (x : Core) : (s.setCore c x).migIns = s.migIns := rfl
@[simp] theorem State.setCore_rx (c : Nat) (x : Core) : (s.setCore c x).rx = s.rx := rfl
@[simp] theorem State.setCore_opSeq (c : Nat) (x : Core) : (s.setCore c x).opSeq = s.opSeq := rfl
@[simp] theorem State.setCore_ctxs (c : Nat) (x : Core) : (s.setCore c x).ctxs = s.ctxs := rfl
@[simp] theorem State.setCore_mems (c : Nat) (x : Core) : (s.setCore c x).mems = s.mems := rfl
@[simp] theorem State.setCore_freeFrames (c : Nat) (x : Core) : (s.setCore c x).freeFrames = s.freeFrames := rfl
@[simp] theorem State.setCore_clearPend (c : Nat) (x : Core) : (s.setCore c x).clearPend = s.clearPend := rfl
@[simp] theorem State.setCore_freeTiles (c : Nat) (x : Core) : (s.setCore c x).freeTiles = s.freeTiles := rfl
@[simp] theorem State.setCore_seqs (c : Nat) (x : Core) : (s.setCore c x).seqs = s.seqs := rfl
@[simp] theorem State.setCore_poolFree (c : Nat) (x : Core) : (s.setCore c x).poolFree = s.poolFree := rfl
@[simp] theorem State.setCore_trunk (c : Nat) (x : Core) : (s.setCore c x).trunk = s.trunk := rfl
@[simp] theorem State.setCore_tmarks (c : Nat) (x : Core) : (s.setCore c x).tmarks = s.tmarks := rfl
@[simp] theorem State.setCore_root (c : Nat) (x : Core) : (s.setCore c x).root = s.root := rfl
@[simp] theorem State.setCore_rmarks (c : Nat) (x : Core) : (s.setCore c x).rmarks = s.rmarks := rfl
@[simp] theorem State.setCore_host (c : Nat) (x : Core) : (s.setCore c x).host = s.host := rfl
@[simp] theorem State.setCore_links (c : Nat) (x : Core) : (s.setCore c x).links = s.links := rfl
@[simp] theorem State.setCore_qps (c : Nat) (x : Core) : (s.setCore c x).qps = s.qps := rfl
@[simp] theorem State.setCore_hbm (c : Nat) (x : Core) : (s.setCore c x).hbm = s.hbm := rfl
@[simp] theorem State.setCore_towers (c : Nat) (x : Core) : (s.setCore c x).towers = s.towers := rfl
@[simp] theorem State.setCore_power (c : Nat) (x : Core) : (s.setCore c x).power = s.power := rfl
@[simp] theorem State.setCore_absent (c : Nat) (x : Core) : (s.setCore c x).absent = s.absent := rfl
@[simp] theorem State.setCore_dead (c : Nat) (x : Core) : (s.setCore c x).dead = s.dead := rfl
@[simp] theorem State.setCore_lcidPos (c : Nat) (x : Core) : (s.setCore c x).lcidPos = s.lcidPos := rfl
@[simp] theorem State.setCore_flt (c : Nat) (x : Core) : (s.setCore c x).flt = s.flt := rfl
@[simp] theorem State.setCore_sec (c : Nat) (x : Core) : (s.setCore c x).sec = s.sec := rfl
@[simp] theorem State.setCore_outs (c : Nat) (x : Core) : (s.setCore c x).outs = s.outs := rfl

@[simp] theorem State.modCore_pending (c : Nat) (f : Core → Core) : (s.modCore c f).pending = s.pending := rfl
@[simp] theorem State.modCore_freeCnt (c : Nat) (f : Core → Core) : (s.modCore c f).freeCnt = s.freeCnt := rfl
@[simp] theorem State.modCore_regs (c : Nat) (f : Core → Core) : (s.modCore c f).regs = s.regs := rfl
@[simp] theorem State.modCore_ntu (c : Nat) (f : Core → Core) : (s.modCore c f).ntu = s.ntu := rfl
@[simp] theorem State.modCore_insts (c : Nat) (f : Core → Core) : (s.modCore c f).insts = s.insts := rfl
@[simp] theorem State.modCore_waiting (c : Nat) (f : Core → Core) : (s.modCore c f).waiting = s.waiting := rfl
@[simp] theorem State.modCore_steps (c : Nat) (f : Core → Core) : (s.modCore c f).steps = s.steps := rfl
@[simp] theorem State.modCore_replays (c : Nat) (f : Core → Core) : (s.modCore c f).replays = s.replays := rfl
@[simp] theorem State.modCore_nextObj (c : Nat) (f : Core → Core) : (s.modCore c f).nextObj = s.nextObj := rfl
@[simp] theorem State.modCore_arrivals (c : Nat) (f : Core → Core) : (s.modCore c f).arrivals = s.arrivals := rfl
@[simp] theorem State.modCore_lastAdmitted (c : Nat) (f : Core → Core) : (s.modCore c f).lastAdmitted = s.lastAdmitted := rfl
@[simp] theorem State.modCore_snaps (c : Nat) (f : Core → Core) : (s.modCore c f).snaps = s.snaps := rfl
@[simp] theorem State.modCore_snapFree (c : Nat) (f : Core → Core) : (s.modCore c f).snapFree = s.snapFree := rfl
@[simp] theorem State.modCore_migs (c : Nat) (f : Core → Core) : (s.modCore c f).migs = s.migs := rfl
@[simp] theorem State.modCore_migIns (c : Nat) (f : Core → Core) : (s.modCore c f).migIns = s.migIns := rfl
@[simp] theorem State.modCore_rx (c : Nat) (f : Core → Core) : (s.modCore c f).rx = s.rx := rfl
@[simp] theorem State.modCore_opSeq (c : Nat) (f : Core → Core) : (s.modCore c f).opSeq = s.opSeq := rfl
@[simp] theorem State.modCore_ctxs (c : Nat) (f : Core → Core) : (s.modCore c f).ctxs = s.ctxs := rfl
@[simp] theorem State.modCore_mems (c : Nat) (f : Core → Core) : (s.modCore c f).mems = s.mems := rfl
@[simp] theorem State.modCore_freeFrames (c : Nat) (f : Core → Core) : (s.modCore c f).freeFrames = s.freeFrames := rfl
@[simp] theorem State.modCore_clearPend (c : Nat) (f : Core → Core) : (s.modCore c f).clearPend = s.clearPend := rfl
@[simp] theorem State.modCore_freeTiles (c : Nat) (f : Core → Core) : (s.modCore c f).freeTiles = s.freeTiles := rfl
@[simp] theorem State.modCore_seqs (c : Nat) (f : Core → Core) : (s.modCore c f).seqs = s.seqs := rfl
@[simp] theorem State.modCore_poolFree (c : Nat) (f : Core → Core) : (s.modCore c f).poolFree = s.poolFree := rfl
@[simp] theorem State.modCore_trunk (c : Nat) (f : Core → Core) : (s.modCore c f).trunk = s.trunk := rfl
@[simp] theorem State.modCore_tmarks (c : Nat) (f : Core → Core) : (s.modCore c f).tmarks = s.tmarks := rfl
@[simp] theorem State.modCore_root (c : Nat) (f : Core → Core) : (s.modCore c f).root = s.root := rfl
@[simp] theorem State.modCore_rmarks (c : Nat) (f : Core → Core) : (s.modCore c f).rmarks = s.rmarks := rfl
@[simp] theorem State.modCore_host (c : Nat) (f : Core → Core) : (s.modCore c f).host = s.host := rfl
@[simp] theorem State.modCore_links (c : Nat) (f : Core → Core) : (s.modCore c f).links = s.links := rfl
@[simp] theorem State.modCore_qps (c : Nat) (f : Core → Core) : (s.modCore c f).qps = s.qps := rfl
@[simp] theorem State.modCore_hbm (c : Nat) (f : Core → Core) : (s.modCore c f).hbm = s.hbm := rfl
@[simp] theorem State.modCore_towers (c : Nat) (f : Core → Core) : (s.modCore c f).towers = s.towers := rfl
@[simp] theorem State.modCore_power (c : Nat) (f : Core → Core) : (s.modCore c f).power = s.power := rfl
@[simp] theorem State.modCore_absent (c : Nat) (f : Core → Core) : (s.modCore c f).absent = s.absent := rfl
@[simp] theorem State.modCore_dead (c : Nat) (f : Core → Core) : (s.modCore c f).dead = s.dead := rfl
@[simp] theorem State.modCore_lcidPos (c : Nat) (f : Core → Core) : (s.modCore c f).lcidPos = s.lcidPos := rfl
@[simp] theorem State.modCore_flt (c : Nat) (f : Core → Core) : (s.modCore c f).flt = s.flt := rfl
@[simp] theorem State.modCore_sec (c : Nat) (f : Core → Core) : (s.modCore c f).sec = s.sec := rfl
@[simp] theorem State.modCore_outs (c : Nat) (f : Core → Core) : (s.modCore c f).outs = s.outs := rfl

@[simp] theorem State.setInst_pending (i : Nat) (x : Inst) : (s.setInst i x).pending = s.pending := rfl
@[simp] theorem State.setInst_freeCnt (i : Nat) (x : Inst) : (s.setInst i x).freeCnt = s.freeCnt := rfl
@[simp] theorem State.setInst_regs (i : Nat) (x : Inst) : (s.setInst i x).regs = s.regs := rfl
@[simp] theorem State.setInst_ntu (i : Nat) (x : Inst) : (s.setInst i x).ntu = s.ntu := rfl
@[simp] theorem State.setInst_cores (i : Nat) (x : Inst) : (s.setInst i x).cores = s.cores := rfl
@[simp] theorem State.setInst_waiting (i : Nat) (x : Inst) : (s.setInst i x).waiting = s.waiting := rfl
@[simp] theorem State.setInst_steps (i : Nat) (x : Inst) : (s.setInst i x).steps = s.steps := rfl
@[simp] theorem State.setInst_replays (i : Nat) (x : Inst) : (s.setInst i x).replays = s.replays := rfl
@[simp] theorem State.setInst_nextObj (i : Nat) (x : Inst) : (s.setInst i x).nextObj = s.nextObj := rfl
@[simp] theorem State.setInst_arrivals (i : Nat) (x : Inst) : (s.setInst i x).arrivals = s.arrivals := rfl
@[simp] theorem State.setInst_lastAdmitted (i : Nat) (x : Inst) : (s.setInst i x).lastAdmitted = s.lastAdmitted := rfl
@[simp] theorem State.setInst_snaps (i : Nat) (x : Inst) : (s.setInst i x).snaps = s.snaps := rfl
@[simp] theorem State.setInst_snapFree (i : Nat) (x : Inst) : (s.setInst i x).snapFree = s.snapFree := rfl
@[simp] theorem State.setInst_migs (i : Nat) (x : Inst) : (s.setInst i x).migs = s.migs := rfl
@[simp] theorem State.setInst_migIns (i : Nat) (x : Inst) : (s.setInst i x).migIns = s.migIns := rfl
@[simp] theorem State.setInst_rx (i : Nat) (x : Inst) : (s.setInst i x).rx = s.rx := rfl
@[simp] theorem State.setInst_opSeq (i : Nat) (x : Inst) : (s.setInst i x).opSeq = s.opSeq := rfl
@[simp] theorem State.setInst_ctxs (i : Nat) (x : Inst) : (s.setInst i x).ctxs = s.ctxs := rfl
@[simp] theorem State.setInst_mems (i : Nat) (x : Inst) : (s.setInst i x).mems = s.mems := rfl
@[simp] theorem State.setInst_freeFrames (i : Nat) (x : Inst) : (s.setInst i x).freeFrames = s.freeFrames := rfl
@[simp] theorem State.setInst_clearPend (i : Nat) (x : Inst) : (s.setInst i x).clearPend = s.clearPend := rfl
@[simp] theorem State.setInst_freeTiles (i : Nat) (x : Inst) : (s.setInst i x).freeTiles = s.freeTiles := rfl
@[simp] theorem State.setInst_seqs (i : Nat) (x : Inst) : (s.setInst i x).seqs = s.seqs := rfl
@[simp] theorem State.setInst_poolFree (i : Nat) (x : Inst) : (s.setInst i x).poolFree = s.poolFree := rfl
@[simp] theorem State.setInst_trunk (i : Nat) (x : Inst) : (s.setInst i x).trunk = s.trunk := rfl
@[simp] theorem State.setInst_tmarks (i : Nat) (x : Inst) : (s.setInst i x).tmarks = s.tmarks := rfl
@[simp] theorem State.setInst_root (i : Nat) (x : Inst) : (s.setInst i x).root = s.root := rfl
@[simp] theorem State.setInst_rmarks (i : Nat) (x : Inst) : (s.setInst i x).rmarks = s.rmarks := rfl
@[simp] theorem State.setInst_host (i : Nat) (x : Inst) : (s.setInst i x).host = s.host := rfl
@[simp] theorem State.setInst_links (i : Nat) (x : Inst) : (s.setInst i x).links = s.links := rfl
@[simp] theorem State.setInst_qps (i : Nat) (x : Inst) : (s.setInst i x).qps = s.qps := rfl
@[simp] theorem State.setInst_hbm (i : Nat) (x : Inst) : (s.setInst i x).hbm = s.hbm := rfl
@[simp] theorem State.setInst_towers (i : Nat) (x : Inst) : (s.setInst i x).towers = s.towers := rfl
@[simp] theorem State.setInst_power (i : Nat) (x : Inst) : (s.setInst i x).power = s.power := rfl
@[simp] theorem State.setInst_absent (i : Nat) (x : Inst) : (s.setInst i x).absent = s.absent := rfl
@[simp] theorem State.setInst_dead (i : Nat) (x : Inst) : (s.setInst i x).dead = s.dead := rfl
@[simp] theorem State.setInst_lcidPos (i : Nat) (x : Inst) : (s.setInst i x).lcidPos = s.lcidPos := rfl
@[simp] theorem State.setInst_flt (i : Nat) (x : Inst) : (s.setInst i x).flt = s.flt := rfl
@[simp] theorem State.setInst_sec (i : Nat) (x : Inst) : (s.setInst i x).sec = s.sec := rfl
@[simp] theorem State.setInst_outs (i : Nat) (x : Inst) : (s.setInst i x).outs = s.outs := rfl

@[simp] theorem State.modInst_pending (i : Nat) (f : Inst → Inst) : (s.modInst i f).pending = s.pending := rfl
@[simp] theorem State.modInst_freeCnt (i : Nat) (f : Inst → Inst) : (s.modInst i f).freeCnt = s.freeCnt := rfl
@[simp] theorem State.modInst_regs (i : Nat) (f : Inst → Inst) : (s.modInst i f).regs = s.regs := rfl
@[simp] theorem State.modInst_ntu (i : Nat) (f : Inst → Inst) : (s.modInst i f).ntu = s.ntu := rfl
@[simp] theorem State.modInst_cores (i : Nat) (f : Inst → Inst) : (s.modInst i f).cores = s.cores := rfl
@[simp] theorem State.modInst_waiting (i : Nat) (f : Inst → Inst) : (s.modInst i f).waiting = s.waiting := rfl
@[simp] theorem State.modInst_steps (i : Nat) (f : Inst → Inst) : (s.modInst i f).steps = s.steps := rfl
@[simp] theorem State.modInst_replays (i : Nat) (f : Inst → Inst) : (s.modInst i f).replays = s.replays := rfl
@[simp] theorem State.modInst_nextObj (i : Nat) (f : Inst → Inst) : (s.modInst i f).nextObj = s.nextObj := rfl
@[simp] theorem State.modInst_arrivals (i : Nat) (f : Inst → Inst) : (s.modInst i f).arrivals = s.arrivals := rfl
@[simp] theorem State.modInst_lastAdmitted (i : Nat) (f : Inst → Inst) : (s.modInst i f).lastAdmitted = s.lastAdmitted := rfl
@[simp] theorem State.modInst_snaps (i : Nat) (f : Inst → Inst) : (s.modInst i f).snaps = s.snaps := rfl
@[simp] theorem State.modInst_snapFree (i : Nat) (f : Inst → Inst) : (s.modInst i f).snapFree = s.snapFree := rfl
@[simp] theorem State.modInst_migs (i : Nat) (f : Inst → Inst) : (s.modInst i f).migs = s.migs := rfl
@[simp] theorem State.modInst_migIns (i : Nat) (f : Inst → Inst) : (s.modInst i f).migIns = s.migIns := rfl
@[simp] theorem State.modInst_rx (i : Nat) (f : Inst → Inst) : (s.modInst i f).rx = s.rx := rfl
@[simp] theorem State.modInst_opSeq (i : Nat) (f : Inst → Inst) : (s.modInst i f).opSeq = s.opSeq := rfl
@[simp] theorem State.modInst_ctxs (i : Nat) (f : Inst → Inst) : (s.modInst i f).ctxs = s.ctxs := rfl
@[simp] theorem State.modInst_mems (i : Nat) (f : Inst → Inst) : (s.modInst i f).mems = s.mems := rfl
@[simp] theorem State.modInst_freeFrames (i : Nat) (f : Inst → Inst) : (s.modInst i f).freeFrames = s.freeFrames := rfl
@[simp] theorem State.modInst_clearPend (i : Nat) (f : Inst → Inst) : (s.modInst i f).clearPend = s.clearPend := rfl
@[simp] theorem State.modInst_freeTiles (i : Nat) (f : Inst → Inst) : (s.modInst i f).freeTiles = s.freeTiles := rfl
@[simp] theorem State.modInst_seqs (i : Nat) (f : Inst → Inst) : (s.modInst i f).seqs = s.seqs := rfl
@[simp] theorem State.modInst_poolFree (i : Nat) (f : Inst → Inst) : (s.modInst i f).poolFree = s.poolFree := rfl
@[simp] theorem State.modInst_trunk (i : Nat) (f : Inst → Inst) : (s.modInst i f).trunk = s.trunk := rfl
@[simp] theorem State.modInst_tmarks (i : Nat) (f : Inst → Inst) : (s.modInst i f).tmarks = s.tmarks := rfl
@[simp] theorem State.modInst_root (i : Nat) (f : Inst → Inst) : (s.modInst i f).root = s.root := rfl
@[simp] theorem State.modInst_rmarks (i : Nat) (f : Inst → Inst) : (s.modInst i f).rmarks = s.rmarks := rfl
@[simp] theorem State.modInst_host (i : Nat) (f : Inst → Inst) : (s.modInst i f).host = s.host := rfl
@[simp] theorem State.modInst_links (i : Nat) (f : Inst → Inst) : (s.modInst i f).links = s.links := rfl
@[simp] theorem State.modInst_qps (i : Nat) (f : Inst → Inst) : (s.modInst i f).qps = s.qps := rfl
@[simp] theorem State.modInst_hbm (i : Nat) (f : Inst → Inst) : (s.modInst i f).hbm = s.hbm := rfl
@[simp] theorem State.modInst_towers (i : Nat) (f : Inst → Inst) : (s.modInst i f).towers = s.towers := rfl
@[simp] theorem State.modInst_power (i : Nat) (f : Inst → Inst) : (s.modInst i f).power = s.power := rfl
@[simp] theorem State.modInst_absent (i : Nat) (f : Inst → Inst) : (s.modInst i f).absent = s.absent := rfl
@[simp] theorem State.modInst_dead (i : Nat) (f : Inst → Inst) : (s.modInst i f).dead = s.dead := rfl
@[simp] theorem State.modInst_lcidPos (i : Nat) (f : Inst → Inst) : (s.modInst i f).lcidPos = s.lcidPos := rfl
@[simp] theorem State.modInst_flt (i : Nat) (f : Inst → Inst) : (s.modInst i f).flt = s.flt := rfl
@[simp] theorem State.modInst_sec (i : Nat) (f : Inst → Inst) : (s.modInst i f).sec = s.sec := rfl
@[simp] theorem State.modInst_outs (i : Nat) (f : Inst → Inst) : (s.modInst i f).outs = s.outs := rfl

@[simp] theorem State.setCtx_pending (x : Nat) (c : Ctx) : (s.setCtx x c).pending = s.pending := rfl
@[simp] theorem State.setCtx_freeCnt (x : Nat) (c : Ctx) : (s.setCtx x c).freeCnt = s.freeCnt := rfl
@[simp] theorem State.setCtx_regs (x : Nat) (c : Ctx) : (s.setCtx x c).regs = s.regs := rfl
@[simp] theorem State.setCtx_ntu (x : Nat) (c : Ctx) : (s.setCtx x c).ntu = s.ntu := rfl
@[simp] theorem State.setCtx_cores (x : Nat) (c : Ctx) : (s.setCtx x c).cores = s.cores := rfl
@[simp] theorem State.setCtx_insts (x : Nat) (c : Ctx) : (s.setCtx x c).insts = s.insts := rfl
@[simp] theorem State.setCtx_waiting (x : Nat) (c : Ctx) : (s.setCtx x c).waiting = s.waiting := rfl
@[simp] theorem State.setCtx_steps (x : Nat) (c : Ctx) : (s.setCtx x c).steps = s.steps := rfl
@[simp] theorem State.setCtx_replays (x : Nat) (c : Ctx) : (s.setCtx x c).replays = s.replays := rfl
@[simp] theorem State.setCtx_nextObj (x : Nat) (c : Ctx) : (s.setCtx x c).nextObj = s.nextObj := rfl
@[simp] theorem State.setCtx_arrivals (x : Nat) (c : Ctx) : (s.setCtx x c).arrivals = s.arrivals := rfl
@[simp] theorem State.setCtx_lastAdmitted (x : Nat) (c : Ctx) : (s.setCtx x c).lastAdmitted = s.lastAdmitted := rfl
@[simp] theorem State.setCtx_snaps (x : Nat) (c : Ctx) : (s.setCtx x c).snaps = s.snaps := rfl
@[simp] theorem State.setCtx_snapFree (x : Nat) (c : Ctx) : (s.setCtx x c).snapFree = s.snapFree := rfl
@[simp] theorem State.setCtx_migs (x : Nat) (c : Ctx) : (s.setCtx x c).migs = s.migs := rfl
@[simp] theorem State.setCtx_migIns (x : Nat) (c : Ctx) : (s.setCtx x c).migIns = s.migIns := rfl
@[simp] theorem State.setCtx_rx (x : Nat) (c : Ctx) : (s.setCtx x c).rx = s.rx := rfl
@[simp] theorem State.setCtx_opSeq (x : Nat) (c : Ctx) : (s.setCtx x c).opSeq = s.opSeq := rfl
@[simp] theorem State.setCtx_mems (x : Nat) (c : Ctx) : (s.setCtx x c).mems = s.mems := rfl
@[simp] theorem State.setCtx_freeFrames (x : Nat) (c : Ctx) : (s.setCtx x c).freeFrames = s.freeFrames := rfl
@[simp] theorem State.setCtx_clearPend (x : Nat) (c : Ctx) : (s.setCtx x c).clearPend = s.clearPend := rfl
@[simp] theorem State.setCtx_freeTiles (x : Nat) (c : Ctx) : (s.setCtx x c).freeTiles = s.freeTiles := rfl
@[simp] theorem State.setCtx_seqs (x : Nat) (c : Ctx) : (s.setCtx x c).seqs = s.seqs := rfl
@[simp] theorem State.setCtx_poolFree (x : Nat) (c : Ctx) : (s.setCtx x c).poolFree = s.poolFree := rfl
@[simp] theorem State.setCtx_trunk (x : Nat) (c : Ctx) : (s.setCtx x c).trunk = s.trunk := rfl
@[simp] theorem State.setCtx_tmarks (x : Nat) (c : Ctx) : (s.setCtx x c).tmarks = s.tmarks := rfl
@[simp] theorem State.setCtx_root (x : Nat) (c : Ctx) : (s.setCtx x c).root = s.root := rfl
@[simp] theorem State.setCtx_rmarks (x : Nat) (c : Ctx) : (s.setCtx x c).rmarks = s.rmarks := rfl
@[simp] theorem State.setCtx_host (x : Nat) (c : Ctx) : (s.setCtx x c).host = s.host := rfl
@[simp] theorem State.setCtx_links (x : Nat) (c : Ctx) : (s.setCtx x c).links = s.links := rfl
@[simp] theorem State.setCtx_qps (x : Nat) (c : Ctx) : (s.setCtx x c).qps = s.qps := rfl
@[simp] theorem State.setCtx_hbm (x : Nat) (c : Ctx) : (s.setCtx x c).hbm = s.hbm := rfl
@[simp] theorem State.setCtx_towers (x : Nat) (c : Ctx) : (s.setCtx x c).towers = s.towers := rfl
@[simp] theorem State.setCtx_power (x : Nat) (c : Ctx) : (s.setCtx x c).power = s.power := rfl
@[simp] theorem State.setCtx_absent (x : Nat) (c : Ctx) : (s.setCtx x c).absent = s.absent := rfl
@[simp] theorem State.setCtx_dead (x : Nat) (c : Ctx) : (s.setCtx x c).dead = s.dead := rfl
@[simp] theorem State.setCtx_lcidPos (x : Nat) (c : Ctx) : (s.setCtx x c).lcidPos = s.lcidPos := rfl
@[simp] theorem State.setCtx_flt (x : Nat) (c : Ctx) : (s.setCtx x c).flt = s.flt := rfl
@[simp] theorem State.setCtx_sec (x : Nat) (c : Ctx) : (s.setCtx x c).sec = s.sec := rfl
@[simp] theorem State.setCtx_outs (x : Nat) (c : Ctx) : (s.setCtx x c).outs = s.outs := rfl

@[simp] theorem State.modCtx_pending (x : Nat) (f : Ctx → Ctx) : (s.modCtx x f).pending = s.pending := rfl
@[simp] theorem State.modCtx_freeCnt (x : Nat) (f : Ctx → Ctx) : (s.modCtx x f).freeCnt = s.freeCnt := rfl
@[simp] theorem State.modCtx_regs (x : Nat) (f : Ctx → Ctx) : (s.modCtx x f).regs = s.regs := rfl
@[simp] theorem State.modCtx_ntu (x : Nat) (f : Ctx → Ctx) : (s.modCtx x f).ntu = s.ntu := rfl
@[simp] theorem State.modCtx_cores (x : Nat) (f : Ctx → Ctx) : (s.modCtx x f).cores = s.cores := rfl
@[simp] theorem State.modCtx_insts (x : Nat) (f : Ctx → Ctx) : (s.modCtx x f).insts = s.insts := rfl
@[simp] theorem State.modCtx_waiting (x : Nat) (f : Ctx → Ctx) : (s.modCtx x f).waiting = s.waiting := rfl
@[simp] theorem State.modCtx_steps (x : Nat) (f : Ctx → Ctx) : (s.modCtx x f).steps = s.steps := rfl
@[simp] theorem State.modCtx_replays (x : Nat) (f : Ctx → Ctx) : (s.modCtx x f).replays = s.replays := rfl
@[simp] theorem State.modCtx_nextObj (x : Nat) (f : Ctx → Ctx) : (s.modCtx x f).nextObj = s.nextObj := rfl
@[simp] theorem State.modCtx_arrivals (x : Nat) (f : Ctx → Ctx) : (s.modCtx x f).arrivals = s.arrivals := rfl
@[simp] theorem State.modCtx_lastAdmitted (x : Nat) (f : Ctx → Ctx) : (s.modCtx x f).lastAdmitted = s.lastAdmitted := rfl
@[simp] theorem State.modCtx_snaps (x : Nat) (f : Ctx → Ctx) : (s.modCtx x f).snaps = s.snaps := rfl
@[simp] theorem State.modCtx_snapFree (x : Nat) (f : Ctx → Ctx) : (s.modCtx x f).snapFree = s.snapFree := rfl
@[simp] theorem State.modCtx_migs (x : Nat) (f : Ctx → Ctx) : (s.modCtx x f).migs = s.migs := rfl
@[simp] theorem State.modCtx_migIns (x : Nat) (f : Ctx → Ctx) : (s.modCtx x f).migIns = s.migIns := rfl
@[simp] theorem State.modCtx_rx (x : Nat) (f : Ctx → Ctx) : (s.modCtx x f).rx = s.rx := rfl
@[simp] theorem State.modCtx_opSeq (x : Nat) (f : Ctx → Ctx) : (s.modCtx x f).opSeq = s.opSeq := rfl
@[simp] theorem State.modCtx_mems (x : Nat) (f : Ctx → Ctx) : (s.modCtx x f).mems = s.mems := rfl
@[simp] theorem State.modCtx_freeFrames (x : Nat) (f : Ctx → Ctx) : (s.modCtx x f).freeFrames = s.freeFrames := rfl
@[simp] theorem State.modCtx_clearPend (x : Nat) (f : Ctx → Ctx) : (s.modCtx x f).clearPend = s.clearPend := rfl
@[simp] theorem State.modCtx_freeTiles (x : Nat) (f : Ctx → Ctx) : (s.modCtx x f).freeTiles = s.freeTiles := rfl
@[simp] theorem State.modCtx_seqs (x : Nat) (f : Ctx → Ctx) : (s.modCtx x f).seqs = s.seqs := rfl
@[simp] theorem State.modCtx_poolFree (x : Nat) (f : Ctx → Ctx) : (s.modCtx x f).poolFree = s.poolFree := rfl
@[simp] theorem State.modCtx_trunk (x : Nat) (f : Ctx → Ctx) : (s.modCtx x f).trunk = s.trunk := rfl
@[simp] theorem State.modCtx_tmarks (x : Nat) (f : Ctx → Ctx) : (s.modCtx x f).tmarks = s.tmarks := rfl
@[simp] theorem State.modCtx_root (x : Nat) (f : Ctx → Ctx) : (s.modCtx x f).root = s.root := rfl
@[simp] theorem State.modCtx_rmarks (x : Nat) (f : Ctx → Ctx) : (s.modCtx x f).rmarks = s.rmarks := rfl
@[simp] theorem State.modCtx_host (x : Nat) (f : Ctx → Ctx) : (s.modCtx x f).host = s.host := rfl
@[simp] theorem State.modCtx_links (x : Nat) (f : Ctx → Ctx) : (s.modCtx x f).links = s.links := rfl
@[simp] theorem State.modCtx_qps (x : Nat) (f : Ctx → Ctx) : (s.modCtx x f).qps = s.qps := rfl
@[simp] theorem State.modCtx_hbm (x : Nat) (f : Ctx → Ctx) : (s.modCtx x f).hbm = s.hbm := rfl
@[simp] theorem State.modCtx_towers (x : Nat) (f : Ctx → Ctx) : (s.modCtx x f).towers = s.towers := rfl
@[simp] theorem State.modCtx_power (x : Nat) (f : Ctx → Ctx) : (s.modCtx x f).power = s.power := rfl
@[simp] theorem State.modCtx_absent (x : Nat) (f : Ctx → Ctx) : (s.modCtx x f).absent = s.absent := rfl
@[simp] theorem State.modCtx_dead (x : Nat) (f : Ctx → Ctx) : (s.modCtx x f).dead = s.dead := rfl
@[simp] theorem State.modCtx_lcidPos (x : Nat) (f : Ctx → Ctx) : (s.modCtx x f).lcidPos = s.lcidPos := rfl
@[simp] theorem State.modCtx_flt (x : Nat) (f : Ctx → Ctx) : (s.modCtx x f).flt = s.flt := rfl
@[simp] theorem State.modCtx_sec (x : Nat) (f : Ctx → Ctx) : (s.modCtx x f).sec = s.sec := rfl
@[simp] theorem State.modCtx_outs (x : Nat) (f : Ctx → Ctx) : (s.modCtx x f).outs = s.outs := rfl

@[simp] theorem State.modMem_pending (p : Nat) (f : MemPart → MemPart) : (s.modMem p f).pending = s.pending := rfl
@[simp] theorem State.modMem_freeCnt (p : Nat) (f : MemPart → MemPart) : (s.modMem p f).freeCnt = s.freeCnt := rfl
@[simp] theorem State.modMem_regs (p : Nat) (f : MemPart → MemPart) : (s.modMem p f).regs = s.regs := rfl
@[simp] theorem State.modMem_ntu (p : Nat) (f : MemPart → MemPart) : (s.modMem p f).ntu = s.ntu := rfl
@[simp] theorem State.modMem_cores (p : Nat) (f : MemPart → MemPart) : (s.modMem p f).cores = s.cores := rfl
@[simp] theorem State.modMem_insts (p : Nat) (f : MemPart → MemPart) : (s.modMem p f).insts = s.insts := rfl
@[simp] theorem State.modMem_waiting (p : Nat) (f : MemPart → MemPart) : (s.modMem p f).waiting = s.waiting := rfl
@[simp] theorem State.modMem_steps (p : Nat) (f : MemPart → MemPart) : (s.modMem p f).steps = s.steps := rfl
@[simp] theorem State.modMem_replays (p : Nat) (f : MemPart → MemPart) : (s.modMem p f).replays = s.replays := rfl
@[simp] theorem State.modMem_nextObj (p : Nat) (f : MemPart → MemPart) : (s.modMem p f).nextObj = s.nextObj := rfl
@[simp] theorem State.modMem_arrivals (p : Nat) (f : MemPart → MemPart) : (s.modMem p f).arrivals = s.arrivals := rfl
@[simp] theorem State.modMem_lastAdmitted (p : Nat) (f : MemPart → MemPart) : (s.modMem p f).lastAdmitted = s.lastAdmitted := rfl
@[simp] theorem State.modMem_snaps (p : Nat) (f : MemPart → MemPart) : (s.modMem p f).snaps = s.snaps := rfl
@[simp] theorem State.modMem_snapFree (p : Nat) (f : MemPart → MemPart) : (s.modMem p f).snapFree = s.snapFree := rfl
@[simp] theorem State.modMem_migs (p : Nat) (f : MemPart → MemPart) : (s.modMem p f).migs = s.migs := rfl
@[simp] theorem State.modMem_migIns (p : Nat) (f : MemPart → MemPart) : (s.modMem p f).migIns = s.migIns := rfl
@[simp] theorem State.modMem_rx (p : Nat) (f : MemPart → MemPart) : (s.modMem p f).rx = s.rx := rfl
@[simp] theorem State.modMem_opSeq (p : Nat) (f : MemPart → MemPart) : (s.modMem p f).opSeq = s.opSeq := rfl
@[simp] theorem State.modMem_ctxs (p : Nat) (f : MemPart → MemPart) : (s.modMem p f).ctxs = s.ctxs := rfl
@[simp] theorem State.modMem_freeFrames (p : Nat) (f : MemPart → MemPart) : (s.modMem p f).freeFrames = s.freeFrames := rfl
@[simp] theorem State.modMem_clearPend (p : Nat) (f : MemPart → MemPart) : (s.modMem p f).clearPend = s.clearPend := rfl
@[simp] theorem State.modMem_freeTiles (p : Nat) (f : MemPart → MemPart) : (s.modMem p f).freeTiles = s.freeTiles := rfl
@[simp] theorem State.modMem_seqs (p : Nat) (f : MemPart → MemPart) : (s.modMem p f).seqs = s.seqs := rfl
@[simp] theorem State.modMem_poolFree (p : Nat) (f : MemPart → MemPart) : (s.modMem p f).poolFree = s.poolFree := rfl
@[simp] theorem State.modMem_trunk (p : Nat) (f : MemPart → MemPart) : (s.modMem p f).trunk = s.trunk := rfl
@[simp] theorem State.modMem_tmarks (p : Nat) (f : MemPart → MemPart) : (s.modMem p f).tmarks = s.tmarks := rfl
@[simp] theorem State.modMem_root (p : Nat) (f : MemPart → MemPart) : (s.modMem p f).root = s.root := rfl
@[simp] theorem State.modMem_rmarks (p : Nat) (f : MemPart → MemPart) : (s.modMem p f).rmarks = s.rmarks := rfl
@[simp] theorem State.modMem_host (p : Nat) (f : MemPart → MemPart) : (s.modMem p f).host = s.host := rfl
@[simp] theorem State.modMem_links (p : Nat) (f : MemPart → MemPart) : (s.modMem p f).links = s.links := rfl
@[simp] theorem State.modMem_qps (p : Nat) (f : MemPart → MemPart) : (s.modMem p f).qps = s.qps := rfl
@[simp] theorem State.modMem_hbm (p : Nat) (f : MemPart → MemPart) : (s.modMem p f).hbm = s.hbm := rfl
@[simp] theorem State.modMem_towers (p : Nat) (f : MemPart → MemPart) : (s.modMem p f).towers = s.towers := rfl
@[simp] theorem State.modMem_power (p : Nat) (f : MemPart → MemPart) : (s.modMem p f).power = s.power := rfl
@[simp] theorem State.modMem_absent (p : Nat) (f : MemPart → MemPart) : (s.modMem p f).absent = s.absent := rfl
@[simp] theorem State.modMem_dead (p : Nat) (f : MemPart → MemPart) : (s.modMem p f).dead = s.dead := rfl
@[simp] theorem State.modMem_lcidPos (p : Nat) (f : MemPart → MemPart) : (s.modMem p f).lcidPos = s.lcidPos := rfl
@[simp] theorem State.modMem_flt (p : Nat) (f : MemPart → MemPart) : (s.modMem p f).flt = s.flt := rfl
@[simp] theorem State.modMem_sec (p : Nat) (f : MemPart → MemPart) : (s.modMem p f).sec = s.sec := rfl
@[simp] theorem State.modMem_outs (p : Nat) (f : MemPart → MemPart) : (s.modMem p f).outs = s.outs := rfl

@[simp] theorem State.modStack_pending (t : Nat) (f : Stack → Stack) : (s.modStack t f).pending = s.pending := rfl
@[simp] theorem State.modStack_freeCnt (t : Nat) (f : Stack → Stack) : (s.modStack t f).freeCnt = s.freeCnt := rfl
@[simp] theorem State.modStack_regs (t : Nat) (f : Stack → Stack) : (s.modStack t f).regs = s.regs := rfl
@[simp] theorem State.modStack_ntu (t : Nat) (f : Stack → Stack) : (s.modStack t f).ntu = s.ntu := rfl
@[simp] theorem State.modStack_cores (t : Nat) (f : Stack → Stack) : (s.modStack t f).cores = s.cores := rfl
@[simp] theorem State.modStack_insts (t : Nat) (f : Stack → Stack) : (s.modStack t f).insts = s.insts := rfl
@[simp] theorem State.modStack_waiting (t : Nat) (f : Stack → Stack) : (s.modStack t f).waiting = s.waiting := rfl
@[simp] theorem State.modStack_steps (t : Nat) (f : Stack → Stack) : (s.modStack t f).steps = s.steps := rfl
@[simp] theorem State.modStack_replays (t : Nat) (f : Stack → Stack) : (s.modStack t f).replays = s.replays := rfl
@[simp] theorem State.modStack_nextObj (t : Nat) (f : Stack → Stack) : (s.modStack t f).nextObj = s.nextObj := rfl
@[simp] theorem State.modStack_arrivals (t : Nat) (f : Stack → Stack) : (s.modStack t f).arrivals = s.arrivals := rfl
@[simp] theorem State.modStack_lastAdmitted (t : Nat) (f : Stack → Stack) : (s.modStack t f).lastAdmitted = s.lastAdmitted := rfl
@[simp] theorem State.modStack_snaps (t : Nat) (f : Stack → Stack) : (s.modStack t f).snaps = s.snaps := rfl
@[simp] theorem State.modStack_snapFree (t : Nat) (f : Stack → Stack) : (s.modStack t f).snapFree = s.snapFree := rfl
@[simp] theorem State.modStack_migs (t : Nat) (f : Stack → Stack) : (s.modStack t f).migs = s.migs := rfl
@[simp] theorem State.modStack_migIns (t : Nat) (f : Stack → Stack) : (s.modStack t f).migIns = s.migIns := rfl
@[simp] theorem State.modStack_rx (t : Nat) (f : Stack → Stack) : (s.modStack t f).rx = s.rx := rfl
@[simp] theorem State.modStack_opSeq (t : Nat) (f : Stack → Stack) : (s.modStack t f).opSeq = s.opSeq := rfl
@[simp] theorem State.modStack_ctxs (t : Nat) (f : Stack → Stack) : (s.modStack t f).ctxs = s.ctxs := rfl
@[simp] theorem State.modStack_mems (t : Nat) (f : Stack → Stack) : (s.modStack t f).mems = s.mems := rfl
@[simp] theorem State.modStack_freeFrames (t : Nat) (f : Stack → Stack) : (s.modStack t f).freeFrames = s.freeFrames := rfl
@[simp] theorem State.modStack_clearPend (t : Nat) (f : Stack → Stack) : (s.modStack t f).clearPend = s.clearPend := rfl
@[simp] theorem State.modStack_freeTiles (t : Nat) (f : Stack → Stack) : (s.modStack t f).freeTiles = s.freeTiles := rfl
@[simp] theorem State.modStack_seqs (t : Nat) (f : Stack → Stack) : (s.modStack t f).seqs = s.seqs := rfl
@[simp] theorem State.modStack_poolFree (t : Nat) (f : Stack → Stack) : (s.modStack t f).poolFree = s.poolFree := rfl
@[simp] theorem State.modStack_trunk (t : Nat) (f : Stack → Stack) : (s.modStack t f).trunk = s.trunk := rfl
@[simp] theorem State.modStack_tmarks (t : Nat) (f : Stack → Stack) : (s.modStack t f).tmarks = s.tmarks := rfl
@[simp] theorem State.modStack_root (t : Nat) (f : Stack → Stack) : (s.modStack t f).root = s.root := rfl
@[simp] theorem State.modStack_rmarks (t : Nat) (f : Stack → Stack) : (s.modStack t f).rmarks = s.rmarks := rfl
@[simp] theorem State.modStack_host (t : Nat) (f : Stack → Stack) : (s.modStack t f).host = s.host := rfl
@[simp] theorem State.modStack_links (t : Nat) (f : Stack → Stack) : (s.modStack t f).links = s.links := rfl
@[simp] theorem State.modStack_qps (t : Nat) (f : Stack → Stack) : (s.modStack t f).qps = s.qps := rfl
@[simp] theorem State.modStack_towers (t : Nat) (f : Stack → Stack) : (s.modStack t f).towers = s.towers := rfl
@[simp] theorem State.modStack_power (t : Nat) (f : Stack → Stack) : (s.modStack t f).power = s.power := rfl
@[simp] theorem State.modStack_absent (t : Nat) (f : Stack → Stack) : (s.modStack t f).absent = s.absent := rfl
@[simp] theorem State.modStack_dead (t : Nat) (f : Stack → Stack) : (s.modStack t f).dead = s.dead := rfl
@[simp] theorem State.modStack_lcidPos (t : Nat) (f : Stack → Stack) : (s.modStack t f).lcidPos = s.lcidPos := rfl
@[simp] theorem State.modStack_flt (t : Nat) (f : Stack → Stack) : (s.modStack t f).flt = s.flt := rfl
@[simp] theorem State.modStack_sec (t : Nat) (f : Stack → Stack) : (s.modStack t f).sec = s.sec := rfl
@[simp] theorem State.modStack_outs (t : Nat) (f : Stack → Stack) : (s.modStack t f).outs = s.outs := rfl

@[simp] theorem State.modTower_pending (t : Nat) (f : Tower → Tower) : (s.modTower t f).pending = s.pending := rfl
@[simp] theorem State.modTower_freeCnt (t : Nat) (f : Tower → Tower) : (s.modTower t f).freeCnt = s.freeCnt := rfl
@[simp] theorem State.modTower_regs (t : Nat) (f : Tower → Tower) : (s.modTower t f).regs = s.regs := rfl
@[simp] theorem State.modTower_ntu (t : Nat) (f : Tower → Tower) : (s.modTower t f).ntu = s.ntu := rfl
@[simp] theorem State.modTower_cores (t : Nat) (f : Tower → Tower) : (s.modTower t f).cores = s.cores := rfl
@[simp] theorem State.modTower_insts (t : Nat) (f : Tower → Tower) : (s.modTower t f).insts = s.insts := rfl
@[simp] theorem State.modTower_waiting (t : Nat) (f : Tower → Tower) : (s.modTower t f).waiting = s.waiting := rfl
@[simp] theorem State.modTower_steps (t : Nat) (f : Tower → Tower) : (s.modTower t f).steps = s.steps := rfl
@[simp] theorem State.modTower_replays (t : Nat) (f : Tower → Tower) : (s.modTower t f).replays = s.replays := rfl
@[simp] theorem State.modTower_nextObj (t : Nat) (f : Tower → Tower) : (s.modTower t f).nextObj = s.nextObj := rfl
@[simp] theorem State.modTower_arrivals (t : Nat) (f : Tower → Tower) : (s.modTower t f).arrivals = s.arrivals := rfl
@[simp] theorem State.modTower_lastAdmitted (t : Nat) (f : Tower → Tower) : (s.modTower t f).lastAdmitted = s.lastAdmitted := rfl
@[simp] theorem State.modTower_snaps (t : Nat) (f : Tower → Tower) : (s.modTower t f).snaps = s.snaps := rfl
@[simp] theorem State.modTower_snapFree (t : Nat) (f : Tower → Tower) : (s.modTower t f).snapFree = s.snapFree := rfl
@[simp] theorem State.modTower_migs (t : Nat) (f : Tower → Tower) : (s.modTower t f).migs = s.migs := rfl
@[simp] theorem State.modTower_migIns (t : Nat) (f : Tower → Tower) : (s.modTower t f).migIns = s.migIns := rfl
@[simp] theorem State.modTower_rx (t : Nat) (f : Tower → Tower) : (s.modTower t f).rx = s.rx := rfl
@[simp] theorem State.modTower_opSeq (t : Nat) (f : Tower → Tower) : (s.modTower t f).opSeq = s.opSeq := rfl
@[simp] theorem State.modTower_ctxs (t : Nat) (f : Tower → Tower) : (s.modTower t f).ctxs = s.ctxs := rfl
@[simp] theorem State.modTower_mems (t : Nat) (f : Tower → Tower) : (s.modTower t f).mems = s.mems := rfl
@[simp] theorem State.modTower_freeFrames (t : Nat) (f : Tower → Tower) : (s.modTower t f).freeFrames = s.freeFrames := rfl
@[simp] theorem State.modTower_clearPend (t : Nat) (f : Tower → Tower) : (s.modTower t f).clearPend = s.clearPend := rfl
@[simp] theorem State.modTower_freeTiles (t : Nat) (f : Tower → Tower) : (s.modTower t f).freeTiles = s.freeTiles := rfl
@[simp] theorem State.modTower_seqs (t : Nat) (f : Tower → Tower) : (s.modTower t f).seqs = s.seqs := rfl
@[simp] theorem State.modTower_poolFree (t : Nat) (f : Tower → Tower) : (s.modTower t f).poolFree = s.poolFree := rfl
@[simp] theorem State.modTower_trunk (t : Nat) (f : Tower → Tower) : (s.modTower t f).trunk = s.trunk := rfl
@[simp] theorem State.modTower_tmarks (t : Nat) (f : Tower → Tower) : (s.modTower t f).tmarks = s.tmarks := rfl
@[simp] theorem State.modTower_root (t : Nat) (f : Tower → Tower) : (s.modTower t f).root = s.root := rfl
@[simp] theorem State.modTower_rmarks (t : Nat) (f : Tower → Tower) : (s.modTower t f).rmarks = s.rmarks := rfl
@[simp] theorem State.modTower_host (t : Nat) (f : Tower → Tower) : (s.modTower t f).host = s.host := rfl
@[simp] theorem State.modTower_links (t : Nat) (f : Tower → Tower) : (s.modTower t f).links = s.links := rfl
@[simp] theorem State.modTower_qps (t : Nat) (f : Tower → Tower) : (s.modTower t f).qps = s.qps := rfl
@[simp] theorem State.modTower_hbm (t : Nat) (f : Tower → Tower) : (s.modTower t f).hbm = s.hbm := rfl
@[simp] theorem State.modTower_power (t : Nat) (f : Tower → Tower) : (s.modTower t f).power = s.power := rfl
@[simp] theorem State.modTower_absent (t : Nat) (f : Tower → Tower) : (s.modTower t f).absent = s.absent := rfl
@[simp] theorem State.modTower_dead (t : Nat) (f : Tower → Tower) : (s.modTower t f).dead = s.dead := rfl
@[simp] theorem State.modTower_lcidPos (t : Nat) (f : Tower → Tower) : (s.modTower t f).lcidPos = s.lcidPos := rfl
@[simp] theorem State.modTower_flt (t : Nat) (f : Tower → Tower) : (s.modTower t f).flt = s.flt := rfl
@[simp] theorem State.modTower_sec (t : Nat) (f : Tower → Tower) : (s.modTower t f).sec = s.sec := rfl
@[simp] theorem State.modTower_outs (t : Nat) (f : Tower → Tower) : (s.modTower t f).outs = s.outs := rfl

@[simp] theorem State.modPower_pending (f : Power → Power) : (s.modPower f).pending = s.pending := rfl
@[simp] theorem State.modPower_freeCnt (f : Power → Power) : (s.modPower f).freeCnt = s.freeCnt := rfl
@[simp] theorem State.modPower_regs (f : Power → Power) : (s.modPower f).regs = s.regs := rfl
@[simp] theorem State.modPower_ntu (f : Power → Power) : (s.modPower f).ntu = s.ntu := rfl
@[simp] theorem State.modPower_cores (f : Power → Power) : (s.modPower f).cores = s.cores := rfl
@[simp] theorem State.modPower_insts (f : Power → Power) : (s.modPower f).insts = s.insts := rfl
@[simp] theorem State.modPower_waiting (f : Power → Power) : (s.modPower f).waiting = s.waiting := rfl
@[simp] theorem State.modPower_steps (f : Power → Power) : (s.modPower f).steps = s.steps := rfl
@[simp] theorem State.modPower_replays (f : Power → Power) : (s.modPower f).replays = s.replays := rfl
@[simp] theorem State.modPower_nextObj (f : Power → Power) : (s.modPower f).nextObj = s.nextObj := rfl
@[simp] theorem State.modPower_arrivals (f : Power → Power) : (s.modPower f).arrivals = s.arrivals := rfl
@[simp] theorem State.modPower_lastAdmitted (f : Power → Power) : (s.modPower f).lastAdmitted = s.lastAdmitted := rfl
@[simp] theorem State.modPower_snaps (f : Power → Power) : (s.modPower f).snaps = s.snaps := rfl
@[simp] theorem State.modPower_snapFree (f : Power → Power) : (s.modPower f).snapFree = s.snapFree := rfl
@[simp] theorem State.modPower_migs (f : Power → Power) : (s.modPower f).migs = s.migs := rfl
@[simp] theorem State.modPower_migIns (f : Power → Power) : (s.modPower f).migIns = s.migIns := rfl
@[simp] theorem State.modPower_rx (f : Power → Power) : (s.modPower f).rx = s.rx := rfl
@[simp] theorem State.modPower_opSeq (f : Power → Power) : (s.modPower f).opSeq = s.opSeq := rfl
@[simp] theorem State.modPower_ctxs (f : Power → Power) : (s.modPower f).ctxs = s.ctxs := rfl
@[simp] theorem State.modPower_mems (f : Power → Power) : (s.modPower f).mems = s.mems := rfl
@[simp] theorem State.modPower_freeFrames (f : Power → Power) : (s.modPower f).freeFrames = s.freeFrames := rfl
@[simp] theorem State.modPower_clearPend (f : Power → Power) : (s.modPower f).clearPend = s.clearPend := rfl
@[simp] theorem State.modPower_freeTiles (f : Power → Power) : (s.modPower f).freeTiles = s.freeTiles := rfl
@[simp] theorem State.modPower_seqs (f : Power → Power) : (s.modPower f).seqs = s.seqs := rfl
@[simp] theorem State.modPower_poolFree (f : Power → Power) : (s.modPower f).poolFree = s.poolFree := rfl
@[simp] theorem State.modPower_trunk (f : Power → Power) : (s.modPower f).trunk = s.trunk := rfl
@[simp] theorem State.modPower_tmarks (f : Power → Power) : (s.modPower f).tmarks = s.tmarks := rfl
@[simp] theorem State.modPower_root (f : Power → Power) : (s.modPower f).root = s.root := rfl
@[simp] theorem State.modPower_rmarks (f : Power → Power) : (s.modPower f).rmarks = s.rmarks := rfl
@[simp] theorem State.modPower_host (f : Power → Power) : (s.modPower f).host = s.host := rfl
@[simp] theorem State.modPower_links (f : Power → Power) : (s.modPower f).links = s.links := rfl
@[simp] theorem State.modPower_qps (f : Power → Power) : (s.modPower f).qps = s.qps := rfl
@[simp] theorem State.modPower_hbm (f : Power → Power) : (s.modPower f).hbm = s.hbm := rfl
@[simp] theorem State.modPower_towers (f : Power → Power) : (s.modPower f).towers = s.towers := rfl
@[simp] theorem State.modPower_absent (f : Power → Power) : (s.modPower f).absent = s.absent := rfl
@[simp] theorem State.modPower_dead (f : Power → Power) : (s.modPower f).dead = s.dead := rfl
@[simp] theorem State.modPower_lcidPos (f : Power → Power) : (s.modPower f).lcidPos = s.lcidPos := rfl
@[simp] theorem State.modPower_flt (f : Power → Power) : (s.modPower f).flt = s.flt := rfl
@[simp] theorem State.modPower_sec (f : Power → Power) : (s.modPower f).sec = s.sec := rfl
@[simp] theorem State.modPower_outs (f : Power → Power) : (s.modPower f).outs = s.outs := rfl

@[simp] theorem State.send_pending (o : Out) : (s.send o).pending = s.pending := rfl
@[simp] theorem State.send_freeCnt (o : Out) : (s.send o).freeCnt = s.freeCnt := rfl
@[simp] theorem State.send_regs (o : Out) : (s.send o).regs = s.regs := rfl
@[simp] theorem State.send_ntu (o : Out) : (s.send o).ntu = s.ntu := rfl
@[simp] theorem State.send_cores (o : Out) : (s.send o).cores = s.cores := rfl
@[simp] theorem State.send_insts (o : Out) : (s.send o).insts = s.insts := rfl
@[simp] theorem State.send_waiting (o : Out) : (s.send o).waiting = s.waiting := rfl
@[simp] theorem State.send_steps (o : Out) : (s.send o).steps = s.steps := rfl
@[simp] theorem State.send_replays (o : Out) : (s.send o).replays = s.replays := rfl
@[simp] theorem State.send_nextObj (o : Out) : (s.send o).nextObj = s.nextObj := rfl
@[simp] theorem State.send_arrivals (o : Out) : (s.send o).arrivals = s.arrivals := rfl
@[simp] theorem State.send_lastAdmitted (o : Out) : (s.send o).lastAdmitted = s.lastAdmitted := rfl
@[simp] theorem State.send_snaps (o : Out) : (s.send o).snaps = s.snaps := rfl
@[simp] theorem State.send_snapFree (o : Out) : (s.send o).snapFree = s.snapFree := rfl
@[simp] theorem State.send_migs (o : Out) : (s.send o).migs = s.migs := rfl
@[simp] theorem State.send_migIns (o : Out) : (s.send o).migIns = s.migIns := rfl
@[simp] theorem State.send_rx (o : Out) : (s.send o).rx = s.rx := rfl
@[simp] theorem State.send_opSeq (o : Out) : (s.send o).opSeq = s.opSeq := rfl
@[simp] theorem State.send_ctxs (o : Out) : (s.send o).ctxs = s.ctxs := rfl
@[simp] theorem State.send_mems (o : Out) : (s.send o).mems = s.mems := rfl
@[simp] theorem State.send_freeFrames (o : Out) : (s.send o).freeFrames = s.freeFrames := rfl
@[simp] theorem State.send_clearPend (o : Out) : (s.send o).clearPend = s.clearPend := rfl
@[simp] theorem State.send_freeTiles (o : Out) : (s.send o).freeTiles = s.freeTiles := rfl
@[simp] theorem State.send_seqs (o : Out) : (s.send o).seqs = s.seqs := rfl
@[simp] theorem State.send_poolFree (o : Out) : (s.send o).poolFree = s.poolFree := rfl
@[simp] theorem State.send_trunk (o : Out) : (s.send o).trunk = s.trunk := rfl
@[simp] theorem State.send_tmarks (o : Out) : (s.send o).tmarks = s.tmarks := rfl
@[simp] theorem State.send_root (o : Out) : (s.send o).root = s.root := rfl
@[simp] theorem State.send_rmarks (o : Out) : (s.send o).rmarks = s.rmarks := rfl
@[simp] theorem State.send_host (o : Out) : (s.send o).host = s.host := rfl
@[simp] theorem State.send_links (o : Out) : (s.send o).links = s.links := rfl
@[simp] theorem State.send_qps (o : Out) : (s.send o).qps = s.qps := rfl
@[simp] theorem State.send_hbm (o : Out) : (s.send o).hbm = s.hbm := rfl
@[simp] theorem State.send_towers (o : Out) : (s.send o).towers = s.towers := rfl
@[simp] theorem State.send_power (o : Out) : (s.send o).power = s.power := rfl
@[simp] theorem State.send_absent (o : Out) : (s.send o).absent = s.absent := rfl
@[simp] theorem State.send_dead (o : Out) : (s.send o).dead = s.dead := rfl
@[simp] theorem State.send_lcidPos (o : Out) : (s.send o).lcidPos = s.lcidPos := rfl
@[simp] theorem State.send_flt (o : Out) : (s.send o).flt = s.flt := rfl
@[simp] theorem State.send_sec (o : Out) : (s.send o).sec = s.sec := rfl

@[simp] theorem State.draw_pending : s.draw.2.pending = s.pending := rfl
@[simp] theorem State.draw_regs : s.draw.2.regs = s.regs := rfl
@[simp] theorem State.draw_ntu : s.draw.2.ntu = s.ntu := rfl
@[simp] theorem State.draw_cores : s.draw.2.cores = s.cores := rfl
@[simp] theorem State.draw_insts : s.draw.2.insts = s.insts := rfl
@[simp] theorem State.draw_waiting : s.draw.2.waiting = s.waiting := rfl
@[simp] theorem State.draw_steps : s.draw.2.steps = s.steps := rfl
@[simp] theorem State.draw_replays : s.draw.2.replays = s.replays := rfl
@[simp] theorem State.draw_nextObj : s.draw.2.nextObj = s.nextObj := rfl
@[simp] theorem State.draw_arrivals : s.draw.2.arrivals = s.arrivals := rfl
@[simp] theorem State.draw_lastAdmitted : s.draw.2.lastAdmitted = s.lastAdmitted := rfl
@[simp] theorem State.draw_snaps : s.draw.2.snaps = s.snaps := rfl
@[simp] theorem State.draw_snapFree : s.draw.2.snapFree = s.snapFree := rfl
@[simp] theorem State.draw_migs : s.draw.2.migs = s.migs := rfl
@[simp] theorem State.draw_migIns : s.draw.2.migIns = s.migIns := rfl
@[simp] theorem State.draw_rx : s.draw.2.rx = s.rx := rfl
@[simp] theorem State.draw_opSeq : s.draw.2.opSeq = s.opSeq := rfl
@[simp] theorem State.draw_ctxs : s.draw.2.ctxs = s.ctxs := rfl
@[simp] theorem State.draw_mems : s.draw.2.mems = s.mems := rfl
@[simp] theorem State.draw_freeFrames : s.draw.2.freeFrames = s.freeFrames := rfl
@[simp] theorem State.draw_clearPend : s.draw.2.clearPend = s.clearPend := rfl
@[simp] theorem State.draw_freeTiles : s.draw.2.freeTiles = s.freeTiles := rfl
@[simp] theorem State.draw_seqs : s.draw.2.seqs = s.seqs := rfl
@[simp] theorem State.draw_poolFree : s.draw.2.poolFree = s.poolFree := rfl
@[simp] theorem State.draw_trunk : s.draw.2.trunk = s.trunk := rfl
@[simp] theorem State.draw_tmarks : s.draw.2.tmarks = s.tmarks := rfl
@[simp] theorem State.draw_root : s.draw.2.root = s.root := rfl
@[simp] theorem State.draw_rmarks : s.draw.2.rmarks = s.rmarks := rfl
@[simp] theorem State.draw_host : s.draw.2.host = s.host := rfl
@[simp] theorem State.draw_links : s.draw.2.links = s.links := rfl
@[simp] theorem State.draw_qps : s.draw.2.qps = s.qps := rfl
@[simp] theorem State.draw_hbm : s.draw.2.hbm = s.hbm := rfl
@[simp] theorem State.draw_towers : s.draw.2.towers = s.towers := rfl
@[simp] theorem State.draw_power : s.draw.2.power = s.power := rfl
@[simp] theorem State.draw_absent : s.draw.2.absent = s.absent := rfl
@[simp] theorem State.draw_dead : s.draw.2.dead = s.dead := rfl
@[simp] theorem State.draw_lcidPos : s.draw.2.lcidPos = s.lcidPos := rfl
@[simp] theorem State.draw_flt : s.draw.2.flt = s.flt := rfl
@[simp] theorem State.draw_sec : s.draw.2.sec = s.sec := rfl
@[simp] theorem State.draw_outs : s.draw.2.outs = s.outs := rfl
@[simp] theorem State.draw_freeCnt : s.draw.2.freeCnt = s.freeCnt + 1 := rfl
@[simp] theorem State.send_outs (o : Out) : (s.send o).outs = o :: s.outs := rfl
@[simp] theorem State.modPower_power (f : Power → Power) : (s.modPower f).power = f s.power := rfl

/-! ### Tables -/

@[simp] theorem State.core_setCore (k : Nat) (x : Core) : (s.setCore k x).core k = x := SMap.get_set_same _ _ k _
theorem State.core_setCore_ne {k q : Nat} (x : Core) (h : q ≠ k) : (s.setCore k x).core q = s.core q := SMap.get_set_ne _ _ _ _ h
@[simp] theorem State.core_modCore (k : Nat) (f : Core → Core) : (s.modCore k f).core k = f (s.core k) := SMap.get_set_same _ _ k _
theorem State.core_modCore_ne {k q : Nat} (f : Core → Core) (h : q ≠ k) : (s.modCore k f).core q = s.core q := SMap.get_set_ne _ _ _ _ h
@[simp] theorem State.inst_setInst (k : Nat) (x : Inst) : (s.setInst k x).inst k = x := SMap.get_set_same _ _ k _
theorem State.inst_setInst_ne {k q : Nat} (x : Inst) (h : q ≠ k) : (s.setInst k x).inst q = s.inst q := SMap.get_set_ne _ _ _ _ h
@[simp] theorem State.inst_modInst (k : Nat) (f : Inst → Inst) : (s.modInst k f).inst k = f (s.inst k) := SMap.get_set_same _ _ k _
theorem State.inst_modInst_ne {k q : Nat} (f : Inst → Inst) (h : q ≠ k) : (s.modInst k f).inst q = s.inst q := SMap.get_set_ne _ _ _ _ h
@[simp] theorem State.ctx_setCtx (k : Nat) (x : Ctx) : (s.setCtx k x).ctx k = x := SMap.get_set_same _ _ k _
theorem State.ctx_setCtx_ne {k q : Nat} (x : Ctx) (h : q ≠ k) : (s.setCtx k x).ctx q = s.ctx q := SMap.get_set_ne _ _ _ _ h
@[simp] theorem State.ctx_modCtx (k : Nat) (f : Ctx → Ctx) : (s.modCtx k f).ctx k = f (s.ctx k) := SMap.get_set_same _ _ k _
theorem State.ctx_modCtx_ne {k q : Nat} (f : Ctx → Ctx) (h : q ≠ k) : (s.modCtx k f).ctx q = s.ctx q := SMap.get_set_ne _ _ _ _ h
@[simp] theorem State.mem_modMem (k : Nat) (f : MemPart → MemPart) : (s.modMem k f).mem k = f (s.mem k) := SMap.get_set_same _ _ k _
theorem State.mem_modMem_ne {k q : Nat} (f : MemPart → MemPart) (h : q ≠ k) : (s.modMem k f).mem q = s.mem q := SMap.get_set_ne _ _ _ _ h
@[simp] theorem State.stack_modStack (k : Nat) (f : Stack → Stack) : (s.modStack k f).stack k = f (s.stack k) := SMap.get_set_same _ _ k _
theorem State.stack_modStack_ne {k q : Nat} (f : Stack → Stack) (h : q ≠ k) : (s.modStack k f).stack q = s.stack q := SMap.get_set_ne _ _ _ _ h
@[simp] theorem State.tower_modTower (k : Nat) (f : Tower → Tower) : (s.modTower k f).tower k = f (s.tower k) := SMap.get_set_same _ _ k _
theorem State.tower_modTower_ne {k q : Nat} (f : Tower → Tower) (h : q ≠ k) : (s.modTower k f).tower q = s.tower q := SMap.get_set_ne _ _ _ _ h

/-! ### The readers of one table see nothing of an update of another -/

@[simp] theorem State.setReg_core (r : RegId) (i : Nat) (v : Word) (q : Nat) : (s.setReg r i v).core q = s.core q := rfl
@[simp] theorem State.setReg_inst (r : RegId) (i : Nat) (v : Word) (q : Nat) : (s.setReg r i v).inst q = s.inst q := rfl
@[simp] theorem State.setReg_ctx (r : RegId) (i : Nat) (v : Word) (q : Nat) : (s.setReg r i v).ctx q = s.ctx q := rfl
@[simp] theorem State.setReg_mem (r : RegId) (i : Nat) (v : Word) (q : Nat) : (s.setReg r i v).mem q = s.mem q := rfl
@[simp] theorem State.setReg_stack (r : RegId) (i : Nat) (v : Word) (q : Nat) : (s.setReg r i v).stack q = s.stack q := rfl
@[simp] theorem State.setReg_tower (r : RegId) (i : Nat) (v : Word) (q : Nat) : (s.setReg r i v).tower q = s.tower q := rfl
@[simp] theorem State.setFld_core (f : Fld) (i v : Nat) (q : Nat) : (s.setFld f i v).core q = s.core q := rfl
@[simp] theorem State.setFld_inst (f : Fld) (i v : Nat) (q : Nat) : (s.setFld f i v).inst q = s.inst q := rfl
@[simp] theorem State.setFld_ctx (f : Fld) (i v : Nat) (q : Nat) : (s.setFld f i v).ctx q = s.ctx q := rfl
@[simp] theorem State.setFld_mem (f : Fld) (i v : Nat) (q : Nat) : (s.setFld f i v).mem q = s.mem q := rfl
@[simp] theorem State.setFld_stack (f : Fld) (i v : Nat) (q : Nat) : (s.setFld f i v).stack q = s.stack q := rfl
@[simp] theorem State.setFld_tower (f : Fld) (i v : Nat) (q : Nat) : (s.setFld f i v).tower q = s.tower q := rfl
@[simp] theorem State.incr_core (f : Fld) (i n : Nat) (q : Nat) : (s.incr f i n).core q = s.core q := rfl
@[simp] theorem State.incr_inst (f : Fld) (i n : Nat) (q : Nat) : (s.incr f i n).inst q = s.inst q := rfl
@[simp] theorem State.incr_ctx (f : Fld) (i n : Nat) (q : Nat) : (s.incr f i n).ctx q = s.ctx q := rfl
@[simp] theorem State.incr_mem (f : Fld) (i n : Nat) (q : Nat) : (s.incr f i n).mem q = s.mem q := rfl
@[simp] theorem State.incr_stack (f : Fld) (i n : Nat) (q : Nat) : (s.incr f i n).stack q = s.stack q := rfl
@[simp] theorem State.incr_tower (f : Fld) (i n : Nat) (q : Nat) : (s.incr f i n).tower q = s.tower q := rfl
@[simp] theorem State.inc_core (f : Fld) (i : Nat) (q : Nat) : (s.inc f i).core q = s.core q := rfl
@[simp] theorem State.inc_inst (f : Fld) (i : Nat) (q : Nat) : (s.inc f i).inst q = s.inst q := rfl
@[simp] theorem State.inc_ctx (f : Fld) (i : Nat) (q : Nat) : (s.inc f i).ctx q = s.ctx q := rfl
@[simp] theorem State.inc_mem (f : Fld) (i : Nat) (q : Nat) : (s.inc f i).mem q = s.mem q := rfl
@[simp] theorem State.inc_stack (f : Fld) (i : Nat) (q : Nat) : (s.inc f i).stack q = s.stack q := rfl
@[simp] theorem State.inc_tower (f : Fld) (i : Nat) (q : Nat) : (s.inc f i).tower q = s.tower q := rfl
@[simp] theorem State.setCore_inst (c : Nat) (x : Core) (q : Nat) : (s.setCore c x).inst q = s.inst q := rfl
@[simp] theorem State.setCore_ctx (c : Nat) (x : Core) (q : Nat) : (s.setCore c x).ctx q = s.ctx q := rfl
@[simp] theorem State.setCore_mem (c : Nat) (x : Core) (q : Nat) : (s.setCore c x).mem q = s.mem q := rfl
@[simp] theorem State.setCore_stack (c : Nat) (x : Core) (q : Nat) : (s.setCore c x).stack q = s.stack q := rfl
@[simp] theorem State.setCore_tower (c : Nat) (x : Core) (q : Nat) : (s.setCore c x).tower q = s.tower q := rfl
@[simp] theorem State.setCore_reg (c : Nat) (x : Core) (q : RegId) (j : Nat) : (s.setCore c x).reg q j = s.reg q j := rfl
@[simp] theorem State.setCore_fld (c : Nat) (x : Core) (g : Fld) (j : Nat) : (s.setCore c x).fld g j = s.fld g j := rfl
@[simp] theorem State.modCore_inst (c : Nat) (f : Core → Core) (q : Nat) : (s.modCore c f).inst q = s.inst q := rfl
@[simp] theorem State.modCore_ctx (c : Nat) (f : Core → Core) (q : Nat) : (s.modCore c f).ctx q = s.ctx q := rfl
@[simp] theorem State.modCore_mem (c : Nat) (f : Core → Core) (q : Nat) : (s.modCore c f).mem q = s.mem q := rfl
@[simp] theorem State.modCore_stack (c : Nat) (f : Core → Core) (q : Nat) : (s.modCore c f).stack q = s.stack q := rfl
@[simp] theorem State.modCore_tower (c : Nat) (f : Core → Core) (q : Nat) : (s.modCore c f).tower q = s.tower q := rfl
@[simp] theorem State.modCore_reg (c : Nat) (f : Core → Core) (q : RegId) (j : Nat) : (s.modCore c f).reg q j = s.reg q j := rfl
@[simp] theorem State.modCore_fld (c : Nat) (f : Core → Core) (g : Fld) (j : Nat) : (s.modCore c f).fld g j = s.fld g j := rfl
@[simp] theorem State.setInst_core (i : Nat) (x : Inst) (q : Nat) : (s.setInst i x).core q = s.core q := rfl
@[simp] theorem State.setInst_ctx (i : Nat) (x : Inst) (q : Nat) : (s.setInst i x).ctx q = s.ctx q := rfl
@[simp] theorem State.setInst_mem (i : Nat) (x : Inst) (q : Nat) : (s.setInst i x).mem q = s.mem q := rfl
@[simp] theorem State.setInst_stack (i : Nat) (x : Inst) (q : Nat) : (s.setInst i x).stack q = s.stack q := rfl
@[simp] theorem State.setInst_tower (i : Nat) (x : Inst) (q : Nat) : (s.setInst i x).tower q = s.tower q := rfl
@[simp] theorem State.setInst_reg (i : Nat) (x : Inst) (q : RegId) (j : Nat) : (s.setInst i x).reg q j = s.reg q j := rfl
@[simp] theorem State.setInst_fld (i : Nat) (x : Inst) (g : Fld) (j : Nat) : (s.setInst i x).fld g j = s.fld g j := rfl
@[simp] theorem State.modInst_core (i : Nat) (f : Inst → Inst) (q : Nat) : (s.modInst i f).core q = s.core q := rfl
@[simp] theorem State.modInst_ctx (i : Nat) (f : Inst → Inst) (q : Nat) : (s.modInst i f).ctx q = s.ctx q := rfl
@[simp] theorem State.modInst_mem (i : Nat) (f : Inst → Inst) (q : Nat) : (s.modInst i f).mem q = s.mem q := rfl
@[simp] theorem State.modInst_stack (i : Nat) (f : Inst → Inst) (q : Nat) : (s.modInst i f).stack q = s.stack q := rfl
@[simp] theorem State.modInst_tower (i : Nat) (f : Inst → Inst) (q : Nat) : (s.modInst i f).tower q = s.tower q := rfl
@[simp] theorem State.modInst_reg (i : Nat) (f : Inst → Inst) (q : RegId) (j : Nat) : (s.modInst i f).reg q j = s.reg q j := rfl
@[simp] theorem State.modInst_fld (i : Nat) (f : Inst → Inst) (g : Fld) (j : Nat) : (s.modInst i f).fld g j = s.fld g j := rfl
@[simp] theorem State.setCtx_core (x : Nat) (c : Ctx) (q : Nat) : (s.setCtx x c).core q = s.core q := rfl
@[simp] theorem State.setCtx_inst (x : Nat) (c : Ctx) (q : Nat) : (s.setCtx x c).inst q = s.inst q := rfl
@[simp] theorem State.setCtx_mem (x : Nat) (c : Ctx) (q : Nat) : (s.setCtx x c).mem q = s.mem q := rfl
@[simp] theorem State.setCtx_stack (x : Nat) (c : Ctx) (q : Nat) : (s.setCtx x c).stack q = s.stack q := rfl
@[simp] theorem State.setCtx_tower (x : Nat) (c : Ctx) (q : Nat) : (s.setCtx x c).tower q = s.tower q := rfl
@[simp] theorem State.setCtx_reg (x : Nat) (c : Ctx) (q : RegId) (j : Nat) : (s.setCtx x c).reg q j = s.reg q j := rfl
@[simp] theorem State.setCtx_fld (x : Nat) (c : Ctx) (g : Fld) (j : Nat) : (s.setCtx x c).fld g j = s.fld g j := rfl
@[simp] theorem State.modCtx_core (x : Nat) (f : Ctx → Ctx) (q : Nat) : (s.modCtx x f).core q = s.core q := rfl
@[simp] theorem State.modCtx_inst (x : Nat) (f : Ctx → Ctx) (q : Nat) : (s.modCtx x f).inst q = s.inst q := rfl
@[simp] theorem State.modCtx_mem (x : Nat) (f : Ctx → Ctx) (q : Nat) : (s.modCtx x f).mem q = s.mem q := rfl
@[simp] theorem State.modCtx_stack (x : Nat) (f : Ctx → Ctx) (q : Nat) : (s.modCtx x f).stack q = s.stack q := rfl
@[simp] theorem State.modCtx_tower (x : Nat) (f : Ctx → Ctx) (q : Nat) : (s.modCtx x f).tower q = s.tower q := rfl
@[simp] theorem State.modCtx_reg (x : Nat) (f : Ctx → Ctx) (q : RegId) (j : Nat) : (s.modCtx x f).reg q j = s.reg q j := rfl
@[simp] theorem State.modCtx_fld (x : Nat) (f : Ctx → Ctx) (g : Fld) (j : Nat) : (s.modCtx x f).fld g j = s.fld g j := rfl
@[simp] theorem State.modMem_core (p : Nat) (f : MemPart → MemPart) (q : Nat) : (s.modMem p f).core q = s.core q := rfl
@[simp] theorem State.modMem_inst (p : Nat) (f : MemPart → MemPart) (q : Nat) : (s.modMem p f).inst q = s.inst q := rfl
@[simp] theorem State.modMem_ctx (p : Nat) (f : MemPart → MemPart) (q : Nat) : (s.modMem p f).ctx q = s.ctx q := rfl
@[simp] theorem State.modMem_stack (p : Nat) (f : MemPart → MemPart) (q : Nat) : (s.modMem p f).stack q = s.stack q := rfl
@[simp] theorem State.modMem_tower (p : Nat) (f : MemPart → MemPart) (q : Nat) : (s.modMem p f).tower q = s.tower q := rfl
@[simp] theorem State.modMem_reg (p : Nat) (f : MemPart → MemPart) (q : RegId) (j : Nat) : (s.modMem p f).reg q j = s.reg q j := rfl
@[simp] theorem State.modMem_fld (p : Nat) (f : MemPart → MemPart) (g : Fld) (j : Nat) : (s.modMem p f).fld g j = s.fld g j := rfl
@[simp] theorem State.modStack_core (t : Nat) (f : Stack → Stack) (q : Nat) : (s.modStack t f).core q = s.core q := rfl
@[simp] theorem State.modStack_inst (t : Nat) (f : Stack → Stack) (q : Nat) : (s.modStack t f).inst q = s.inst q := rfl
@[simp] theorem State.modStack_ctx (t : Nat) (f : Stack → Stack) (q : Nat) : (s.modStack t f).ctx q = s.ctx q := rfl
@[simp] theorem State.modStack_mem (t : Nat) (f : Stack → Stack) (q : Nat) : (s.modStack t f).mem q = s.mem q := rfl
@[simp] theorem State.modStack_tower (t : Nat) (f : Stack → Stack) (q : Nat) : (s.modStack t f).tower q = s.tower q := rfl
@[simp] theorem State.modStack_reg (t : Nat) (f : Stack → Stack) (q : RegId) (j : Nat) : (s.modStack t f).reg q j = s.reg q j := rfl
@[simp] theorem State.modStack_fld (t : Nat) (f : Stack → Stack) (g : Fld) (j : Nat) : (s.modStack t f).fld g j = s.fld g j := rfl
@[simp] theorem State.modTower_core (t : Nat) (f : Tower → Tower) (q : Nat) : (s.modTower t f).core q = s.core q := rfl
@[simp] theorem State.modTower_inst (t : Nat) (f : Tower → Tower) (q : Nat) : (s.modTower t f).inst q = s.inst q := rfl
@[simp] theorem State.modTower_ctx (t : Nat) (f : Tower → Tower) (q : Nat) : (s.modTower t f).ctx q = s.ctx q := rfl
@[simp] theorem State.modTower_mem (t : Nat) (f : Tower → Tower) (q : Nat) : (s.modTower t f).mem q = s.mem q := rfl
@[simp] theorem State.modTower_stack (t : Nat) (f : Tower → Tower) (q : Nat) : (s.modTower t f).stack q = s.stack q := rfl
@[simp] theorem State.modTower_reg (t : Nat) (f : Tower → Tower) (q : RegId) (j : Nat) : (s.modTower t f).reg q j = s.reg q j := rfl
@[simp] theorem State.modTower_fld (t : Nat) (f : Tower → Tower) (g : Fld) (j : Nat) : (s.modTower t f).fld g j = s.fld g j := rfl
@[simp] theorem State.modPower_core (f : Power → Power) (q : Nat) : (s.modPower f).core q = s.core q := rfl
@[simp] theorem State.modPower_inst (f : Power → Power) (q : Nat) : (s.modPower f).inst q = s.inst q := rfl
@[simp] theorem State.modPower_ctx (f : Power → Power) (q : Nat) : (s.modPower f).ctx q = s.ctx q := rfl
@[simp] theorem State.modPower_mem (f : Power → Power) (q : Nat) : (s.modPower f).mem q = s.mem q := rfl
@[simp] theorem State.modPower_stack (f : Power → Power) (q : Nat) : (s.modPower f).stack q = s.stack q := rfl
@[simp] theorem State.modPower_tower (f : Power → Power) (q : Nat) : (s.modPower f).tower q = s.tower q := rfl
@[simp] theorem State.modPower_reg (f : Power → Power) (q : RegId) (j : Nat) : (s.modPower f).reg q j = s.reg q j := rfl
@[simp] theorem State.modPower_fld (f : Power → Power) (g : Fld) (j : Nat) : (s.modPower f).fld g j = s.fld g j := rfl
@[simp] theorem State.send_core (o : Out) (q : Nat) : (s.send o).core q = s.core q := rfl
@[simp] theorem State.send_inst (o : Out) (q : Nat) : (s.send o).inst q = s.inst q := rfl
@[simp] theorem State.send_ctx (o : Out) (q : Nat) : (s.send o).ctx q = s.ctx q := rfl
@[simp] theorem State.send_mem (o : Out) (q : Nat) : (s.send o).mem q = s.mem q := rfl
@[simp] theorem State.send_stack (o : Out) (q : Nat) : (s.send o).stack q = s.stack q := rfl
@[simp] theorem State.send_tower (o : Out) (q : Nat) : (s.send o).tower q = s.tower q := rfl
@[simp] theorem State.send_reg (o : Out) (q : RegId) (j : Nat) : (s.send o).reg q j = s.reg q j := rfl
@[simp] theorem State.send_fld (o : Out) (g : Fld) (j : Nat) : (s.send o).fld g j = s.fld g j := rfl
@[simp] theorem State.draw_reg (q : RegId) (j : Nat) : s.draw.2.reg q j = s.reg q j := rfl
@[simp] theorem State.draw_fld (g : Fld) (j : Nat) : s.draw.2.fld g j = s.fld g j := rfl

end Sys2Proof.Machine
end

