-- ==== Sys2Proof/Laws/Regs.lean ====
section
/-! SUPPORT. Laws of the register file and of register fields: a read after a write gives the value written, and a write
leaves other registers and other fields alone. -/

namespace Sys2Proof.Machine

theorem RegId.num_inj {r q : RegId} (h : r.num = q.num) : r = q := by
  have e := congrArg RegId.ofNat h
  unfold RegId.num at e
  rwa [RegId.ofNat_ctorIdx, RegId.ofNat_ctorIdx] at e

theorem RegId.num_lt (r : RegId) : r.num < 256 := by
  cases r <;> decide

theorem regKey_ne_of_reg {r q : RegId} (i j : Nat) (h : r ≠ q) : regKey r i ≠ regKey q j := by
  unfold regKey
  intro e
  have := r.num_lt
  have := q.num_lt
  exact h (RegId.num_inj (by omega))

theorem regKey_ne_of_inst {r : RegId} {i j : Nat} (h : i ≠ j) : regKey r i ≠ regKey r j := by
  unfold regKey
  omega

@[simp] theorem State.reg_setReg_same (s : State) (r : RegId) (i : Nat) (v : Word) : (s.setReg r i v).reg r i = v :=
  SMap.get_set_same _ _ _ _

theorem State.reg_setReg_ne (s : State) {r q : RegId} {i j : Nat} (v : Word) (h : regKey q j ≠ regKey r i) :
    (s.setReg r i v).reg q j = s.reg q j := SMap.get_set_ne _ _ _ _ h

/-- A number with the `n` bits from bit `l` replaced. -/
theorem nat_put (W v l n : Nat) :
    W - W / 2 ^ l % 2 ^ n * 2 ^ l + v % 2 ^ n * 2 ^ l = W / 2 ^ l / 2 ^ n * 2 ^ n * 2 ^ l + v % 2 ^ n * 2 ^ l + W % 2 ^ l := by
  have h1 := Nat.div_add_mod W (2 ^ l)
  have h2 := Nat.div_add_mod (W / 2 ^ l) (2 ^ n)
  set q := W / 2 ^ l
  set a := q / 2 ^ n
  set b := q % 2 ^ n
  set c := W % 2 ^ l
  have h3 : W = a * 2 ^ n * 2 ^ l + b * 2 ^ l + c := by
    rw [← h1, ← h2]; ring
  rw [h3]
  omega

theorem Fld.put_toNat (f : Fld) (w : Word) (v : Nat) (h : f.lo ≤ f.hi) (h64 : f.hi < 64) :
    (f.put w v).toNat = w.toNat / 2 ^ f.lo / 2 ^ (f.hi + 1 - f.lo) * 2 ^ (f.hi + 1 - f.lo) * 2 ^ f.lo
      + v % 2 ^ (f.hi + 1 - f.lo) * 2 ^ f.lo + w.toNat % 2 ^ f.lo := by
  have hw := w.isLt
  unfold Fld.put Fld.of
  rw [nat_put, BitVec.toNat_ofNat]
  apply Nat.mod_eq_of_lt
  set n := f.hi + 1 - f.lo with hn
  set m := 64 - (f.hi + 1)
  have e : 2 ^ 64 = 2 ^ m * 2 ^ n * 2 ^ f.lo := by
    rw [← pow_add, ← pow_add]; congr 1; omega
  have ha : w.toNat / 2 ^ f.lo / 2 ^ n < 2 ^ m := by
    rw [Nat.div_div_eq_div_mul, Nat.div_lt_iff_lt_mul (by positivity)]
    calc w.toNat < 2 ^ 64 := hw
      _ = 2 ^ m * (2 ^ f.lo * 2 ^ n) := by rw [e]; ring
  have hb : v % 2 ^ n < 2 ^ n := Nat.mod_lt _ (by positivity)
  have hc : w.toNat % 2 ^ f.lo < 2 ^ f.lo := Nat.mod_lt _ (by positivity)
  rw [e]
  set a := w.toNat / 2 ^ f.lo / 2 ^ n
  set b := v % 2 ^ n
  set c := w.toNat % 2 ^ f.lo
  have h1 : a * 2 ^ n + b + 1 ≤ 2 ^ m * 2 ^ n := by
    have := Nat.mul_le_mul_right (2 ^ n) (show a + 1 ≤ 2 ^ m by omega)
    nlinarith
  have h2 := Nat.mul_le_mul_right (2 ^ f.lo) h1
  nlinarith

/-- A field written reads as the value written, cut to its width. -/
theorem Fld.of_put (f : Fld) (w : Word) (v : Nat) (h : f.lo ≤ f.hi) (h64 : f.hi < 64) :
    f.of (f.put w v) = v % 2 ^ (f.hi + 1 - f.lo) := by
  have hp := f.put_toNat w v h h64
  unfold Fld.of at *
  rw [hp]
  set n := f.hi + 1 - f.lo
  have hc : w.toNat % 2 ^ f.lo < 2 ^ f.lo := Nat.mod_lt _ (by positivity)
  rw [show ∀ a b c : Nat, a * 2 ^ n * 2 ^ f.lo + b * 2 ^ f.lo + c = c + 2 ^ f.lo * (b + 2 ^ n * a) by intros; ring,
    Nat.add_mul_div_left _ _ (by positivity), Nat.div_eq_of_lt hc, Nat.zero_add, Nat.add_mul_mod_self_left, Nat.mod_mod]

/-- Writing a field leaves the fields above and below it. -/
theorem Fld.of_put_ne (f g : Fld) (w : Word) (v : Nat) (h : f.lo ≤ f.hi) (h64 : f.hi < 64) (hg : g.lo ≤ g.hi)
    (hd : g.hi < f.lo ∨ f.hi < g.lo) : g.of (f.put w v) = g.of w := by
  have hp := f.put_toNat w v h h64
  have h1 := Nat.div_add_mod w.toNat (2 ^ f.lo)
  have h2 := Nat.div_add_mod (w.toNat / 2 ^ f.lo) (2 ^ (f.hi + 1 - f.lo))
  unfold Fld.of
  rw [hp]
  set n := f.hi + 1 - f.lo with hn
  set a := w.toNat / 2 ^ f.lo / 2 ^ n
  set b := w.toNat / 2 ^ f.lo % 2 ^ n
  set c := w.toNat % 2 ^ f.lo
  have hw : w.toNat = a * 2 ^ n * 2 ^ f.lo + b * 2 ^ f.lo + c := by
    rw [← h1, ← h2]; ring
  have hc : c < 2 ^ f.lo := Nat.mod_lt _ (by positivity)
  have hb : b < 2 ^ n := Nat.mod_lt _ (by positivity)
  have hv : v % 2 ^ n < 2 ^ n := Nat.mod_lt _ (by positivity)
  rcases hd with hd | hd
  · have e : ∀ x : Nat, (a * 2 ^ n * 2 ^ f.lo + x * 2 ^ f.lo + c) / 2 ^ g.lo % 2 ^ (g.hi + 1 - g.lo)
        = c / 2 ^ g.lo % 2 ^ (g.hi + 1 - g.lo) := by
      intro x
      have e1 : 2 ^ f.lo = 2 ^ g.lo * (2 ^ (g.hi + 1 - g.lo) * 2 ^ (f.lo - (g.hi + 1))) := by
        rw [← pow_add, ← pow_add]; congr 1; omega
      rw [show a * 2 ^ n * 2 ^ f.lo + x * 2 ^ f.lo + c
          = c + 2 ^ g.lo * (2 ^ (g.hi + 1 - g.lo) * (2 ^ (f.lo - (g.hi + 1)) * (a * 2 ^ n + x))) by rw [e1]; ring,
        Nat.add_mul_div_left _ _ (by positivity), Nat.add_mul_mod_self_left]
    rw [e, hw, e]
  · have e : ∀ x : Nat, x < 2 ^ n → (a * 2 ^ n * 2 ^ f.lo + x * 2 ^ f.lo + c) / 2 ^ g.lo = a / 2 ^ (g.lo - (f.hi + 1)) := by
      intro x hx
      have e1 : 2 ^ g.lo = 2 ^ (n + f.lo) * 2 ^ (g.lo - (f.hi + 1)) := by
        rw [← pow_add]; congr 1; omega
      rw [e1, ← Nat.div_div_eq_div_mul]
      congr 1
      rw [show a * 2 ^ n * 2 ^ f.lo + x * 2 ^ f.lo + c = (x * 2 ^ f.lo + c) + 2 ^ (n + f.lo) * a by rw [pow_add]; ring,
        Nat.add_mul_div_left _ _ (by positivity), Nat.div_eq_of_lt, Nat.zero_add]
      rw [pow_add]
      have := Nat.mul_le_mul_right (2 ^ f.lo) (show x + 1 ≤ 2 ^ n by omega)
      nlinarith
    rw [e _ hv, hw, e _ hb]

/-- A field lies in a 64-bit register. -/
def Fld.ok (f : Fld) : Bool := decide (f.lo ≤ f.hi) && decide (f.hi < 64)

/-- Two fields of one register that share no bit. -/
def Fld.apart (f g : Fld) : Bool := decide (g.hi < f.lo) || decide (f.hi < g.lo)

@[simp] theorem State.reg_setFld_same (s : State) (f : Fld) (i v : Nat) :
    (s.setFld f i v).reg f.reg i = f.put (s.reg f.reg i) v := State.reg_setReg_same _ _ _ _

/-- A field written reads as the value written. -/
theorem State.fld_setFld (s : State) (f : Fld) (i v : Nat) (h : f.ok = true) (hv : v < 2 ^ (f.hi + 1 - f.lo)) :
    (s.setFld f i v).fld f i = v := by
  simp only [Fld.ok, Bool.and_eq_true, decide_eq_true_eq] at h
  unfold State.fld
  rw [State.reg_setFld_same, Fld.of_put f _ _ h.1 h.2, Nat.mod_eq_of_lt hv]

/-- Writing a field leaves the other fields of its register. -/
theorem State.fld_setFld_apart (s : State) (f g : Fld) (i v : Nat) (hr : g.reg = f.reg) (h : f.ok = true) (hg : g.ok = true)
    (hd : f.apart g = true) : (s.setFld f i v).fld g i = s.fld g i := by
  simp only [Fld.ok, Fld.apart, Bool.and_eq_true, Bool.or_eq_true, decide_eq_true_eq] at h hg hd
  unfold State.fld
  rw [hr, State.reg_setFld_same, Fld.of_put_ne f g _ _ h.1 h.2 hg.1 hd]

/-- Writing a field leaves every other register and every other instance of its own. -/
theorem State.fld_setFld_ne (s : State) (f g : Fld) {i j : Nat} (v : Nat) (h : regKey g.reg j ≠ regKey f.reg i) :
    (s.setFld f i v).fld g j = s.fld g j := by
  unfold State.fld State.setFld
  rw [State.reg_setReg_ne _ _ h]

theorem State.reg_setFld_ne (s : State) (f : Fld) {q : RegId} {i j : Nat} (v : Nat) (h : regKey q j ≠ regKey f.reg i) :
    (s.setFld f i v).reg q j = s.reg q j := State.reg_setReg_ne s _ h

theorem State.fld_setReg_ne (s : State) {r : RegId} (g : Fld) {i j : Nat} (v : Word) (h : regKey g.reg j ≠ regKey r i) :
    (s.setReg r i v).fld g j = s.fld g j := by
  unfold State.fld
  rw [State.reg_setReg_ne _ _ h]

/-- A counter field counts up to its largest value. -/
theorem State.fld_inc (s : State) (f : Fld) (i : Nat) (h : f.ok = true) : (s.inc f i).fld f i = min f.max (s.fld f i + 1) := by
  unfold State.inc State.incr
  apply State.fld_setFld _ _ _ _ h
  have : 0 < 2 ^ (f.hi + 1 - f.lo) := by positivity
  simp only [Fld.max]
  omega

end Sys2Proof.Machine
end

