-- ==== Sys2Proof/Laws/Core.lean ====
section
/-! SUPPORT. Laws of thread slots, and what the shared rule of issue does. -/

namespace Sys2Proof.Machine

@[simp] theorem State.thr_setThr (s : State) (c t : Nat) (x : Thread) : (s.setThr c t x).thr c t = x := by
  unfold State.thr State.setThr
  rw [State.core_modCore]
  exact SMap.get_set_same _ _ _ _

theorem State.core_setThr_ne (s : State) {c k : Nat} (t : Nat) (x : Thread) (h : k ≠ c) : (s.setThr c t x).core k = s.core k :=
  State.core_modCore_ne s _ h

theorem State.thr_setThr_ne (s : State) {c t d q : Nat} (x : Thread) (h : ¬ (d = c ∧ q = t)) :
    (s.setThr c t x).thr d q = s.thr d q := by
  by_cases hd : d = c
  · subst hd
    unfold State.thr State.setThr
    rw [State.core_modCore]
    exact SMap.get_set_ne _ _ _ _ (fun e => h ⟨rfl, e⟩)
  · unfold State.thr
    rw [State.core_setThr_ne s t x hd]

/-- With no injection armed no access meets one. -/
theorem State.injHit_none (s : State) (h : s.NoInjection) (a b n : Nat) (w : Bool) : s.injHit a b n w = (none, s) := by
  have h' : ¬ s.fld FLT_INJ_CTL.ACTIVE 0 = 1 := by
    intro e
    have : (0 : Nat) = 1 := h.symm.trans e
    omega
  unfold State.injHit
  rw [if_neg (fun e => h' e.1)]

/-- An undamaged word passes its check. -/
theorem State.fetchCheck_clean (s : State) {c t : Nat} (h : s.NoInjection)
    (hm : (s.core c).imarks.get .clean ((s.thr c t).ibase + (s.thr c t).pc) = .clean) : s.fetchCheck c t = (false, s) := by
  unfold State.fetchCheck
  simp [hm, State.injHit_none s h, seenBad]

/-- Undamaged registers pass their check. -/
theorem State.readCheck_clean (s : State) {c t : Nat} (h : s.NoInjection) : ∀ l : List Nat,
    (∀ r ∈ l, (s.thr c t).marks.get .clean r = .clean) → s.readCheck c t l = (false, s)
  | [], _ => rfl
  | r :: l, hl => by
    unfold State.readCheck
    simp only [hl r (by simp), State.injHit_none s h, ite_self, seenBad]
    simpa using State.readCheck_clean s h l fun q hq => hl q (by simp [hq])

/-- What the shared rule of issue does where the thread slot issues the word: the instruction's own effect, if the word is
its own. -/
theorem State.issue_run (s : State) {c t : Nat} {w : Word} (h : s.Issues c t w) (op : Nat) (hop : wOp w = op)
    (body : Word → State → State) : s.issue op c t body = body w s := by
  obtain ⟨hs, hwarm, hinj, hpc, hw, hops, hok, htick, hp, hm, hr⟩ := h
  unfold State.issue State.warming
  simp only [hs, hwarm, hw, State.fetchCheck_clean s hinj hm, hop.symm]
  have hp' : (!isVector (wOp w) && decide (((s.thr c t).pred w).toNat % 2 = 0)) = false := by
    rcases hp with hp | hp
    · simp [hp]
    · simp [hp]
  have hc : wOp w ∈ opcodes := hops
  subst hop
  simp [hok, htick, hp', hc, Nat.not_le.mpr hpc, State.readCheck_clean s hinj _ hr]

/-- A sign extension of the low 32 bits. -/
theorem sext_32 (w : Word) : sext (wbits w 31 0) 32 = (w.setWidth 32).signExtend 64 := by
  unfold sext wbits signedOf
  apply BitVec.eq_of_toInt_eq
  rw [BitVec.toInt_signExtend_of_le (by decide), BitVec.toInt_eq_toNat_cond (w.setWidth 32), BitVec.toNat_setWidth,
    BitVec.toInt_ofInt]
  have : w.toNat / 2 ^ 0 % 2 ^ (31 + 1 - 0) = w.toNat % 2 ^ 32 := by simp
  rw [this]
  have hlt : w.toNat % 2 ^ 32 < 2 ^ 32 := Nat.mod_lt _ (by decide)
  generalize w.toNat % 2 ^ 32 = n at *
  rw [Nat.mod_eq_of_lt hlt]
  rw [Int.bmod_eq_of_le (by split <;> omega) (by split <;> omega)]
  split <;> split <;> omega

/-- A one-bit field of an instruction word. -/
theorem wbits_bit (w : Word) (k : Nat) : wbits w k k = 1 ↔ w.getLsbD k = true := by
  unfold wbits
  rw [BitVec.getLsbD, Nat.testBit_eq_decide_div_mod_eq, show k + 1 - k = 1 by omega]
  simp

end Sys2Proof.Machine
end

