-- ==== Sys2Proof/Laws/Frames.lean ====
section
/-! SUPPORT. Laws of free frames and tiles: runs of one member are found while members are left. -/

namespace Sys2Proof.Machine

theorem nthRun_go_isSome (aligned : Bool) : ∀ (l : List (Nat × Nat)) (k : Nat), k < (l.map Prod.snd).sum →
    ∃ f, Ranges.nthRun.go aligned l k = some f := by
  intro l
  induction l with
  | nil => intro k h; simp at h
  | cons e l ih =>
    intro k h
    simp only [Ranges.nthRun.go]
    split
    · exact ⟨_, rfl⟩
    · exact ih _ (by simp only [List.map_cons, List.sum_cons] at h; omega)

theorem runs_one_sum {r : Ranges} {x : Nat} (h : r.mem x = true) : ((r.runs 1 false).map Prod.snd).sum ≠ 0 := by
  induction r with
  | nil => simp [Ranges.mem] at h
  | cons e r ih =>
    simp only [Ranges.mem, List.any_cons, Bool.or_eq_true, decide_eq_true_eq] at h
    simp only [Ranges.runs, List.filterMap_cons, Bool.false_eq_true, if_false]
    rcases h with h | h
    · rw [if_pos (by omega)]
      simp only [List.map_cons, List.sum_cons]
      omega
    · have := ih h
      simp only [Ranges.runs, Bool.false_eq_true, if_false] at this
      split
      · exact this
      · simp only [List.map_cons, List.sum_cons]
        omega

theorem mem_remove_one {r : Ranges} {x f : Nat} (h : r.mem x = true) (hx : x ≠ f) : (r.remove f 1).mem x = true := by
  simp only [Ranges.mem, List.any_eq_true, decide_eq_true_eq] at h
  obtain ⟨⟨a, l⟩, he, h1, h2⟩ := h
  simp only [Ranges.mem, List.any_eq_true, decide_eq_true_eq, Ranges.remove, List.mem_flatMap]
  simp only at h1 h2
  by_cases c : f + 1 ≤ a ∨ a + l ≤ f
  · exact ⟨(a, l), ⟨(a, l), he, by simp only []; rw [if_pos c]; exact List.mem_singleton.mpr rfl⟩, h1, h2⟩
  · by_cases d : x < f
    · exact ⟨(a, f - a), ⟨(a, l), he, by simp only []; rw [if_neg c, if_pos (show a < f by omega)]; simp⟩, by simp only []; omega⟩
    · exact ⟨(f + 1, a + l - (f + 1)), ⟨(a, l), he, by
        simp only []; rw [if_neg c, if_pos (show f + 1 < a + l by omega)]; simp⟩, by simp only []; omega⟩

/-- While `n` different frames of unit `u` are free, `n` single frames are found. -/
theorem takeRuns_frames {u : Nat} : ∀ (n : Nat) (s : State) (l : List Nat), l.Nodup → n ≤ l.length →
    (∀ x ∈ l, (s.frames u).mem x = true) → ∃ fs t, s.takeRuns false u false (List.replicate n 1) = (some fs, t) := by
  intro n
  induction n with
  | zero => intro s l _ _ _; exact ⟨[], s, rfl⟩
  | succ n ih =>
    intro s l hn hl hm
    obtain ⟨x, hx⟩ : ∃ x, x ∈ l := by cases l with | nil => simp at hl | cons y l => exact ⟨y, by simp⟩
    have hc := runs_one_sum (hm x hx)
    obtain ⟨f, hf⟩ := nthRun_go_isSome false ((s.frames u).runs 1 false)
      (Config.freeChoice s.freeCnt % (((s.frames u).runs 1 false).map Prod.snd).sum) (Nat.mod_lt _ (Nat.pos_of_ne_zero hc))
    have hr : s.takeRun false u 1 false
        = (some f, ({ s with freeCnt := s.freeCnt + 1 } : State).setFrames u ((s.frames u).remove f 1)) := by
      simp only [State.takeRun, Bool.false_eq_true, if_false, hc, State.draw, Ranges.nthRun, hf]
    obtain ⟨fs, t, h⟩ := ih (({ s with freeCnt := s.freeCnt + 1 } : State).setFrames u ((s.frames u).remove f 1)) (l.erase f)
      (hn.erase f) (by rw [List.length_erase]; split <;> omega)
      (by
        intro y hy
        have hy' := (List.Nodup.mem_erase_iff hn).mp hy
        have e : (({ s with freeCnt := s.freeCnt + 1 } : State).setFrames u ((s.frames u).remove f 1)).frames u = (s.frames u).remove f 1 := by
          simp only [State.frames, State.setFrames]
          exact SMap.get_set_same _ _ _ _
        rw [e]
        exact mem_remove_one (hm y hy'.2) hy'.1)
    exact ⟨List.range' f 1 ++ fs, t, by simp only [List.replicate_succ, State.takeRuns, hr, h]⟩

/-- While enough Trunk frames of its unit are free, a new object of 64 KiB pages finds its frames. -/
theorem takeObject_frames (s : State) (x : Nat) (r : MapReq) (l : List Nat) (hk : r.kind ≠ 2) (hb : r.big = false) (ht : r.tier = 0)
    (hg : r.backed = false) (hn : l.Nodup) (hl : r.bytes / 65536 ≤ l.length) (hm : ∀ y ∈ l, (s.frames (unitOf x r.unit)).mem y = true) :
    ∃ frames golden t, s.takeObject x r = (some (frames, golden), t) := by
  obtain ⟨fs, t, h⟩ := takeRuns_frames (r.bytes / 65536) s l hn hl hm
  exact ⟨fs.map fun f => trunkFrame (unitOf x r.unit) f, [], t, by simp [State.takeObject, hk, hb, ht, hg, h]⟩

end Sys2Proof.Machine
end

