-- ==== Sys2Proof/Laws/Good.lean ====
section
/-! SUPPORT. The canonical form of a state (Safety), part by part, and what keeps each part. `State.Good p s` says that the
queue of `s` is `p` and that `s` is canonical; the files GoodState, GoodEngines, GoodUnits and GoodDevice say it of every
operation and every command. `Anchor p` names the queue where a lemma's own terms do not. -/

namespace Sys2Proof.Machine

-- One theorem at a time: each thread takes a stack of its own.
set_option Elab.async false

/-- The register file is in canonical order, and HUB_ID identifies the part (R19). -/
def GoodRegs (m : SMap Word) : Prop :=
  m.sorted = true ∧ (∀ f ∈ [(HUB_ID.PART, 0x5216), (HUB_ID.STEP_MAJOR, 1), (HUB_ID.STEP_MINOR, 0), (HUB_ID.MAGIC, 0x414D)],
    f.1.of (m.get (regReset .HUB_ID 0) (regKey .HUB_ID 0)) = f.2)

def GoodMem (m : SMap Byte) : Prop := Memory.wf m = true
def GoodCore (k : Core) : Prop := GoodMem k.canopy
def GoodCores (m : SMap Core) : Prop := ∀ c, GoodCore (m.get {} c)

structure State.Good (p : List Instr) (s : State) : Prop where
  pending : s.pending = p
  regs : GoodRegs s.regs
  cores : GoodCores s.cores
  trunk : GoodMem s.trunk
  root : GoodMem s.root
  host : GoodMem s.host

def Anchor (_p : List Instr) : Prop := True

variable {p : List Instr} {s : State} {α : Type}

theorem State.Good.mk' {pending freeCnt regs ntu cores insts waiting steps replays nextObj arrivals lastAdmitted snaps snapFree migs migIns rx opSeq ctxs mems freeFrames clearPend freeTiles seqs poolFree trunk tmarks root rmarks host links qps hbm towers power absent dead lcidPos flt sec outs}
   (h1 : pending = p) (h2 : GoodRegs regs) (h3 : GoodCores cores) (h4 : GoodMem trunk) (h5 : GoodMem root) (h6 : GoodMem host) :
   State.Good p (State.mk pending freeCnt regs ntu cores insts waiting steps replays nextObj arrivals lastAdmitted snaps snapFree migs migIns rx opSeq ctxs mems freeFrames clearPend freeTiles seqs poolFree trunk tmarks root rmarks host links qps hbm towers power absent dead lcidPos flt sec outs) :=
  ⟨h1, h2, h3, h4, h5, h6⟩
grind_pattern State.Good.mk' => State.Good p (State.mk pending freeCnt regs ntu cores insts waiting steps replays nextObj arrivals lastAdmitted snaps snapFree migs migIns rx opSeq ctxs mems freeFrames clearPend freeTiles seqs poolFree trunk tmarks root rmarks host links qps hbm towers power absent dead lcidPos flt sec outs)

theorem State.Good.pending' (h : s.Good p) (_anc : Anchor p) : s.pending = p := h.pending
grind_pattern State.Good.pending' => s.pending, Anchor p
theorem State.Good.regs' (h : s.Good p) (_anc : Anchor p) : GoodRegs s.regs := h.regs
grind_pattern State.Good.regs' => GoodRegs s.regs, Anchor p
theorem State.Good.cores' (h : s.Good p) (_anc : Anchor p) : GoodCores s.cores := h.cores
grind_pattern State.Good.cores' => GoodCores s.cores, Anchor p
theorem State.Good.trunk' (h : s.Good p) (_anc : Anchor p) : GoodMem s.trunk := h.trunk
grind_pattern State.Good.trunk' => GoodMem s.trunk, Anchor p
theorem State.Good.root' (h : s.Good p) (_anc : Anchor p) : GoodMem s.root := h.root
grind_pattern State.Good.root' => GoodMem s.root, Anchor p
theorem State.Good.host' (h : s.Good p) (_anc : Anchor p) : GoodMem s.host := h.host
grind_pattern State.Good.host' => GoodMem s.host, Anchor p

theorem State.Good.foldl {x : State} {f : State → α → State} {l : List α} (hx : x.Good p) (hf : ∀ x a, State.Good p x → (f x a).Good p) :
    (l.foldl f x).Good p := by
  induction l generalizing x with
  | nil => exact hx
  | cons a l ih => exact ih (hf _ _ hx)
grind_pattern State.Good.foldl => State.Good p (l.foldl f x)

theorem GoodMem.nil : GoodMem [] := rfl
theorem GoodMem.setBytes {m : SMap Byte} (h : GoodMem m) (a : Nat) (bs : List Byte) : GoodMem (setBytes m a bs) := Memory.wf_setBytes a bs h
theorem GoodMem.setByte {m : SMap Byte} (h : GoodMem m) (a : Nat) (b : Byte) : GoodMem (setByte m a b) := Memory.wf_setByte a b h
theorem GoodMem.zeroBytes {m : SMap Byte} (h : GoodMem m) (a n : Nat) : GoodMem (zeroBytes m a n) := Memory.wf_zeroBytes a n h
theorem GoodMem.filter {m : SMap Byte} (h : GoodMem m) (f : Nat × Byte → Bool) : GoodMem (m.filter f) := SMap.wf_filter f h
theorem GoodMem.foldl {m : SMap Byte} {f : SMap Byte → α → SMap Byte} {l : List α} (hx : GoodMem m) (hf : ∀ x a, GoodMem x → GoodMem (f x a)) :
    GoodMem (l.foldl f m) := by
  induction l generalizing m with
  | nil => exact hx
  | cons a l ih => exact ih (hf _ _ hx)
grind_pattern GoodMem.setBytes => GoodMem (Machine.setBytes m a bs)
grind_pattern GoodMem.setByte => GoodMem (Machine.setByte m a b)
grind_pattern GoodMem.zeroBytes => GoodMem (Machine.zeroBytes m a n)
grind_pattern GoodMem.filter => GoodMem (m.filter f)
grind_pattern GoodMem.foldl => GoodMem (l.foldl f m)
grind_pattern GoodMem.nil => GoodMem []

theorem GoodCore.mk' {threads istore imarks canopy cmarks golden gbufs cells wins ops lq lcfg arr drn acc accMarks accGold prom oslots faults bset routeNonfin lastCtx pendBind wantClear killed retiring nextOp} (h : GoodMem canopy) : GoodCore (Core.mk threads istore imarks canopy cmarks golden gbufs cells wins ops lq lcfg arr drn acc accMarks accGold prom oslots faults bset routeNonfin lastCtx pendBind wantClear killed retiring nextOp) := h
grind_pattern GoodCore.mk' => GoodCore (Core.mk threads istore imarks canopy cmarks golden gbufs cells wins ops lq lcfg arr drn acc accMarks accGold prom oslots faults bset routeNonfin lastCtx pendBind wantClear killed retiring nextOp)
theorem GoodCore.canopy {k : Core} (h : GoodCore k) : GoodMem k.canopy := h
grind_pattern GoodCore.canopy => GoodMem k.canopy
theorem GoodCores.nil : GoodCores [] := fun _ => GoodMem.nil
grind_pattern GoodCores.nil => GoodCores []
theorem GoodCores.set {m : SMap Core} (h : GoodCores m) {k : Core} (hk : GoodCore k) (c : Nat) : GoodCores (m.set {} c k) := by
  intro d
  by_cases e : d = c
  · subst e; rw [SMap.get_set_same]; exact hk
  · rw [SMap.get_set_ne _ _ _ _ e]; exact h d
grind_pattern GoodCores.set => GoodCores (m.set {} c k)
theorem State.Good.core (h : s.Good p) (c : Nat) : GoodCore (s.core c) := h.cores c
theorem State.Good.core' (h : s.Good p) (_anc : Anchor p) (c : Nat) : GoodCore (s.core c) := h.cores c
grind_pattern State.Good.core' => GoodCore (s.core c), Anchor p
theorem GoodCores.get {m : SMap Core} (h : GoodCores m) (c : Nat) : GoodCore (m.get {} c) := h c
grind_pattern GoodCores.get => GoodCore (m.get {} c)
theorem GoodCores.foldl {m : SMap Core} {f : SMap Core → α → SMap Core} {l : List α} (hx : GoodCores m) (hf : ∀ x a, GoodCores x → GoodCores (f x a)) :
    GoodCores (l.foldl f m) := by
  induction l generalizing m with
  | nil => exact hx
  | cons a l ih => exact ih (hf _ _ hx)
grind_pattern GoodCores.foldl => GoodCores (l.foldl f m)

theorem GoodRegs.set {m : SMap Word} (h : GoodRegs m) (r : RegId) (i : Nat) (v : Word) (hr : r ≠ .HUB_ID) :
    GoodRegs (m.set (regReset r i) (regKey r i) v) := by
  obtain ⟨h1, h2⟩ := h
  refine ⟨?_, ?_⟩
  · unfold SMap.set
    split
    · exact SMap.sorted_erase _ h1
    · exact SMap.sorted_insert _ _ h1
  · intro f hf
    rw [SMap.get_set_ne _ _ _ _ (regKey_ne_of_reg _ _ (Ne.symm hr))]
    exact h2 f hf
theorem State.Good.setReg (h : s.Good p) (r : RegId) (i : Nat) (v : Word) (hr : r ≠ .HUB_ID) : (s.setReg r i v).Good p :=
  ⟨h.1, h.2.set r i v hr, h.3, h.4, h.5, h.6⟩
grind_pattern State.Good.setReg => (s.setReg r i v).Good p
theorem State.Good.setFld (h : s.Good p) (f : Fld) (i v : Nat) (hr : f.reg ≠ .HUB_ID) : (s.setFld f i v).Good p :=
  h.setReg _ _ _ hr
grind_pattern State.Good.setFld => (s.setFld f i v).Good p
theorem State.Good.incr (h : s.Good p) (f : Fld) (i v : Nat) (hr : f.reg ≠ .HUB_ID) : (s.incr f i v).Good p :=
  h.setReg _ _ _ hr
grind_pattern State.Good.incr => (s.incr f i v).Good p
theorem State.Good.inc (h : s.Good p) (f : Fld) (i : Nat) (hr : f.reg ≠ .HUB_ID) : (s.inc f i).Good p :=
  h.setReg _ _ _ hr
grind_pattern State.Good.inc => (s.inc f i).Good p
theorem State.Good.modCore (h : s.Good p) (c : Nat) (f : Core → Core) (hf : ∀ k, GoodCore k → GoodCore (f k)) : (s.modCore c f).Good p :=
  ⟨h.1, h.2, h.3.set (hf _ (h.core c)) c, h.4, h.5, h.6⟩
grind_pattern State.Good.modCore => (s.modCore c f).Good p
theorem State.Good.setCore (h : s.Good p) (c : Nat) {k : Core} (hk : GoodCore k) : (s.setCore c k).Good p :=
  ⟨h.1, h.2, h.3.set hk c, h.4, h.5, h.6⟩
grind_pattern State.Good.setCore => (s.setCore c k).Good p

theorem Core.cleared_good {k : Core} (_h : GoodCore k) : GoodCore k.cleared := GoodMem.nil
grind_pattern Core.cleared_good => GoodCore k.cleared
theorem Core.modOp_good {k : Core} (h : GoodCore k) (i : Nat) (f : Op → Op) : GoodCore (k.modOp i f) := h
grind_pattern Core.modOp_good => GoodCore (k.modOp i f)
theorem Core.discardOps_good {k : Core} (h : GoodCore k) : GoodCore k.discardOps := h
grind_pattern Core.discardOps_good => GoodCore k.discardOps
theorem Core.pump_canopy (n : Nat) : ∀ (k : Core) (e : Nat), (k.pump e n).canopy = k.canopy := by
  induction n with
  | zero => intro k e; rfl
  | succ n ih =>
    intro k e
    unfold Core.pump
    split
    · split
      · rw [ih]
      · split
        · dsimp only; rw [ih]
        · rfl
    · rfl
theorem Core.pump_good {k : Core} (h : GoodCore k) (e n : Nat) : GoodCore (k.pump e n) := by
  unfold GoodCore; rw [Core.pump_canopy]; exact h
grind_pattern Core.pump_good => GoodCore (k.pump e n)
theorem slipCause_reg (i j : Nat) : (s.slipCause i j).reg = .RSQ_TRL_SLIP := by 
  unfold State.slipCause
  rw [apply_ite Fld.reg, apply_ite Fld.reg, apply_ite Fld.reg]
  show ite _ RegId.RSQ_TRL_SLIP (ite _ RegId.RSQ_TRL_SLIP (ite _ RegId.RSQ_TRL_SLIP RegId.RSQ_TRL_SLIP)) = RegId.RSQ_TRL_SLIP
  simp only [ite_self]
grind_pattern slipCause_reg => s.slipCause i j
theorem tswFld_reg (i : Nat) : (tswFld i).reg = .PRT_LAT_TILE := by unfold tswFld; split <;> rfl
grind_pattern tswFld_reg => tswFld i
theorem State.Good.foldlPair {β : Type} {x : β × State} {f : β × State → α → β × State} {l : List α} (hx : x.2.Good p)
    (hf : ∀ b y a, State.Good p y → (f (b, y) a).2.Good p) : (l.foldl f x).2.Good p := by
  induction l generalizing x with
  | nil => exact hx
  | cons a l ih => exact ih (hf x.1 x.2 a hx)
grind_pattern State.Good.foldlPair => State.Good p (l.foldl f x).2

def OutGood (p : List Instr) (o : Host.Outcome State Fault Refusal) : Prop := ∀ u, o = .next u → u.Good p
theorem OutGood.next (h : s.Good p) : OutGood p (.next s) := by
  intro u e
  cases e
  exact h
grind_pattern OutGood.next => OutGood p (.next s)


theorem GoodRegs.set' {m : SMap Word} (h : GoodRegs m) (i : Nat) (v : Word)
    (hv : i = 0 → ∀ f ∈ [HUB_ID.PART, HUB_ID.STEP_MAJOR, HUB_ID.STEP_MINOR, HUB_ID.MAGIC], f.of v = f.of (m.get (regReset .HUB_ID 0) (regKey .HUB_ID 0))) :
    GoodRegs (m.set (regReset .HUB_ID i) (regKey .HUB_ID i) v) := by
  obtain ⟨h1, h2⟩ := h
  refine ⟨?_, ?_⟩
  · unfold SMap.set
    split
    · exact SMap.sorted_erase _ h1
    · exact SMap.sorted_insert _ _ h1
  · intro f hf
    by_cases q : i = 0
    · subst q
      rw [SMap.get_set_same, hv rfl f.1 (by fin_cases hf <;> simp)]
      exact h2 f hf
    · rw [SMap.get_set_ne]
      · exact h2 f hf
      · simp only [regKey]; omega

theorem State.Good.ite {s t : State} {c : Prop} [Decidable c] (h1 : s.Good p) (h2 : t.Good p) : (if c then s else t).Good p := by
  split <;> assumption

/-- `Good` is the queue given and the canonical form of Safety. -/
theorem State.good_iff : s.Good p ↔ s.pending = p ∧ s.Canonical := by
  constructor
  · rintro ⟨h1, h2, h3, h4, h5, h6⟩
    exact ⟨h1, h2.1, h2.2 _ (.head _), h2.2 _ (.tail _ (.head _)), h2.2 _ (.tail _ (.tail _ (.head _))),
      h2.2 _ (.tail _ (.tail _ (.tail _ (.head _)))), h4, h5, h6, h3⟩
  · rintro ⟨h1, h2, e1, e2, e3, e4, h4, h5, h6, h3⟩
    refine ⟨h1, ⟨h2, fun f hf => ?_⟩, h3, h4, h5, h6⟩
    fin_cases hf
    exacts [e1, e2, e3, e4]

end Sys2Proof.Machine
end

