-- ==== Sys2Proof/Laws/GoodState.lean ====
section
/-! SUPPORT. The canonical form of a state: what the operations on State keep. -/

namespace Sys2Proof.Machine

-- One theorem at a time: each thread takes a stack of its own.
set_option Elab.async false

variable {p : List Instr}

theorem State.setInst_good (a0 : State) (a1 : ℕ) (a2 : Inst) (h0 : a0.Good p) : State.Good p (@State.setInst a0 a1 a2) := by
  have anc : Anchor p := trivial
  unfold State.setInst
  grind (ematch := 40) (gen := 40) (splits := 24) (ring := false) (linarith := false) (lia := false) (ac := false)
grind_pattern State.setInst_good => State.Good p (@State.setInst a0 a1 a2)
theorem State.modInst_good (a0 : State) (a1 : ℕ) (a2 : Inst → Inst) (h0 : a0.Good p) : State.Good p (@State.modInst a0 a1 a2) := by
  have anc : Anchor p := trivial
  unfold State.modInst
  grind (ematch := 40) (gen := 40) (splits := 24) (ring := false) (linarith := false) (lia := false) (ac := false)
grind_pattern State.modInst_good => State.Good p (@State.modInst a0 a1 a2)
theorem State.setCtx_good (a0 : State) (a1 : ℕ) (a2 : Ctx) (h0 : a0.Good p) : State.Good p (@State.setCtx a0 a1 a2) := by
  have anc : Anchor p := trivial
  unfold State.setCtx
  grind (ematch := 40) (gen := 40) (splits := 24) (ring := false) (linarith := false) (lia := false) (ac := false)
grind_pattern State.setCtx_good => State.Good p (@State.setCtx a0 a1 a2)
theorem State.modCtx_good (a0 : State) (a1 : ℕ) (a2 : Ctx → Ctx) (h0 : a0.Good p) : State.Good p (@State.modCtx a0 a1 a2) := by
  have anc : Anchor p := trivial
  unfold State.modCtx
  grind (ematch := 40) (gen := 40) (splits := 24) (ring := false) (linarith := false) (lia := false) (ac := false)
grind_pattern State.modCtx_good => State.Good p (@State.modCtx a0 a1 a2)
theorem State.modMem_good (a0 : State) (a1 : ℕ) (a2 : MemPart → MemPart) (h0 : a0.Good p) : State.Good p (@State.modMem a0 a1 a2) := by
  have anc : Anchor p := trivial
  unfold State.modMem
  grind (ematch := 40) (gen := 40) (splits := 24) (ring := false) (linarith := false) (lia := false) (ac := false)
grind_pattern State.modMem_good => State.Good p (@State.modMem a0 a1 a2)
theorem State.modStack_good (a0 : State) (a1 : ℕ) (a2 : Stack → Stack) (h0 : a0.Good p) : State.Good p (@State.modStack a0 a1 a2) := by
  have anc : Anchor p := trivial
  unfold State.modStack
  grind (ematch := 40) (gen := 40) (splits := 24) (ring := false) (linarith := false) (lia := false) (ac := false)
grind_pattern State.modStack_good => State.Good p (@State.modStack a0 a1 a2)
theorem State.modTower_good (a0 : State) (a1 : ℕ) (a2 : Tower → Tower) (h0 : a0.Good p) : State.Good p (@State.modTower a0 a1 a2) := by
  have anc : Anchor p := trivial
  unfold State.modTower
  grind (ematch := 40) (gen := 40) (splits := 24) (ring := false) (linarith := false) (lia := false) (ac := false)
grind_pattern State.modTower_good => State.Good p (@State.modTower a0 a1 a2)
theorem State.modPower_good (a0 : State) (a1 : Power → Power) (h0 : a0.Good p) : State.Good p (@State.modPower a0 a1) := by
  have anc : Anchor p := trivial
  unfold State.modPower
  grind (ematch := 40) (gen := 40) (splits := 24) (ring := false) (linarith := false) (lia := false) (ac := false)
grind_pattern State.modPower_good => State.Good p (@State.modPower a0 a1)
theorem State.draw_good (a0 : State) (h0 : a0.Good p) (_anc : Anchor p) : State.Good p (@State.draw a0).2 := by
  have anc : Anchor p := trivial
  unfold State.draw
  grind (ematch := 40) (gen := 40) (splits := 24) (ring := false) (linarith := false) (lia := false) (ac := false)
grind_pattern State.draw_good => State.Good p (@State.draw a0).2
grind_pattern State.draw_good => @State.draw a0, Anchor p
theorem State.send_good (a0 : State) (a1 : Out) (h0 : a0.Good p) : State.Good p (@State.send a0 a1) := by
  have anc : Anchor p := trivial
  unfold State.send
  grind (ematch := 40) (gen := 40) (splits := 24) (ring := false) (linarith := false) (lia := false) (ac := false)
grind_pattern State.send_good => State.Good p (@State.send a0 a1)
theorem State.setIState_good (a0 : State) (a1 : ℕ) (a2 : ℕ) (h0 : a0.Good p) : State.Good p (@State.setIState a0 a1 a2) := by
  have anc : Anchor p := trivial
  unfold State.setIState
  grind (ematch := 40) (gen := 40) (splits := 24) (ring := false) (linarith := false) (lia := false) (ac := false) [RSQ_TRL_STATUS.STATE]
grind_pattern State.setIState_good => State.Good p (@State.setIState a0 a1 a2)
theorem State.setCState_good (a0 : State) (a1 : ℕ) (a2 : ℕ) (h0 : a0.Good p) : State.Good p (@State.setCState a0 a1 a2) := by
  have anc : Anchor p := trivial
  unfold State.setCState
  grind (ematch := 40) (gen := 40) (splits := 24) (ring := false) (linarith := false) (lia := false) (ac := false) [VF_CTX_STATUS.STATE]
grind_pattern State.setCState_good => State.Good p (@State.setCState a0 a1 a2)
theorem State.countUnits_good (a0 : State) (a1 : ℕ) (a2 : ℕ) (a3 : Option ℕ) (a4 : ℕ) (h0 : a0.Good p) : State.Good p (@State.countUnits a0 a1 a2 a3 a4) := by
  have anc : Anchor p := trivial
  unfold State.countUnits
  grind (ematch := 40) (gen := 40) (splits := 24) (ring := false) (linarith := false) (lia := false) (ac := false) [TRK_REG.DEPTH, TRK_REG.SERVED]
grind_pattern State.countUnits_good => State.Good p (@State.countUnits a0 a1 a2 a3 a4)
theorem State.openBlock_good (a0 : State) (a1 : ℕ) (a2 : ℕ) (a3 : ℕ) (a4 : ℕ) (a5 : ℕ) (h0 : a0.Good p) : State.Good p (@State.openBlock a0 a1 a2 a3 a4 a5) := by
  have anc : Anchor p := trivial
  unfold State.openBlock
  grind (ematch := 40) (gen := 40) (splits := 24) (ring := false) (linarith := false) (lia := false) (ac := false)
grind_pattern State.openBlock_good => State.Good p (@State.openBlock a0 a1 a2 a3 a4 a5)
theorem State.serveBlock_good (a0 : State) (a1 : ℕ) (a2 : ℕ) (a3 : Option ℕ) (a4 : ℕ) (a5 : ℕ) (a6 : ℕ) (h0 : a0.Good p) : State.Good p (@State.serveBlock a0 a1 a2 a3 a4 a5 a6) := by
  have anc : Anchor p := trivial
  unfold State.serveBlock
  grind (ematch := 40) (gen := 40) (splits := 24) (ring := false) (linarith := false) (lia := false) (ac := false)
grind_pattern State.serveBlock_good => State.Good p (@State.serveBlock a0 a1 a2 a3 a4 a5 a6)
theorem State.chargeTrunk_good (a0 : State) (a1 : ℕ) (a2 : Option ℕ) (a3 : ℕ) (a4 : ℕ) (h0 : a0.Good p) : State.Good p (@State.chargeTrunk a0 a1 a2 a3 a4) := by
  have anc : Anchor p := trivial
  unfold State.chargeTrunk
  grind (ematch := 40) (gen := 40) (splits := 24) (ring := false) (linarith := false) (lia := false) (ac := false)
grind_pattern State.chargeTrunk_good => State.Good p (@State.chargeTrunk a0 a1 a2 a3 a4)
theorem State.takeGrant_good (a0 : State) (a1 : ℕ) (a2 : ℕ) (h0 : a0.Good p) (_anc : Anchor p) (u) (e : @State.takeGrant a0 a1 a2 = some u) : State.Good p u := by
  have anc : Anchor p := trivial
  unfold State.takeGrant at e
  grind (ematch := 40) (gen := 40) (splits := 24) (ring := false) (linarith := false) (lia := false) (ac := false) [RTF_SLOT.SERVED]
grind_pattern State.takeGrant_good => @State.takeGrant a0 a1 a2, Anchor p, some u
theorem State.countRegion_good (a0 : State) (a1 : ℕ) (a2 : ℕ) (h0 : a0.Good p) : State.Good p (@State.countRegion a0 a1 a2) := by
  have anc : Anchor p := trivial
  unfold State.countRegion
  grind (ematch := 40) (gen := 40) (splits := 24) (ring := false) (linarith := false) (lia := false) (ac := false)
grind_pattern State.countRegion_good => State.Good p (@State.countRegion a0 a1 a2)
theorem State.rootTile_good (a0 : State) (a1 : ℕ) (a2 : ℕ) (a3 : Bool) (h0 : a0.Good p) (_anc : Anchor p) (u) (e : @State.rootTile a0 a1 a2 a3 = some u) : State.Good p u := by
  have anc : Anchor p := trivial
  unfold State.rootTile at e
  grind (ematch := 40) (gen := 40) (splits := 24) (ring := false) (linarith := false) (lia := false) (ac := false) [RTF_READ.TILE_READS, Option.map_eq_some_iff]
grind_pattern State.rootTile_good => @State.rootTile a0 a1 a2 a3, Anchor p, some u
theorem State.fetchTiles_good (a0 : State) (a1 : ℕ) (a2 : ℕ) (a3 : List (ℕ × Bool)) (h0 : a0.Good p) (_anc : Anchor p) : State.Good p (@State.fetchTiles a0 a1 a2 a3).2 := by
  have anc : Anchor p := trivial
  fun_induction State.fetchTiles a0 a1 a2 a3
  all_goals grind (ematch := 40) (gen := 40) (splits := 24) (ring := false) (linarith := false) (lia := false) (ac := false)
grind_pattern State.fetchTiles_good => State.Good p (@State.fetchTiles a0 a1 a2 a3).2
grind_pattern State.fetchTiles_good => @State.fetchTiles a0 a1 a2 a3, Anchor p
theorem State.rootBlock_good (a0 : State) (a1 : ℕ) (a2 : ℕ) (h0 : a0.Good p) (_anc : Anchor p) (u) (e : @State.rootBlock a0 a1 a2 = some u) : State.Good p u := by
  have anc : Anchor p := trivial
  unfold State.rootBlock at e
  grind (ematch := 40) (gen := 40) (splits := 24) (ring := false) (linarith := false) (lia := false) (ac := false) [Option.map_eq_some_iff]
grind_pattern State.rootBlock_good => @State.rootBlock a0 a1 a2, Anchor p, some u
theorem State.newRootRequest_good (a0 : State) (a1 : ℕ) (h0 : a0.Good p) : State.Good p (@State.newRootRequest a0 a1) := by
  have anc : Anchor p := trivial
  unfold State.newRootRequest
  grind (ematch := 40) (gen := 40) (splits := 24) (ring := false) (linarith := false) (lia := false) (ac := false)
grind_pattern State.newRootRequest_good => State.Good p (@State.newRootRequest a0 a1)
theorem State.setPte_good (a0 : State) (a1 : ℕ) (a2 : ℕ) (a3 : Pte) (h0 : a0.Good p) : State.Good p (@State.setPte a0 a1 a2 a3) := by
  have anc : Anchor p := trivial
  unfold State.setPte
  grind (ematch := 40) (gen := 40) (splits := 24) (ring := false) (linarith := false) (lia := false) (ac := false)
grind_pattern State.setPte_good => State.Good p (@State.setPte a0 a1 a2 a3)
theorem State.writeDpa_good (a0 : State) (a1 : ℕ) (a2 : List Byte) (h0 : a0.Good p) : State.Good p (@State.writeDpa a0 a1 a2) := by
  have anc : Anchor p := trivial
  unfold State.writeDpa
  grind (ematch := 40) (gen := 40) (splits := 24) (ring := false) (linarith := false) (lia := false) (ac := false)
grind_pattern State.writeDpa_good => State.Good p (@State.writeDpa a0 a1 a2)
theorem State.poisonDpa_good (a0 : State) (a1 : ℕ) (a2 : ℕ) (h0 : a0.Good p) : State.Good p (@State.poisonDpa a0 a1 a2) := by
  have anc : Anchor p := trivial
  unfold State.poisonDpa
  grind (ematch := 40) (gen := 40) (splits := 24) (ring := false) (linarith := false) (lia := false) (ac := false)
grind_pattern State.poisonDpa_good => State.Good p (@State.poisonDpa a0 a1 a2)
theorem State.moveBytes_good (a0 : State) (a1 : ℕ) (a2 : ℕ) (a3 : ℕ) (h0 : a0.Good p) : State.Good p (@State.moveBytes a0 a1 a2 a3) := by
  have anc : Anchor p := trivial
  unfold State.moveBytes
  grind (ematch := 40) (gen := 40) (splits := 24) (ring := false) (linarith := false) (lia := false) (ac := false)
grind_pattern State.moveBytes_good => State.Good p (@State.moveBytes a0 a1 a2 a3)
theorem State.setFrames_good (a0 : State) (a1 : ℕ) (a2 : Ranges) (h0 : a0.Good p) : State.Good p (@State.setFrames a0 a1 a2) := by
  have anc : Anchor p := trivial
  unfold State.setFrames
  grind (ematch := 40) (gen := 40) (splits := 24) (ring := false) (linarith := false) (lia := false) (ac := false)
grind_pattern State.setFrames_good => State.Good p (@State.setFrames a0 a1 a2)
theorem State.setTiles_good (a0 : State) (a1 : ℕ) (a2 : Ranges) (h0 : a0.Good p) : State.Good p (@State.setTiles a0 a1 a2) := by
  have anc : Anchor p := trivial
  unfold State.setTiles
  grind (ematch := 40) (gen := 40) (splits := 24) (ring := false) (linarith := false) (lia := false) (ac := false)
grind_pattern State.setTiles_good => State.Good p (@State.setTiles a0 a1 a2)
theorem State.setPend_good (a0 : State) (a1 : ℕ) (a2 : Ranges) (h0 : a0.Good p) : State.Good p (@State.setPend a0 a1 a2) := by
  have anc : Anchor p := trivial
  unfold State.setPend
  grind (ematch := 40) (gen := 40) (splits := 24) (ring := false) (linarith := false) (lia := false) (ac := false)
grind_pattern State.setPend_good => State.Good p (@State.setPend a0 a1 a2)
theorem State.dropWithdrawn_good (a0 : State) (a1 : ℕ) (h0 : a0.Good p) : State.Good p (@State.dropWithdrawn a0 a1) := by
  have anc : Anchor p := trivial
  unfold State.dropWithdrawn
  grind (ematch := 40) (gen := 40) (splits := 24) (ring := false) (linarith := false) (lia := false) (ac := false)
grind_pattern State.dropWithdrawn_good => State.Good p (@State.dropWithdrawn a0 a1)
theorem State.freeDpaFrame_good (a0 : State) (a1 : ℕ) (h0 : a0.Good p) : State.Good p (@State.freeDpaFrame a0 a1) := by
  have anc : Anchor p := trivial
  unfold State.freeDpaFrame
  grind (ematch := 40) (gen := 40) (splits := 24) (ring := false) (linarith := false) (lia := false) (ac := false)
grind_pattern State.freeDpaFrame_good => State.Good p (@State.freeDpaFrame a0 a1)
theorem State.ovaPoison_good (a0 : State) (a1 : ℕ) (a2 : ℕ) (a3 : ℕ) (h0 : a0.Good p) : State.Good p (@State.ovaPoison a0 a1 a2 a3) := by
  have anc : Anchor p := trivial
  unfold State.ovaPoison
  grind (ematch := 40) (gen := 40) (splits := 24) (ring := false) (linarith := false) (lia := false) (ac := false)
grind_pattern State.ovaPoison_good => State.Good p (@State.ovaPoison a0 a1 a2 a3)
theorem State.countMigWait_good (a0 : State) (a1 : ℕ) (a2 : Pte) (h0 : a0.Good p) : State.Good p (@State.countMigWait a0 a1 a2) := by
  have anc : Anchor p := trivial
  unfold State.countMigWait
  grind (ematch := 40) (gen := 40) (splits := 24) (ring := false) (linarith := false) (lia := false) (ac := false) [PRT_XL_MIG.MIG_WAITS]
grind_pattern State.countMigWait_good => State.Good p (@State.countMigWait a0 a1 a2)
theorem State.writePages_good (a0 : State) (a1 : Bool) (a2 : ℕ) (a3 : ℕ) (a4 : ℕ) (a5 : List Byte) (h0 : a0.Good p) : State.Good p (@State.writePages a0 a1 a2 a3 a4 a5) := by
  have anc : Anchor p := trivial
  fun_induction State.writePages a0 a1 a2 a3 a4 a5
  all_goals grind (ematch := 40) (gen := 40) (splits := 24) (ring := false) (linarith := false) (lia := false) (ac := false)
grind_pattern State.writePages_good => State.Good p (@State.writePages a0 a1 a2 a3 a4 a5)
theorem State.writeOva_good (a0 : State) (a1 : ℕ) (a2 : ℕ) (a3 : List Byte) (h0 : a0.Good p) : State.Good p (@State.writeOva a0 a1 a2 a3) := by
  have anc : Anchor p := trivial
  unfold State.writeOva
  grind (ematch := 40) (gen := 40) (splits := 24) (ring := false) (linarith := false) (lia := false) (ac := false)
grind_pattern State.writeOva_good => State.Good p (@State.writeOva a0 a1 a2 a3)
theorem State.kvWrite_good (a0 : State) (a1 : ℕ) (a2 : ℕ) (a3 : List Byte) (h0 : a0.Good p) : State.Good p (@State.kvWrite a0 a1 a2 a3) := by
  have anc : Anchor p := trivial
  unfold State.kvWrite
  grind (ematch := 40) (gen := 40) (splits := 24) (ring := false) (linarith := false) (lia := false) (ac := false)
grind_pattern State.kvWrite_good => State.Good p (@State.kvWrite a0 a1 a2 a3)
theorem State.writeSpace_good (a0 : State) (a1 : ℕ) (a2 : Bool) (a3 : ℕ) (a4 : List Byte) (h0 : a0.Good p) : State.Good p (@State.writeSpace a0 a1 a2 a3 a4) := by
  have anc : Anchor p := trivial
  unfold State.writeSpace
  grind (ematch := 40) (gen := 40) (splits := 24) (ring := false) (linarith := false) (lia := false) (ac := false)
grind_pattern State.writeSpace_good => State.Good p (@State.writeSpace a0 a1 a2 a3 a4)
theorem State.setSteps_good (a0 : State) (a1 : ℕ) (a2 : List StepRec) (h0 : a0.Good p) : State.Good p (@State.setSteps a0 a1 a2) := by
  have anc : Anchor p := trivial
  unfold State.setSteps
  grind (ematch := 40) (gen := 40) (splits := 24) (ring := false) (linarith := false) (lia := false) (ac := false)
grind_pattern State.setSteps_good => State.Good p (@State.setSteps a0 a1 a2)
theorem State.fireVector_good (a0 : State) (a1 : ℕ) (h0 : a0.Good p) : State.Good p (@State.fireVector a0 a1) := by
  have anc : Anchor p := trivial
  unfold State.fireVector
  grind (ematch := 40) (gen := 40) (splits := 24) (ring := false) (linarith := false) (lia := false) (ac := false) [HIF_ADM_CFG.VECTOR, VF_CTX_CFG.VECTOR]
grind_pattern State.fireVector_good => State.Good p (@State.fireVector a0 a1)
theorem State.setSqHead_good (a0 : State) (a1 : ℕ) (a2 : ℕ) (h0 : a0.Good p) : State.Good p (@State.setSqHead a0 a1 a2) := by
  have anc : Anchor p := trivial
  unfold State.setSqHead
  grind (ematch := 40) (gen := 40) (splits := 24) (ring := false) (linarith := false) (lia := false) (ac := false) [HIF_ADM_CTL.SQ_HEAD, VF_CTX_STATUS.SQ_HEAD]
grind_pattern State.setSqHead_good => State.Good p (@State.setSqHead a0 a1 a2)
theorem State.putCompletion_good (a0 : State) (a1 : ℕ) (a2 : Compl) (h0 : a0.Good p) : State.Good p (@State.putCompletion a0 a1 a2) := by
  have anc : Anchor p := trivial
  unfold State.putCompletion
  grind (ematch := 40) (gen := 40) (splits := 24) (ring := false) (linarith := false) (lia := false) (ac := false) [VF_CTX_CNT.COMPLETIONS]
grind_pattern State.putCompletion_good => State.Good p (@State.putCompletion a0 a1 a2)
theorem State.writeCompletion_good (a0 : State) (a1 : ℕ) (a2 : Compl) (h0 : a0.Good p) : State.Good p (@State.writeCompletion a0 a1 a2) := by
  have anc : Anchor p := trivial
  unfold State.writeCompletion
  grind (ematch := 40) (gen := 40) (splits := 24) (ring := false) (linarith := false) (lia := false) (ac := false) [VF_CTX_CNT.CQ_WAITS]
grind_pattern State.writeCompletion_good => State.Good p (@State.writeCompletion a0 a1 a2)
theorem State.complete_good (a0 : State) (a1 : ℕ) (a2 : ℕ) (a3 : Compl) (h0 : a0.Good p) : State.Good p (@State.complete a0 a1 a2 a3) := by
  have anc : Anchor p := trivial
  unfold State.complete
  grind (ematch := 40) (gen := 40) (splits := 24) (ring := false) (linarith := false) (lia := false) (ac := false)
grind_pattern State.complete_good => State.Good p (@State.complete a0 a1 a2 a3)
theorem State.eventTo_good (a0 : State) (a1 : ℕ) (a2 : ℕ) (a3 : ℕ) (a4 : List Byte) (h0 : a0.Good p) : State.Good p (@State.eventTo a0 a1 a2 a3 a4) := by
  have anc : Anchor p := trivial
  unfold State.eventTo
  grind (ematch := 40) (gen := 40) (splits := 24) (ring := false) (linarith := false) (lia := false) (ac := false) [VF_CTX_CNT.EQ_DROPS]
grind_pattern State.eventTo_good => State.Good p (@State.eventTo a0 a1 a2 a3 a4)
theorem State.eventAll_good (a0 : State) (a1 : ℕ) (a2 : ℕ) (a3 : List Byte) (h0 : a0.Good p) : State.Good p (@State.eventAll a0 a1 a2 a3) := by
  have anc : Anchor p := trivial
  unfold State.eventAll
  grind (ematch := 40) (gen := 40) (splits := 24) (ring := false) (linarith := false) (lia := false) (ac := false)
grind_pattern State.eventAll_good => State.Good p (@State.eventAll a0 a1 a2 a3)
theorem State.eventGroup_good (a0 : State) (a1 : ℕ) (a2 : ℕ) (a3 : ℕ) (a4 : List Byte) (h0 : a0.Good p) : State.Good p (@State.eventGroup a0 a1 a2 a3 a4) := by
  have anc : Anchor p := trivial
  unfold State.eventGroup
  grind (ematch := 40) (gen := 40) (splits := 24) (ring := false) (linarith := false) (lia := false) (ac := false)
grind_pattern State.eventGroup_good => State.Good p (@State.eventGroup a0 a1 a2 a3 a4)
theorem State.setLink_good (a0 : State) (a1 : ℕ) (a2 : Link) (h0 : a0.Good p) : State.Good p (@State.setLink a0 a1 a2) := by
  have anc : Anchor p := trivial
  unfold State.setLink
  grind (ematch := 40) (gen := 40) (splits := 24) (ring := false) (linarith := false) (lia := false) (ac := false)
grind_pattern State.setLink_good => State.Good p (@State.setLink a0 a1 a2)
theorem State.modLink_good (a0 : State) (a1 : ℕ) (a2 : Link → Link) (h0 : a0.Good p) : State.Good p (@State.modLink a0 a1 a2) := by
  have anc : Anchor p := trivial
  unfold State.modLink
  grind (ematch := 40) (gen := 40) (splits := 24) (ring := false) (linarith := false) (lia := false) (ac := false)
grind_pattern State.modLink_good => State.Good p (@State.modLink a0 a1 a2)
theorem State.modQp_good (a0 : State) (a1 : ℕ) (a2 : Qp → Qp) (h0 : a0.Good p) : State.Good p (@State.modQp a0 a1 a2) := by
  have anc : Anchor p := trivial
  unfold State.modQp
  grind (ematch := 40) (gen := 40) (splits := 24) (ring := false) (linarith := false) (lia := false) (ac := false)
grind_pattern State.modQp_good => State.Good p (@State.modQp a0 a1 a2)
theorem State.pumpLink_good (a0 : State) (a1 : ℕ) (a2 : List TxFrame) (a3 : List ℕ) (h0 : a0.Good p) : State.Good p (@State.pumpLink a0 a1 a2 a3) := by
  have anc : Anchor p := trivial
  fun_induction State.pumpLink a0 a1 a2 a3
  all_goals grind (ematch := 40) (gen := 40) (splits := 24) (ring := false) (linarith := false) (lia := false) (ac := false)
grind_pattern State.pumpLink_good => State.Good p (@State.pumpLink a0 a1 a2 a3)
theorem State.flushLink_good (a0 : State) (a1 : ℕ) (h0 : a0.Good p) : State.Good p (@State.flushLink a0 a1) := by
  have anc : Anchor p := trivial
  unfold State.flushLink
  grind (ematch := 40) (gen := 40) (splits := 24) (ring := false) (linarith := false) (lia := false) (ac := false)
grind_pattern State.flushLink_good => State.Good p (@State.flushLink a0 a1)
theorem State.sendLink_good (a0 : State) (a1 : ℕ) (a2 : TxFrame) (h0 : a0.Good p) : State.Good p (@State.sendLink a0 a1 a2) := by
  have anc : Anchor p := trivial
  unfold State.sendLink
  grind (ematch := 40) (gen := 40) (splits := 24) (ring := false) (linarith := false) (lia := false) (ac := false)
grind_pattern State.sendLink_good => State.Good p (@State.sendLink a0 a1 a2)
theorem State.sendMember_good (a0 : State) (a1 : Member) (a2 : TxFrame) (h0 : a0.Good p) : State.Good p (@State.sendMember a0 a1 a2) := by
  have anc : Anchor p := trivial
  unfold State.sendMember
  grind (ematch := 40) (gen := 40) (splits := 24) (ring := false) (linarith := false) (lia := false) (ac := false)
grind_pattern State.sendMember_good => State.Good p (@State.sendMember a0 a1 a2)
theorem State.sendOthers_good (a0 : State) (a1 : ℕ) (a2 : TxFrame) (h0 : a0.Good p) : State.Good p (@State.sendOthers a0 a1 a2) := by
  have anc : Anchor p := trivial
  unfold State.sendOthers
  grind (ematch := 40) (gen := 40) (splits := 24) (ring := false) (linarith := false) (lia := false) (ac := false)
grind_pattern State.sendOthers_good => State.Good p (@State.sendOthers a0 a1 a2)
theorem State.tellMembers_good (a0 : State) (a1 : ℕ) (a2 : CtrlMsg) (h0 : a0.Good p) : State.Good p (@State.tellMembers a0 a1 a2) := by
  have anc : Anchor p := trivial
  unfold State.tellMembers
  grind (ematch := 40) (gen := 40) (splits := 24) (ring := false) (linarith := false) (lia := false) (ac := false)
grind_pattern State.tellMembers_good => State.Good p (@State.tellMembers a0 a1 a2)
theorem State.tellDevice_good (a0 : State) (a1 : ℕ) (a2 : CtrlMsg) (a3 : List Byte) (h0 : a0.Good p) : State.Good p (@State.tellDevice a0 a1 a2 a3) := by
  have anc : Anchor p := trivial
  unfold State.tellDevice
  grind (ematch := 40) (gen := 40) (splits := 24) (ring := false) (linarith := false) (lia := false) (ac := false)
grind_pattern State.tellDevice_good => State.Good p (@State.tellDevice a0 a1 a2 a3)
theorem State.sendCtl_good (a0 : State) (a1 : ℕ) (a2 : ℕ) (a3 : ℕ) (h0 : a0.Good p) : State.Good p (@State.sendCtl a0 a1 a2 a3) := by
  have anc : Anchor p := trivial
  unfold State.sendCtl
  grind (ematch := 40) (gen := 40) (splits := 24) (ring := false) (linarith := false) (lia := false) (ac := false) [ZXL_LNK_STATUS.STATE]
grind_pattern State.sendCtl_good => State.Good p (@State.sendCtl a0 a1 a2 a3)
theorem State.objWrite_good (a0 : State) (a1 : ℕ) (a2 : ℕ) (a3 : List Byte) (h0 : a0.Good p) : State.Good p (@State.objWrite a0 a1 a2 a3) := by
  have anc : Anchor p := trivial
  unfold State.objWrite
  grind (ematch := 40) (gen := 40) (splits := 24) (ring := false) (linarith := false) (lia := false) (ac := false)
grind_pattern State.objWrite_good => State.Good p (@State.objWrite a0 a1 a2 a3)
theorem State.objCopy_good (a0 : State) (a1 : ℕ) (a2 : ℕ) (a3 : ℕ) (a4 : ℕ) (h0 : a0.Good p) : State.Good p (@State.objCopy a0 a1 a2 a3 a4) := by
  have anc : Anchor p := trivial
  unfold State.objCopy
  grind (ematch := 40) (gen := 40) (splits := 24) (ring := false) (linarith := false) (lia := false) (ac := false)
grind_pattern State.objCopy_good => State.Good p (@State.objCopy a0 a1 a2 a3 a4)
theorem State.setPage_good (a0 : State) (a1 : ℕ) (a2 : ℕ) (a3 : PageDesc) (h0 : a0.Good p) : State.Good p (@State.setPage a0 a1 a2 a3) := by
  have anc : Anchor p := trivial
  unfold State.setPage
  grind (ematch := 40) (gen := 40) (splits := 24) (ring := false) (linarith := false) (lia := false) (ac := false)
grind_pattern State.setPage_good => State.Good p (@State.setPage a0 a1 a2 a3)
theorem State.setFree_good (a0 : State) (a1 : ℕ) (a2 : Ranges) (h0 : a0.Good p) : State.Good p (@State.setFree a0 a1 a2) := by
  have anc : Anchor p := trivial
  unfold State.setFree
  grind (ematch := 40) (gen := 40) (splits := 24) (ring := false) (linarith := false) (lia := false) (ac := false)
grind_pattern State.setFree_good => State.Good p (@State.setFree a0 a1 a2)
theorem State.takeSlot_good (a0 : State) (a1 : ℕ) (h0 : a0.Good p) (_anc : Anchor p) : State.Good p (@State.takeSlot a0 a1).2 := by
  have anc : Anchor p := trivial
  unfold State.takeSlot
  grind (ematch := 40) (gen := 40) (splits := 24) (ring := false) (linarith := false) (lia := false) (ac := false)
grind_pattern State.takeSlot_good => State.Good p (@State.takeSlot a0 a1).2
grind_pattern State.takeSlot_good => @State.takeSlot a0 a1, Anchor p
theorem State.takeCongruent_good (a0 : State) (a1 : ℕ) (a2 : ℕ) (h0 : a0.Good p) (_anc : Anchor p) : State.Good p (@State.takeCongruent a0 a1 a2).2 := by
  have anc : Anchor p := trivial
  unfold State.takeCongruent
  grind (ematch := 40) (gen := 40) (splits := 24) (ring := false) (linarith := false) (lia := false) (ac := false)
grind_pattern State.takeCongruent_good => State.Good p (@State.takeCongruent a0 a1 a2).2
grind_pattern State.takeCongruent_good => @State.takeCongruent a0 a1 a2, Anchor p
theorem State.unmapTiles_good (a0 : State) (a1 : ℕ) (a2 : ℕ) (a3 : ℕ) (h0 : a0.Good p) : State.Good p (@State.unmapTiles a0 a1 a2 a3) := by
  have anc : Anchor p := trivial
  unfold State.unmapTiles
  grind (ematch := 40) (gen := 40) (splits := 24) (ring := false) (linarith := false) (lia := false) (ac := false)
grind_pattern State.unmapTiles_good => State.Good p (@State.unmapTiles a0 a1 a2 a3)
theorem State.freeSlot_good (a0 : State) (a1 : ℕ) (a2 : ℕ) (h0 : a0.Good p) : State.Good p (@State.freeSlot a0 a1 a2) := by
  have anc : Anchor p := trivial
  unfold State.freeSlot
  grind (ematch := 40) (gen := 40) (splits := 24) (ring := false) (linarith := false) (lia := false) (ac := false)
grind_pattern State.freeSlot_good => State.Good p (@State.freeSlot a0 a1 a2)
theorem State.releaseHeld_good (a0 : State) (h0 : a0.Good p) : State.Good p (@State.releaseHeld a0) := by
  have anc : Anchor p := trivial
  unfold State.releaseHeld
  grind (ematch := 40) (gen := 40) (splits := 24) (ring := false) (linarith := false) (lia := false) (ac := false)
grind_pattern State.releaseHeld_good => State.Good p (@State.releaseHeld a0)
theorem State.setSeq_good (a0 : State) (a1 : ℕ) (a2 : SeqEnt) (h0 : a0.Good p) : State.Good p (@State.setSeq a0 a1 a2) := by
  have anc : Anchor p := trivial
  unfold State.setSeq
  grind (ematch := 40) (gen := 40) (splits := 24) (ring := false) (linarith := false) (lia := false) (ac := false)
grind_pattern State.setSeq_good => State.Good p (@State.setSeq a0 a1 a2)
theorem State.modSeq_good (a0 : State) (a1 : ℕ) (a2 : SeqEnt → SeqEnt) (h0 : a0.Good p) : State.Good p (@State.modSeq a0 a1 a2) := by
  have anc : Anchor p := trivial
  unfold State.modSeq
  grind (ematch := 40) (gen := 40) (splits := 24) (ring := false) (linarith := false) (lia := false) (ac := false)
grind_pattern State.modSeq_good => State.Good p (@State.modSeq a0 a1 a2)
theorem State.tblSet_good (a0 : State) (a1 : SeqEnt) (a2 : ℕ) (a3 : ℕ) (h0 : a0.Good p) : State.Good p (@State.tblSet a0 a1 a2 a3) := by
  have anc : Anchor p := trivial
  unfold State.tblSet
  grind (ematch := 40) (gen := 40) (splits := 24) (ring := false) (linarith := false) (lia := false) (ac := false)
grind_pattern State.tblSet_good => State.Good p (@State.tblSet a0 a1 a2 a3)
theorem State.dropPage_good (a0 : State) (a1 : ℕ) (a2 : ℕ) (h0 : a0.Good p) : State.Good p (@State.dropPage a0 a1 a2) := by
  have anc : Anchor p := trivial
  unfold State.dropPage
  grind (ematch := 40) (gen := 40) (splits := 24) (ring := false) (linarith := false) (lia := false) (ac := false)
grind_pattern State.dropPage_good => State.Good p (@State.dropPage a0 a1 a2)
theorem State.releaseSeq_good (a0 : State) (a1 : ℕ) (h0 : a0.Good p) : State.Good p (@State.releaseSeq a0 a1) := by
  have anc : Anchor p := trivial
  unfold State.releaseSeq
  grind (ematch := 40) (gen := 40) (splits := 24) (ring := false) (linarith := false) (lia := false) (ac := false)
grind_pattern State.releaseSeq_good => State.Good p (@State.releaseSeq a0 a1)
theorem State.modRec_good (a0 : State) (a1 : ℕ) (a2 : SeqRec → SeqRec) (h0 : a0.Good p) : State.Good p (@State.modRec a0 a1 a2) := by
  have anc : Anchor p := trivial
  unfold State.modRec
  grind (ematch := 40) (gen := 40) (splits := 24) (ring := false) (linarith := false) (lia := false) (ac := false)
grind_pattern State.modRec_good => State.Good p (@State.modRec a0 a1 a2)
theorem State.newPage_good (a0 : State) (a1 : ℕ) (a2 : ℕ) (a3 : ℕ) (a4 : ℕ) (h0 : a0.Good p) (_anc : Anchor p) : State.Good p (@State.newPage a0 a1 a2 a3 a4).2 := by
  have anc : Anchor p := trivial
  unfold State.newPage
  grind (ematch := 40) (gen := 40) (splits := 24) (ring := false) (linarith := false) (lia := false) (ac := false)
grind_pattern State.newPage_good => State.Good p (@State.newPage a0 a1 a2 a3 a4).2
grind_pattern State.newPage_good => @State.newPage a0 a1 a2 a3 a4, Anchor p
theorem State.copyEntries_good (a0 : State) (a1 : ℕ) (a2 : ℕ) (a3 : ℕ) (a4 : ℕ) (a5 : ℕ) (a6 : ℕ) (h0 : a0.Good p) : State.Good p (@State.copyEntries a0 a1 a2 a3 a4 a5 a6) := by
  have anc : Anchor p := trivial
  unfold State.copyEntries
  grind (ematch := 40) (gen := 40) (splits := 24) (ring := false) (linarith := false) (lia := false) (ac := false)
grind_pattern State.copyEntries_good => State.Good p (@State.copyEntries a0 a1 a2 a3 a4 a5 a6)
theorem State.copyTail_good (a0 : State) (a1 : ℕ) (a2 : ℕ) (a3 : ℕ) (h0 : a0.Good p) : State.Good p (@State.copyTail a0 a1 a2 a3) := by
  have anc : Anchor p := trivial
  unfold State.copyTail
  grind (ematch := 40) (gen := 40) (splits := 24) (ring := false) (linarith := false) (lia := false) (ac := false) [PRT_KV_COW.COW_CLASP, PRT_KV_COW.COW_MOVER]
grind_pattern State.copyTail_good => State.Good p (@State.copyTail a0 a1 a2 a3)
theorem State.copyHeld_good (a0 : State) (a1 : ℕ) (a2 : ℕ) (h0 : a0.Good p) : State.Good p (@State.copyHeld a0 a1 a2) := by
  have anc : Anchor p := trivial
  unfold State.copyHeld
  grind (ematch := 40) (gen := 40) (splits := 24) (ring := false) (linarith := false) (lia := false) (ac := false)
grind_pattern State.copyHeld_good => State.Good p (@State.copyHeld a0 a1 a2)
theorem State.preparePage_good (a0 : State) (a1 : ℕ) (a2 : ℕ) (a3 : ℕ) (a4 : ℕ) (h0 : a0.Good p) : State.Good p (@State.preparePage a0 a1 a2 a3 a4) := by
  have anc : Anchor p := trivial
  unfold State.preparePage
  grind (ematch := 40) (gen := 40) (splits := 24) (ring := false) (linarith := false) (lia := false) (ac := false)
grind_pattern State.preparePage_good => State.Good p (@State.preparePage a0 a1 a2 a3 a4)
theorem State.prepareSeq_good (a0 : State) (a1 : ℕ) (a2 : ℕ) (h0 : a0.Good p) : State.Good p (@State.prepareSeq a0 a1 a2) := by
  have anc : Anchor p := trivial
  unfold State.prepareSeq
  grind (ematch := 40) (gen := 40) (splits := 24) (ring := false) (linarith := false) (lia := false) (ac := false)
grind_pattern State.prepareSeq_good => State.Good p (@State.prepareSeq a0 a1 a2)
theorem State.discardSeq_good (a0 : State) (a1 : ℕ) (a2 : ℕ) (h0 : a0.Good p) : State.Good p (@State.discardSeq a0 a1 a2) := by
  have anc : Anchor p := trivial
  unfold State.discardSeq
  grind (ematch := 40) (gen := 40) (splits := 24) (ring := false) (linarith := false) (lia := false) (ac := false)
grind_pattern State.discardSeq_good => State.Good p (@State.discardSeq a0 a1 a2)
theorem State.discardStep_good (a0 : State) (a1 : StepRec) (h0 : a0.Good p) : State.Good p (@State.discardStep a0 a1) := by
  have anc : Anchor p := trivial
  unfold State.discardStep
  grind (ematch := 40) (gen := 40) (splits := 24) (ring := false) (linarith := false) (lia := false) (ac := false)
grind_pattern State.discardStep_good => State.Good p (@State.discardStep a0 a1)
theorem State.commitSeq_good (a0 : State) (a1 : ℕ) (a2 : ℕ) (a3 : List ℕ) (h0 : a0.Good p) : State.Good p (@State.commitSeq a0 a1 a2 a3) := by
  have anc : Anchor p := trivial
  unfold State.commitSeq
  grind (ematch := 40) (gen := 40) (splits := 24) (ring := false) (linarith := false) (lia := false) (ac := false)
grind_pattern State.commitSeq_good => State.Good p (@State.commitSeq a0 a1 a2 a3)
theorem State.writeResult_good (a0 : State) (a1 : StepRec) (a2 : ℕ) (a3 : ℕ) (a4 : ℕ) (a5 : Option (List Byte)) (h0 : a0.Good p) : State.Good p (@State.writeResult a0 a1 a2 a3 a4 a5) := by
  have anc : Anchor p := trivial
  unfold State.writeResult
  grind (ematch := 40) (gen := 40) (splits := 24) (ring := false) (linarith := false) (lia := false) (ac := false)
grind_pattern State.writeResult_good => State.Good p (@State.writeResult a0 a1 a2 a3 a4 a5)
theorem State.stepRefused_good (a0 : State) (a1 : StepRec) (a2 : ℕ) (a3 : ℕ) (h0 : a0.Good p) : State.Good p (@State.stepRefused a0 a1 a2 a3) := by
  have anc : Anchor p := trivial
  unfold State.stepRefused
  grind (ematch := 40) (gen := 40) (splits := 24) (ring := false) (linarith := false) (lia := false) (ac := false)
grind_pattern State.stepRefused_good => State.Good p (@State.stepRefused a0 a1 a2 a3)
theorem State.stepDone_good (a0 : State) (a1 : StepRec) (a2 : ℕ) (h0 : a0.Good p) : State.Good p (@State.stepDone a0 a1 a2) := by
  have anc : Anchor p := trivial
  unfold State.stepDone
  grind (ematch := 40) (gen := 40) (splits := 24) (ring := false) (linarith := false) (lia := false) (ac := false)
grind_pattern State.stepDone_good => State.Good p (@State.stepDone a0 a1 a2)
theorem State.completeLater_good (a0 : State) (a1 : Later) (a2 : ℕ) (a3 : ℕ) (a4 : ℕ) (h0 : a0.Good p) : State.Good p (@State.completeLater a0 a1 a2 a3 a4) := by
  have anc : Anchor p := trivial
  unfold State.completeLater
  grind (ematch := 40) (gen := 40) (splits := 24) (ring := false) (linarith := false) (lia := false) (ac := false)
grind_pattern State.completeLater_good => State.Good p (@State.completeLater a0 a1 a2 a3 a4)
theorem State.refuseStep_good (a0 : State) (a1 : StepRec) (a2 : List SeqRec) (a3 : ℕ) (a4 : ℕ) (a5 : List ℕ) (h0 : a0.Good p) : State.Good p (@State.refuseStep a0 a1 a2 a3 a4 a5) := by
  have anc : Anchor p := trivial
  unfold State.refuseStep
  grind (ematch := 40) (gen := 40) (splits := 24) (ring := false) (linarith := false) (lia := false) (ac := false)
grind_pattern State.refuseStep_good => State.Good p (@State.refuseStep a0 a1 a2 a3 a4 a5)
theorem State.captureExports_good (a0 : State) (a1 : ℕ) (h0 : a0.Good p) : State.Good p (@State.captureExports a0 a1) := by
  have anc : Anchor p := trivial
  unfold State.captureExports
  grind (ematch := 40) (gen := 40) (splits := 24) (ring := false) (linarith := false) (lia := false) (ac := false) [PRT_KV_XFER.XFER_REJ]
grind_pattern State.captureExports_good => State.Good p (@State.captureExports a0 a1)
theorem State.refuseWaiting_good (a0 : State) (a1 : ℕ) (a2 : ℕ) (h0 : a0.Good p) : State.Good p (@State.refuseWaiting a0 a1 a2) := by
  have anc : Anchor p := trivial
  unfold State.refuseWaiting
  grind (ematch := 40) (gen := 40) (splits := 24) (ring := false) (linarith := false) (lia := false) (ac := false)
grind_pattern State.refuseWaiting_good => State.Good p (@State.refuseWaiting a0 a1 a2)
theorem State.applyClose_good (a0 : State) (a1 : ℕ) (h0 : a0.Good p) : State.Good p (@State.applyClose a0 a1) := by
  have anc : Anchor p := trivial
  unfold State.applyClose
  grind (ematch := 40) (gen := 40) (splits := 24) (ring := false) (linarith := false) (lia := false) (ac := false)
grind_pattern State.applyClose_good => State.Good p (@State.applyClose a0 a1)
theorem State.applyCloses_good (a0 : State) (a1 : ℕ) (h0 : a0.Good p) : State.Good p (@State.applyCloses a0 a1) := by
  have anc : Anchor p := trivial
  unfold State.applyCloses
  grind (ematch := 40) (gen := 40) (splits := 24) (ring := false) (linarith := false) (lia := false) (ac := false)
grind_pattern State.applyCloses_good => State.Good p (@State.applyCloses a0 a1)
theorem State.endSteps_good (a0 : State) (a1 : ℕ) (a2 : ℕ) (a3 : Bool) (h0 : a0.Good p) : State.Good p (@State.endSteps a0 a1 a2 a3) := by
  have anc : Anchor p := trivial
  unfold State.endSteps
  grind (ematch := 40) (gen := 40) (splits := 24) (ring := false) (linarith := false) (lia := false) (ac := false)
grind_pattern State.endSteps_good => State.Good p (@State.endSteps a0 a1 a2 a3)
theorem State.noteStop_good (a0 : State) (a1 : ℕ) (a2 : ℕ) (a3 : ℕ) (a4 : ℕ × ℕ) (h0 : a0.Good p) : State.Good p (@State.noteStop a0 a1 a2 a3 a4) := by
  have anc : Anchor p := trivial
  unfold State.noteStop
  grind (ematch := 40) (gen := 40) (splits := 24) (ring := false) (linarith := false) (lia := false) (ac := false)
grind_pattern State.noteStop_good => State.Good p (@State.noteStop a0 a1 a2 a3 a4)
theorem State.nextOp_good (a0 : State) (h0 : a0.Good p) : State.Good p (@State.nextOp a0) := by
  have anc : Anchor p := trivial
  unfold State.nextOp
  grind (ematch := 40) (gen := 40) (splits := 24) (ring := false) (linarith := false) (lia := false) (ac := false)
grind_pattern State.nextOp_good => State.Good p (@State.nextOp a0)
theorem State.announceStopAt_good (a0 : State) (a1 : ℕ) (a2 : ℕ) (a3 : ℕ) (h0 : a0.Good p) : State.Good p (@State.announceStopAt a0 a1 a2 a3) := by
  have anc : Anchor p := trivial
  unfold State.announceStopAt
  grind (ematch := 40) (gen := 40) (splits := 24) (ring := false) (linarith := false) (lia := false) (ac := false)
grind_pattern State.announceStopAt_good => State.Good p (@State.announceStopAt a0 a1 a2 a3)
theorem State.announceStop_good (a0 : State) (a1 : ℕ) (a2 : ℕ) (h0 : a0.Good p) : State.Good p (@State.announceStop a0 a1 a2) := by
  have anc : Anchor p := trivial
  unfold State.announceStop
  grind (ematch := 40) (gen := 40) (splits := 24) (ring := false) (linarith := false) (lia := false) (ac := false)
grind_pattern State.announceStop_good => State.Good p (@State.announceStop a0 a1 a2)
theorem State.poisonSteps_good (a0 : State) (a1 : ℕ) (a2 : ℕ) (h0 : a0.Good p) : State.Good p (@State.poisonSteps a0 a1 a2) := by
  have anc : Anchor p := trivial
  unfold State.poisonSteps
  grind (ematch := 40) (gen := 40) (splits := 24) (ring := false) (linarith := false) (lia := false) (ac := false)
grind_pattern State.poisonSteps_good => State.Good p (@State.poisonSteps a0 a1 a2)
theorem State.containSteps_good (a0 : State) (a1 : ℕ) (a2 : Option ℕ) (a3 : Bool) (h0 : a0.Good p) : State.Good p (@State.containSteps a0 a1 a2 a3) := by
  have anc : Anchor p := trivial
  unfold State.containSteps
  grind (ematch := 40) (gen := 40) (splits := 24) (ring := false) (linarith := false) (lia := false) (ac := false)
grind_pattern State.containSteps_good => State.Good p (@State.containSteps a0 a1 a2 a3)
theorem State.logRecord_good (a0 : State) (a1 : ℕ) (a2 : List Byte) (h0 : a0.Good p) : State.Good p (@State.logRecord a0 a1 a2) := by
  have anc : Anchor p := trivial
  unfold State.logRecord
  grind (ematch := 40) (gen := 40) (splits := 24) (ring := false) (linarith := false) (lia := false) (ac := false) [FLT_STATUS.LOG_WR, FLT_STATUS.LOST]
grind_pattern State.logRecord_good => State.Good p (@State.logRecord a0 a1 a2)
theorem State.faultFrames_good (a0 : State) (a1 : ℕ) (a2 : List Byte) (a3 : Bool) (h0 : a0.Good p) : State.Good p (@State.faultFrames a0 a1 a2 a3) := by
  have anc : Anchor p := trivial
  unfold State.faultFrames
  grind (ematch := 40) (gen := 40) (splits := 24) (ring := false) (linarith := false) (lia := false) (ac := false)
grind_pattern State.faultFrames_good => State.Good p (@State.faultFrames a0 a1 a2 a3)
theorem State.routeEvent_good (a0 : State) (a1 : Evt) (a2 : ℕ) (a3 : List Byte) (h0 : a0.Good p) : State.Good p (@State.routeEvent a0 a1 a2 a3) := by
  have anc : Anchor p := trivial
  unfold State.routeEvent
  grind (ematch := 40) (gen := 40) (splits := 24) (ring := false) (linarith := false) (lia := false) (ac := false) [FLT_CNT.MULTI_HIT, FLT_ROUTE.DEST_PF0, FLT_CTL.IRQ_EN, FLT_CTL.VECTOR, FLT_ROUTE.DEST_PLDM, FLT_ROUTE.DEST_FRAME]
grind_pattern State.routeEvent_good => State.Good p (@State.routeEvent a0 a1 a2 a3)
theorem State.pulseFaultN_good (a0 : State) (a1 : ℕ) (h0 : a0.Good p) : State.Good p (@State.pulseFaultN a0 a1) := by
  have anc : Anchor p := trivial
  unfold State.pulseFaultN
  grind (ematch := 40) (gen := 40) (splits := 24) (ring := false) (linarith := false) (lia := false) (ac := false) [FLT_PIN_CTL.ARM, FLT_PIN_CTL.PULSE, FLT_PIN_CTL.THRESH]
grind_pattern State.pulseFaultN_good => State.Good p (@State.pulseFaultN a0 a1)
theorem State.enterFatal_good (a0 : State) (a1 : List Byte) (h0 : a0.Good p) : State.Good p (@State.enterFatal a0 a1) := by
  have anc : Anchor p := trivial
  unfold State.enterFatal
  grind (ematch := 40) (gen := 40) (splits := 24) (ring := false) (linarith := false) (lia := false) (ac := false) [FLT_STATUS.FATAL]
grind_pattern State.enterFatal_good => State.Good p (@State.enterFatal a0 a1)
theorem State.raise_good (a0 : State) (a1 : Evt) (h0 : a0.Good p) : State.Good p (@State.raise a0 a1) := by
  have anc : Anchor p := trivial
  unfold State.raise
  grind (ematch := 40) (gen := 40) (splits := 24) (ring := false) (linarith := false) (lia := false) (ac := false) [FLT_CNT.CORR_CNT, FLT_CNT.CONT_CNT, FLT_CNT.FATL_CNT, FLT_STATUS.LOG_WR]
grind_pattern State.raise_good => State.Good p (@State.raise a0 a1)
theorem State.bucketAdd_good (a0 : State) (a1 : ℕ) (a2 : Bool) (h0 : a0.Good p) (_anc : Anchor p) : State.Good p (@State.bucketAdd a0 a1 a2).1 := by
  have anc : Anchor p := trivial
  unfold State.bucketAdd
  grind (ematch := 40) (gen := 40) (splits := 24) (ring := false) (linarith := false) (lia := false) (ac := false) [FLT_LEAK.THRESH]
grind_pattern State.bucketAdd_good => State.Good p (@State.bucketAdd a0 a1 a2).1
grind_pattern State.bucketAdd_good => @State.bucketAdd a0 a1 a2, Anchor p
theorem State.injHit_good (a0 : State) (a1 : ℕ) (a2 : ℕ) (a3 : ℕ) (a4 : Bool) (h0 : a0.Good p) (_anc : Anchor p) : State.Good p (@State.injHit a0 a1 a2 a3 a4).2 := by
  have anc : Anchor p := trivial
  unfold State.injHit
  grind (ematch := 40) (gen := 40) (splits := 24) (ring := false) (linarith := false) (lia := false) (ac := false) [FLT_INJ_CTL.ACTIVE, FLT_INJ_CTL.REMAIN]
grind_pattern State.injHit_good => State.Good p (@State.injHit a0 a1 a2 a3 a4).2
grind_pattern State.injHit_good => @State.injHit a0 a1 a2 a3 a4, Anchor p
theorem State.fecHit_good (a0 : State) (a1 : ℕ) (a2 : ℕ) (h0 : a0.Good p) (_anc : Anchor p) : State.Good p (@State.fecHit a0 a1 a2).2 := by
  have anc : Anchor p := trivial
  unfold State.fecHit
  grind (ematch := 40) (gen := 40) (splits := 24) (ring := false) (linarith := false) (lia := false) (ac := false)
grind_pattern State.fecHit_good => State.Good p (@State.fecHit a0 a1 a2).2
grind_pattern State.fecHit_good => @State.fecHit a0 a1 a2, Anchor p
theorem State.lockEvent_good (a0 : State) (a1 : ℕ) (h0 : a0.Good p) : State.Good p (@State.lockEvent a0 a1) := by
  have anc : Anchor p := trivial
  unfold State.lockEvent
  grind (ematch := 40) (gen := 40) (splits := 24) (ring := false) (linarith := false) (lia := false) (ac := false)
grind_pattern State.lockEvent_good => State.Good p (@State.lockEvent a0 a1)
theorem State.withdrawFrame_good (a0 : State) (a1 : ℕ) (a2 : ℕ) (h0 : a0.Good p) : State.Good p (@State.withdrawFrame a0 a1 a2) := by
  have anc : Anchor p := trivial
  unfold State.withdrawFrame
  grind (ematch := 40) (gen := 40) (splits := 24) (ring := false) (linarith := false) (lia := false) (ac := false) [TRK_REPAIR.FRAMES_WD]
grind_pattern State.withdrawFrame_good => State.Good p (@State.withdrawFrame a0 a1 a2)
theorem State.remapRow_good (a0 : State) (a1 : ℕ) (a2 : ℕ) (a3 : ℕ) (a4 : ℕ) (h0 : a0.Good p) : State.Good p (@State.remapRow a0 a1 a2 a3 a4) := by
  have anc : Anchor p := trivial
  unfold State.remapRow
  grind (ematch := 40) (gen := 40) (splits := 24) (ring := false) (linarith := false) (lia := false) (ac := false) [TRK_REPAIR.SPARE_FREE, TRK_REPAIR.REMAP_CNT]
grind_pattern State.remapRow_good => State.Good p (@State.remapRow a0 a1 a2 a3 a4)
theorem State.rowError_good (a0 : State) (a1 : ℕ) (a2 : ℕ) (a3 : ℕ) (a4 : ℕ) (a5 : Bool) (h0 : a0.Good p) : State.Good p (@State.rowError a0 a1 a2 a3 a4 a5) := by
  have anc : Anchor p := trivial
  unfold State.rowError
  grind (ematch := 40) (gen := 40) (splits := 24) (ring := false) (linarith := false) (lia := false) (ac := false)
grind_pattern State.rowError_good => State.Good p (@State.rowError a0 a1 a2 a3 a4 a5)
theorem State.decodeOnce_good (a0 : State) (a1 : ℕ) (a2 : ℕ) (a3 : ℕ) (a4 : Seen) (h0 : a0.Good p) (_anc : Anchor p) : State.Good p (@State.decodeOnce a0 a1 a2 a3 a4).2 := by
  have anc : Anchor p := trivial
  unfold State.decodeOnce
  grind (ematch := 40) (gen := 40) (splits := 24) (ring := false) (linarith := false) (lia := false) (ac := false)
grind_pattern State.decodeOnce_good => State.Good p (@State.decodeOnce a0 a1 a2 a3 a4).2
grind_pattern State.decodeOnce_good => @State.decodeOnce a0 a1 a2 a3 a4, Anchor p
theorem State.decodeAll_good (a0 : State) (a1 : ℕ) (a2 : ℕ) (a3 : ℕ) (a4 : ℕ) (a5 : List Seen) (a6 : ℕ) (h0 : a0.Good p) (_anc : Anchor p) : State.Good p (@State.decodeAll a0 a1 a2 a3 a4 a5 a6).2.2 := by
  have anc : Anchor p := trivial
  fun_induction State.decodeAll a0 a1 a2 a3 a4 a5 a6
  all_goals grind (ematch := 40) (gen := 40) (splits := 24) (ring := false) (linarith := false) (lia := false) (ac := false)
grind_pattern State.decodeAll_good => State.Good p (@State.decodeAll a0 a1 a2 a3 a4 a5 a6).2.2
grind_pattern State.decodeAll_good => @State.decodeAll a0 a1 a2 a3 a4 a5 a6, Anchor p
theorem State.tellPoison_good (a0 : State) (a1 : ℕ) (h0 : a0.Good p) : State.Good p (@State.tellPoison a0 a1) := by
  have anc : Anchor p := trivial
  unfold State.tellPoison
  grind (ematch := 40) (gen := 40) (splits := 24) (ring := false) (linarith := false) (lia := false) (ac := false)
grind_pattern State.tellPoison_good => State.Good p (@State.tellPoison a0 a1)
theorem State.setMark_good (a0 : State) (a1 : ℕ) (a2 : Mark) (h0 : a0.Good p) : State.Good p (@State.setMark a0 a1 a2) := by
  have anc : Anchor p := trivial
  unfold State.setMark
  grind (ematch := 40) (gen := 40) (splits := 24) (ring := false) (linarith := false) (lia := false) (ac := false)
grind_pattern State.setMark_good => State.Good p (@State.setMark a0 a1 a2)
theorem State.sectorLost_good (a0 : State) (a1 : ℕ) (a2 : ℕ) (a3 : Bool) (a4 : ℕ) (h0 : a0.Good p) : State.Good p (@State.sectorLost a0 a1 a2 a3 a4) := by
  have anc : Anchor p := trivial
  unfold State.sectorLost
  grind (ematch := 40) (gen := 40) (splits := 24) (ring := false) (linarith := false) (lia := false) (ac := false) [TRK_ECC.UE_CNT]
grind_pattern State.sectorLost_good => State.Good p (@State.sectorLost a0 a1 a2 a3 a4)
theorem State.sectorFixed_good (a0 : State) (a1 : ℕ) (a2 : ℕ) (a3 : Bool) (a4 : Bool) (a5 : Bool) (h0 : a0.Good p) : State.Good p (@State.sectorFixed a0 a1 a2 a3 a4 a5) := by
  have anc : Anchor p := trivial
  unfold State.sectorFixed
  grind (ematch := 40) (gen := 40) (splits := 24) (ring := false) (linarith := false) (lia := false) (ac := false) [TRK_ECC.CE_CNT, TRK_ECC.CB_CNT]
grind_pattern State.sectorFixed_good => State.Good p (@State.sectorFixed a0 a1 a2 a3 a4 a5)
theorem State.readSector_good (a0 : State) (a1 : ℕ) (a2 : ℕ) (a3 : List Seen) (h0 : a0.Good p) : State.Good p (@State.readSector a0 a1 a2 a3) := by
  have anc : Anchor p := trivial
  unfold State.readSector
  grind (ematch := 40) (gen := 40) (splits := 24) (ring := false) (linarith := false) (lia := false) (ac := false) [TRK_ECC.POISON_RD]
grind_pattern State.readSector_good => State.Good p (@State.readSector a0 a1 a2 a3)
theorem State.readTrunk_good (a0 : State) (a1 : ℕ) (a2 : Option ℕ) (a3 : ℕ) (a4 : ℕ) (h0 : a0.Good p) : State.Good p (@State.readTrunk a0 a1 a2 a3 a4) := by
  have anc : Anchor p := trivial
  unfold State.readTrunk
  grind (ematch := 40) (gen := 40) (splits := 24) (ring := false) (linarith := false) (lia := false) (ac := false)
grind_pattern State.readTrunk_good => State.Good p (@State.readTrunk a0 a1 a2 a3 a4)
theorem State.readTrunkOva_good (a0 : State) (a1 : ℕ) (a2 : ℕ) (a3 : ℕ) (a4 : ℕ) (h0 : a0.Good p) : State.Good p (@State.readTrunkOva a0 a1 a2 a3 a4) := by
  have anc : Anchor p := trivial
  unfold State.readTrunkOva
  grind (ematch := 40) (gen := 40) (splits := 24) (ring := false) (linarith := false) (lia := false) (ac := false)
grind_pattern State.readTrunkOva_good => State.Good p (@State.readTrunkOva a0 a1 a2 a3 a4)
theorem State.injectWrite_good (a0 : State) (a1 : ℕ) (a2 : ℕ) (h0 : a0.Good p) : State.Good p (@State.injectWrite a0 a1 a2) := by
  have anc : Anchor p := trivial
  unfold State.injectWrite
  grind (ematch := 40) (gen := 40) (splits := 24) (ring := false) (linarith := false) (lia := false) (ac := false) [FLT_INJ_CTL.ACTIVE]
grind_pattern State.injectWrite_good => State.Good p (@State.injectWrite a0 a1 a2)
theorem State.writeTrunk_good (a0 : State) (a1 : ℕ) (a2 : Option ℕ) (a3 : ℕ) (a4 : List Byte) (h0 : a0.Good p) : State.Good p (@State.writeTrunk a0 a1 a2 a3 a4) := by
  have anc : Anchor p := trivial
  unfold State.writeTrunk
  grind (ematch := 40) (gen := 40) (splits := 24) (ring := false) (linarith := false) (lia := false) (ac := false)
grind_pattern State.writeTrunk_good => State.Good p (@State.writeTrunk a0 a1 a2 a3 a4)
theorem State.setThr_good (a0 : State) (a1 : ℕ) (a2 : ℕ) (a3 : Thread) (h0 : a0.Good p) : State.Good p (@State.setThr a0 a1 a2 a3) := by
  have anc : Anchor p := trivial
  unfold State.setThr
  grind (ematch := 40) (gen := 40) (splits := 24) (ring := false) (linarith := false) (lia := false) (ac := false)
grind_pattern State.setThr_good => State.Good p (@State.setThr a0 a1 a2 a3)
theorem State.modThr_good (a0 : State) (a1 : ℕ) (a2 : ℕ) (a3 : Thread → Thread) (h0 : a0.Good p) : State.Good p (@State.modThr a0 a1 a2 a3) := by
  have anc : Anchor p := trivial
  unfold State.modThr
  grind (ematch := 40) (gen := 40) (splits := 24) (ring := false) (linarith := false) (lia := false) (ac := false)
grind_pattern State.modThr_good => State.Good p (@State.modThr a0 a1 a2 a3)
theorem State.trapAt_good (a0 : State) (a1 : ℕ) (a2 : ℕ) (a3 : ℕ) (a4 : Word) (a5 : ℕ) (a6 : ℕ) (a7 : Bool) (a8 : ℕ) (a9 : ℕ) (h0 : a0.Good p) : State.Good p (@State.trapAt a0 a1 a2 a3 a4 a5 a6 a7 a8 a9) := by
  have anc : Anchor p := trivial
  unfold State.trapAt
  grind (ematch := 40) (gen := 40) (splits := 24) (ring := false) (linarith := false) (lia := false) (ac := false) [PRT_CNP_WIN.STARVE_CNT]
grind_pattern State.trapAt_good => State.Good p (@State.trapAt a0 a1 a2 a3 a4 a5 a6 a7 a8 a9)
theorem State.trap_good (a0 : State) (a1 : ℕ) (a2 : ℕ) (a3 : ℕ) (a4 : Word) (h0 : a0.Good p) : State.Good p (@State.trap a0 a1 a2 a3 a4) := by
  have anc : Anchor p := trivial
  unfold State.trap
  grind (ematch := 40) (gen := 40) (splits := 24) (ring := false) (linarith := false) (lia := false) (ac := false)
grind_pattern State.trap_good => State.Good p (@State.trap a0 a1 a2 a3 a4)
theorem State.advance_good (a0 : State) (a1 : ℕ) (a2 : ℕ) (h0 : a0.Good p) : State.Good p (@State.advance a0 a1 a2) := by
  have anc : Anchor p := trivial
  unfold State.advance
  grind (ematch := 40) (gen := 40) (splits := 24) (ring := false) (linarith := false) (lia := false) (ac := false)
grind_pattern State.advance_good => State.Good p (@State.advance a0 a1 a2)
theorem State.setCMark_good (a0 : State) (a1 : ℕ) (a2 : ℕ) (a3 : Mark) (h0 : a0.Good p) : State.Good p (@State.setCMark a0 a1 a2 a3) := by
  have anc : Anchor p := trivial
  unfold State.setCMark
  grind (ematch := 40) (gen := 40) (splits := 24) (ring := false) (linarith := false) (lia := false) (ac := false)
grind_pattern State.setCMark_good => State.Good p (@State.setCMark a0 a1 a2 a3)
theorem State.coreBucket_good (a0 : State) (a1 : ℕ) (a2 : Bool) (h0 : a0.Good p) : State.Good p (@State.coreBucket a0 a1 a2) := by
  have anc : Anchor p := trivial
  unfold State.coreBucket
  grind (ematch := 40) (gen := 40) (splits := 24) (ring := false) (linarith := false) (lia := false) (ac := false)
grind_pattern State.coreBucket_good => State.Good p (@State.coreBucket a0 a1 a2)
theorem State.canopyCe_good (a0 : State) (a1 : ℕ) (a2 : ℕ) (a3 : Bool) (a4 : Bool) (h0 : a0.Good p) : State.Good p (@State.canopyCe a0 a1 a2 a3 a4) := by
  have anc : Anchor p := trivial
  unfold State.canopyCe
  grind (ematch := 40) (gen := 40) (splits := 24) (ring := false) (linarith := false) (lia := false) (ac := false) [PRT_CNP_ECC.CE_CNT, PRT_CNP_ECC.CB_CNT]
grind_pattern State.canopyCe_good => State.Good p (@State.canopyCe a0 a1 a2 a3 a4)
theorem State.canopyUe_good (a0 : State) (a1 : ℕ) (a2 : ℕ) (a3 : Bool) (h0 : a0.Good p) : State.Good p (@State.canopyUe a0 a1 a2 a3) := by
  have anc : Anchor p := trivial
  unfold State.canopyUe
  grind (ematch := 40) (gen := 40) (splits := 24) (ring := false) (linarith := false) (lia := false) (ac := false) [PRT_CNP_ECC.UE_CNT]
grind_pattern State.canopyUe_good => State.Good p (@State.canopyUe a0 a1 a2 a3)
theorem State.trapWord_good (a0 : State) (a1 : ℕ) (a2 : ℕ) (a3 : ℕ) (h0 : a0.Good p) : State.Good p (@State.trapWord a0 a1 a2 a3) := by
  have anc : Anchor p := trivial
  unfold State.trapWord
  grind (ematch := 40) (gen := 40) (splits := 24) (ring := false) (linarith := false) (lia := false) (ac := false)
grind_pattern State.trapWord_good => State.Good p (@State.trapWord a0 a1 a2 a3)
theorem State.writeMark_good (a0 : State) (a1 : ℕ) (a2 : ℕ) (a3 : Bool) (h0 : a0.Good p) : State.Good p (@State.writeMark a0 a1 a2 a3) := by
  have anc : Anchor p := trivial
  unfold State.writeMark
  grind (ematch := 40) (gen := 40) (splits := 24) (ring := false) (linarith := false) (lia := false) (ac := false)
grind_pattern State.writeMark_good => State.Good p (@State.writeMark a0 a1 a2 a3)
theorem State.flushBuf_good (a0 : State) (a1 : ℕ) (a2 : ℕ) (h0 : a0.Good p) : State.Good p (@State.flushBuf a0 a1 a2) := by
  have anc : Anchor p := trivial
  unfold State.flushBuf
  grind (ematch := 40) (gen := 40) (splits := 24) (ring := false) (linarith := false) (lia := false) (ac := false)
grind_pattern State.flushBuf_good => State.Good p (@State.flushBuf a0 a1 a2)
theorem State.endBuf_good (a0 : State) (a1 : ℕ) (a2 : ℕ) (h0 : a0.Good p) : State.Good p (@State.endBuf a0 a1 a2) := by
  have anc : Anchor p := trivial
  unfold State.endBuf
  grind (ematch := 40) (gen := 40) (splits := 24) (ring := false) (linarith := false) (lia := false) (ac := false)
grind_pattern State.endBuf_good => State.Good p (@State.endBuf a0 a1 a2)
theorem State.flushRange_good (a0 : State) (a1 : ℕ) (a2 : ℕ) (a3 : ℕ) (h0 : a0.Good p) : State.Good p (@State.flushRange a0 a1 a2 a3) := by
  have anc : Anchor p := trivial
  unfold State.flushRange
  grind (ematch := 40) (gen := 40) (splits := 24) (ring := false) (linarith := false) (lia := false) (ac := false)
grind_pattern State.flushRange_good => State.Good p (@State.flushRange a0 a1 a2 a3)
theorem State.dropCopies_good (a0 : State) (a1 : ℕ) (a2 : ℕ) (a3 : ℕ) (h0 : a0.Good p) : State.Good p (@State.dropCopies a0 a1 a2 a3) := by
  have anc : Anchor p := trivial
  unfold State.dropCopies
  grind (ematch := 40) (gen := 40) (splits := 24) (ring := false) (linarith := false) (lia := false) (ac := false)
grind_pattern State.dropCopies_good => State.Good p (@State.dropCopies a0 a1 a2 a3)
theorem State.checkWord_good (a0 : State) (a1 : ℕ) (a2 : ℕ) (h0 : a0.Good p) (_anc : Anchor p) : State.Good p (@State.checkWord a0 a1 a2).2 := by
  have anc : Anchor p := trivial
  unfold State.checkWord
  grind (ematch := 40) (gen := 40) (splits := 24) (ring := false) (linarith := false) (lia := false) (ac := false)
grind_pattern State.checkWord_good => State.Good p (@State.checkWord a0 a1 a2).2
grind_pattern State.checkWord_good => @State.checkWord a0 a1 a2, Anchor p
theorem State.checkWords_good (a0 : State) (a1 : ℕ) (a2 : List ℕ) (h0 : a0.Good p) (_anc : Anchor p) : State.Good p (@State.checkWords a0 a1 a2).2 := by
  have anc : Anchor p := trivial
  fun_induction State.checkWords a0 a1 a2
  all_goals grind (ematch := 40) (gen := 40) (splits := 24) (ring := false) (linarith := false) (lia := false) (ac := false)
grind_pattern State.checkWords_good => State.Good p (@State.checkWords a0 a1 a2).2
grind_pattern State.checkWords_good => @State.checkWords a0 a1 a2, Anchor p
theorem State.checkAll_good (a0 : State) (a1 : ℕ) (a2 : List ℕ) (h0 : a0.Good p) (_anc : Anchor p) : State.Good p (@State.checkAll a0 a1 a2).2 := by
  have anc : Anchor p := trivial
  fun_induction State.checkAll a0 a1 a2
  all_goals grind (ematch := 40) (gen := 40) (splits := 24) (ring := false) (linarith := false) (lia := false) (ac := false)
grind_pattern State.checkAll_good => State.Good p (@State.checkAll a0 a1 a2).2
grind_pattern State.checkAll_good => @State.checkAll a0 a1 a2, Anchor p
theorem State.cRead_good (a0 : State) (a1 : ℕ) (a2 : ℕ) (a3 : ℕ) (h0 : a0.Good p) (_anc : Anchor p) : State.Good p (@State.cRead a0 a1 a2 a3).2 := by
  have anc : Anchor p := trivial
  unfold State.cRead
  grind (ematch := 40) (gen := 40) (splits := 24) (ring := false) (linarith := false) (lia := false) (ac := false)
grind_pattern State.cRead_good => State.Good p (@State.cRead a0 a1 a2 a3).2
grind_pattern State.cRead_good => @State.cRead a0 a1 a2 a3, Anchor p
theorem State.readBuf_good (a0 : State) (a1 : ℕ) (a2 : ℕ) (a3 : ℕ) (a4 : List ℕ) (h0 : a0.Good p) (_anc : Anchor p) : State.Good p (@State.readBuf a0 a1 a2 a3 a4).2 := by
  have anc : Anchor p := trivial
  unfold State.readBuf
  grind (ematch := 40) (gen := 40) (splits := 24) (ring := false) (linarith := false) (lia := false) (ac := false)
grind_pattern State.readBuf_good => State.Good p (@State.readBuf a0 a1 a2 a3 a4).2
grind_pattern State.readBuf_good => @State.readBuf a0 a1 a2 a3 a4, Anchor p
theorem State.readBufs_good (a0 : State) (a1 : ℕ) (a2 : ℕ) (a3 : List (ℕ × List ℕ)) (h0 : a0.Good p) (_anc : Anchor p) : State.Good p (@State.readBufs a0 a1 a2 a3).2 := by
  have anc : Anchor p := trivial
  fun_induction State.readBufs a0 a1 a2 a3
  all_goals grind (ematch := 40) (gen := 40) (splits := 24) (ring := false) (linarith := false) (lia := false) (ac := false)
grind_pattern State.readBufs_good => State.Good p (@State.readBufs a0 a1 a2 a3).2
grind_pattern State.readBufs_good => @State.readBufs a0 a1 a2 a3, Anchor p
theorem State.portRead_good (a0 : State) (a1 : ℕ) (a2 : ℕ) (a3 : ℕ) (a4 : ℕ) (h0 : a0.Good p) (_anc : Anchor p) : State.Good p (@State.portRead a0 a1 a2 a3 a4).2 := by
  have anc : Anchor p := trivial
  unfold State.portRead
  grind (ematch := 40) (gen := 40) (splits := 24) (ring := false) (linarith := false) (lia := false) (ac := false)
grind_pattern State.portRead_good => State.Good p (@State.portRead a0 a1 a2 a3 a4).2
grind_pattern State.portRead_good => @State.portRead a0 a1 a2 a3 a4, Anchor p
theorem State.cWrite_good (a0 : State) (a1 : ℕ) (a2 : ℕ) (a3 : List Byte) (h0 : a0.Good p) : State.Good p (@State.cWrite a0 a1 a2 a3) := by
  have anc : Anchor p := trivial
  unfold State.cWrite
  grind (ematch := 40) (gen := 40) (splits := 24) (ring := false) (linarith := false) (lia := false) (ac := false)
grind_pattern State.cWrite_good => State.Good p (@State.cWrite a0 a1 a2 a3)
theorem State.gatherPiece_good (a0 : State) (a1 : ℕ) (a2 : ℕ) (a3 : ℕ) (a4 : List Byte) (h0 : a0.Good p) : State.Good p (@State.gatherPiece a0 a1 a2 a3 a4) := by
  have anc : Anchor p := trivial
  unfold State.gatherPiece
  grind (ematch := 40) (gen := 40) (splits := 24) (ring := false) (linarith := false) (lia := false) (ac := false)
grind_pattern State.gatherPiece_good => State.Good p (@State.gatherPiece a0 a1 a2 a3 a4)
theorem State.engWrite_good (a0 : State) (a1 : ℕ) (a2 : ℕ) (a3 : ℕ) (a4 : ℕ) (a5 : List Byte) (h0 : a0.Good p) : State.Good p (@State.engWrite a0 a1 a2 a3 a4 a5) := by
  have anc : Anchor p := trivial
  fun_induction State.engWrite a0 a1 a2 a3 a4 a5
  all_goals grind (ematch := 40) (gen := 40) (splits := 24) (ring := false) (linarith := false) (lia := false) (ac := false)
grind_pattern State.engWrite_good => State.Good p (@State.engWrite a0 a1 a2 a3 a4 a5)
theorem State.portWrite_good (a0 : State) (a1 : ℕ) (a2 : ℕ) (a3 : ℕ) (a4 : List Byte) (h0 : a0.Good p) : State.Good p (@State.portWrite a0 a1 a2 a3 a4) := by
  have anc : Anchor p := trivial
  unfold State.portWrite
  grind (ematch := 40) (gen := 40) (splits := 24) (ring := false) (linarith := false) (lia := false) (ac := false)
grind_pattern State.portWrite_good => State.Good p (@State.portWrite a0 a1 a2 a3 a4)
theorem State.setCell_good (a0 : State) (a1 : ℕ) (a2 : ℕ) (a3 : Cell) (h0 : a0.Good p) : State.Good p (@State.setCell a0 a1 a2 a3) := by
  have anc : Anchor p := trivial
  unfold State.setCell
  grind (ematch := 40) (gen := 40) (splits := 24) (ring := false) (linarith := false) (lia := false) (ac := false)
grind_pattern State.setCell_good => State.Good p (@State.setCell a0 a1 a2 a3)
theorem State.setTag_good (a0 : State) (a1 : ℕ) (a2 : ℕ) (a3 : Bool) (h0 : a0.Good p) : State.Good p (@State.setTag a0 a1 a2 a3) := by
  have anc : Anchor p := trivial
  unfold State.setTag
  grind (ematch := 40) (gen := 40) (splits := 24) (ring := false) (linarith := false) (lia := false) (ac := false)
grind_pattern State.setTag_good => State.Good p (@State.setTag a0 a1 a2 a3)
theorem State.storeCe_good (a0 : State) (a1 : ℕ) (a2 : ℕ) (a3 : ℕ) (a4 : Bool) (a5 : Bool) (h0 : a0.Good p) : State.Good p (@State.storeCe a0 a1 a2 a3 a4 a5) := by
  have anc : Anchor p := trivial
  unfold State.storeCe
  grind (ematch := 40) (gen := 40) (splits := 24) (ring := false) (linarith := false) (lia := false) (ac := false)
grind_pattern State.storeCe_good => State.Good p (@State.storeCe a0 a1 a2 a3 a4 a5)
theorem State.storeEcc_good (a0 : State) (a1 : ℕ) (a2 : ℕ) (a3 : ℕ) (a4 : Bool) (h0 : a0.Good p) : State.Good p (@State.storeEcc a0 a1 a2 a3 a4) := by
  have anc : Anchor p := trivial
  unfold State.storeEcc
  grind (ematch := 40) (gen := 40) (splits := 24) (ring := false) (linarith := false) (lia := false) (ac := false)
grind_pattern State.storeEcc_good => State.Good p (@State.storeEcc a0 a1 a2 a3 a4)
theorem State.fetchCheck_good (a0 : State) (a1 : ℕ) (a2 : ℕ) (h0 : a0.Good p) (_anc : Anchor p) : State.Good p (@State.fetchCheck a0 a1 a2).2 := by
  have anc : Anchor p := trivial
  unfold State.fetchCheck
  grind (ematch := 40) (gen := 40) (splits := 24) (ring := false) (linarith := false) (lia := false) (ac := false)
grind_pattern State.fetchCheck_good => State.Good p (@State.fetchCheck a0 a1 a2).2
grind_pattern State.fetchCheck_good => @State.fetchCheck a0 a1 a2, Anchor p
theorem State.readCheck_good (a0 : State) (a1 : ℕ) (a2 : ℕ) (a3 : List ℕ) (h0 : a0.Good p) (_anc : Anchor p) : State.Good p (@State.readCheck a0 a1 a2 a3).2 := by
  have anc : Anchor p := trivial
  fun_induction State.readCheck a0 a1 a2 a3
  all_goals grind (ematch := 40) (gen := 40) (splits := 24) (ring := false) (linarith := false) (lia := false) (ac := false)
grind_pattern State.readCheck_good => State.Good p (@State.readCheck a0 a1 a2 a3).2
grind_pattern State.readCheck_good => @State.readCheck a0 a1 a2 a3, Anchor p
theorem State.issue_good (a0 : State) (a1 : ℕ) (a2 : ℕ) (a3 : ℕ) (a4 : Word → State → State) (h0 : a0.Good p) (h4 : ∀ (b0 : Word) (b1 : State), b1.Good p → State.Good p (a4 b0 b1)) : State.Good p (@State.issue a0 a1 a2 a3 a4) := by
  have anc : Anchor p := trivial
  unfold State.issue
  grind (ematch := 40) (gen := 40) (splits := 24) (ring := false) (linarith := false) (lia := false) (ac := false)
grind_pattern State.issue_good => State.Good p (@State.issue a0 a1 a2 a3 a4)

end Sys2Proof.Machine
end

