-- ==== Sys2Proof/Laws/GoodEngines.lean ====
section
/-! SUPPORT. The canonical form of a state: what the engines and the rings keep. -/

namespace Sys2Proof.Machine

-- One theorem at a time: each thread takes a stack of its own.
set_option Elab.async false

variable {p : List Instr}

theorem State.modOp_good (a0 : State) (a1 : ℕ) (a2 : ℕ) (a3 : Op → Op) (h0 : a0.Good p) : State.Good p (@State.modOp a0 a1 a2 a3) := by
  have anc : Anchor p := trivial
  unfold State.modOp
  grind (ematch := 40) (gen := 40) (splits := 24) (ring := false) (linarith := false) (lia := false) (ac := false)
grind_pattern State.modOp_good => State.Good p (@State.modOp a0 a1 a2 a3)
theorem State.noteTurns_good (a0 : State) (a1 : ℕ) (h0 : a0.Good p) : State.Good p (@State.noteTurns a0 a1) := by
  have anc : Anchor p := trivial
  unfold State.noteTurns
  grind (ematch := 40) (gen := 40) (splits := 24) (ring := false) (linarith := false) (lia := false) (ac := false)
grind_pattern State.noteTurns_good => State.Good p (@State.noteTurns a0 a1)
theorem State.clearIfQuiet_good (a0 : State) (a1 : ℕ) (h0 : a0.Good p) : State.Good p (@State.clearIfQuiet a0 a1) := by
  have anc : Anchor p := trivial
  unfold State.clearIfQuiet
  grind (ematch := 40) (gen := 40) (splits := 24) (ring := false) (linarith := false) (lia := false) (ac := false) [PRT_CNP_STATUS.WIN_OPEN, PRT_CNP_STATUS.CLEAR_BUSY]
grind_pattern State.clearIfQuiet_good => State.Good p (@State.clearIfQuiet a0 a1)
theorem State.startClear_good (a0 : State) (a1 : ℕ) (a2 : Bool) (h0 : a0.Good p) : State.Good p (@State.startClear a0 a1 a2) := by
  have anc : Anchor p := trivial
  unfold State.startClear
  grind (ematch := 40) (gen := 40) (splits := 24) (ring := false) (linarith := false) (lia := false) (ac := false)
grind_pattern State.startClear_good => State.Good p (@State.startClear a0 a1 a2)
theorem State.dropOp_good (a0 : State) (a1 : ℕ) (a2 : ℕ) (h0 : a0.Good p) : State.Good p (@State.dropOp a0 a1 a2) := by
  have anc : Anchor p := trivial
  unfold State.dropOp
  grind (ematch := 40) (gen := 40) (splits := 24) (ring := false) (linarith := false) (lia := false) (ac := false)
grind_pattern State.dropOp_good => State.Good p (@State.dropOp a0 a1 a2)
theorem State.markUnordered_good (a0 : State) (a1 : ℕ) (a2 : ℕ) (h0 : a0.Good p) : State.Good p (@State.markUnordered a0 a1 a2) := by
  have anc : Anchor p := trivial
  unfold State.markUnordered
  grind (ematch := 40) (gen := 40) (splits := 24) (ring := false) (linarith := false) (lia := false) (ac := false) [PRT_RADD_STATUS.RADD_UNORDERED, PRT_RADD_STATUS.UNORD_CNT]
grind_pattern State.markUnordered_good => State.Good p (@State.markUnordered a0 a1 a2)
theorem State.enqueue_good (a0 : State) (a1 : ℕ) (a2 : ℕ) (a3 : Word) (h0 : a0.Good p) : State.Good p (@State.enqueue a0 a1 a2 a3) := by
  have anc : Anchor p := trivial
  unfold State.enqueue
  grind (ematch := 40) (gen := 40) (splits := 24) (ring := false) (linarith := false) (lia := false) (ac := false)
grind_pattern State.enqueue_good => State.Good p (@State.enqueue a0 a1 a2 a3)
theorem execQueueEntryFree_good (a0 : Lcid) (a1 : TSlot) (a2 : State) (h2 : a2.Good p) : OutGood p (@execQueueEntryFree a0 a1 a2) := by
  have anc : Anchor p := trivial
  unfold execQueueEntryFree
  grind (ematch := 40) (gen := 40) (splits := 24) (ring := false) (linarith := false) (lia := false) (ac := false)
grind_pattern execQueueEntryFree_good => OutGood p (@execQueueEntryFree a0 a1 a2)
theorem State.engFault_good (a0 : State) (a1 : ℕ) (a2 : Op) (a3 : Fail) (h0 : a0.Good p) : State.Good p (@State.engFault a0 a1 a2 a3) := by
  have anc : Anchor p := trivial
  unfold State.engFault
  grind (ematch := 40) (gen := 40) (splits := 24) (ring := false) (linarith := false) (lia := false) (ac := false)
grind_pattern State.engFault_good => State.Good p (@State.engFault a0 a1 a2 a3)
theorem execEngineFaultReport_good (a0 : Lcid) (a1 : State) (h1 : a1.Good p) : OutGood p (@execEngineFaultReport a0 a1) := by
  have anc : Anchor p := trivial
  unfold execEngineFaultReport
  grind (ematch := 40) (gen := 40) (splits := 24) (ring := false) (linarith := false) (lia := false) (ac := false)
grind_pattern execEngineFaultReport_good => OutGood p (@execEngineFaultReport a0 a1)
theorem State.finishCell_good (a0 : State) (a1 : ℕ) (a2 : ℕ) (a3 : Bool) (h0 : a0.Good p) : State.Good p (@State.finishCell a0 a1 a2 a3) := by
  have anc : Anchor p := trivial
  unfold State.finishCell
  grind (ematch := 40) (gen := 40) (splits := 24) (ring := false) (linarith := false) (lia := false) (ac := false)
grind_pattern State.finishCell_good => State.Good p (@State.finishCell a0 a1 a2 a3)
theorem State.abandonCell_good (a0 : State) (a1 : ℕ) (a2 : ℕ) (h0 : a0.Good p) : State.Good p (@State.abandonCell a0 a1 a2) := by
  have anc : Anchor p := trivial
  unfold State.abandonCell
  grind (ematch := 40) (gen := 40) (splits := 24) (ring := false) (linarith := false) (lia := false) (ac := false)
grind_pattern State.abandonCell_good => State.Good p (@State.abandonCell a0 a1 a2)
theorem State.abandonOp_good (a0 : State) (a1 : ℕ) (a2 : Op) (h0 : a0.Good p) : State.Good p (@State.abandonOp a0 a1 a2) := by
  have anc : Anchor p := trivial
  unfold State.abandonOp
  grind (ematch := 40) (gen := 40) (splits := 24) (ring := false) (linarith := false) (lia := false) (ac := false)
grind_pattern State.abandonOp_good => State.Good p (@State.abandonOp a0 a1 a2)
theorem State.flushOp_good (a0 : State) (a1 : ℕ) (a2 : Op) (h0 : a0.Good p) : State.Good p (@State.flushOp a0 a1 a2) := by
  have anc : Anchor p := trivial
  unfold State.flushOp
  grind (ematch := 40) (gen := 40) (splits := 24) (ring := false) (linarith := false) (lia := false) (ac := false)
grind_pattern State.flushOp_good => State.Good p (@State.flushOp a0 a1 a2)
theorem State.failOp_good (a0 : State) (a1 : ℕ) (a2 : Op) (a3 : Fail) (h0 : a0.Good p) : State.Good p (@State.failOp a0 a1 a2 a3) := by
  have anc : Anchor p := trivial
  unfold State.failOp
  grind (ematch := 40) (gen := 40) (splits := 24) (ring := false) (linarith := false) (lia := false) (ac := false)
grind_pattern State.failOp_good => State.Good p (@State.failOp a0 a1 a2 a3)
theorem State.endOp_good (a0 : State) (a1 : ℕ) (a2 : Op) (h0 : a0.Good p) : State.Good p (@State.endOp a0 a1 a2) := by
  have anc : Anchor p := trivial
  unfold State.endOp
  grind (ematch := 40) (gen := 40) (splits := 24) (ring := false) (linarith := false) (lia := false) (ac := false)
grind_pattern State.endOp_good => State.Good p (@State.endOp a0 a1 a2)
theorem execEngineClaimGrant_good (a0 : Lcid) (a1 : ℕ) (a2 : State) (h2 : a2.Good p) : OutGood p (@execEngineClaimGrant a0 a1 a2) := by
  have anc : Anchor p := trivial
  unfold execEngineClaimGrant
  grind (ematch := 40) (gen := 40) (splits := 24) (ring := false) (linarith := false) (lia := false) (ac := false)
grind_pattern execEngineClaimGrant_good => OutGood p (@execEngineClaimGrant a0 a1 a2)
theorem State.matchWin_good (a0 : State) (a1 : ℕ) (a2 : ℕ) (a3 : ℕ) (a4 : ℕ) (a5 : ℕ) (a6 : ℕ) (h0 : a0.Good p) (_anc : Anchor p) : State.Good p (@State.matchWin a0 a1 a2 a3 a4 a5 a6).2 := by
  have anc : Anchor p := trivial
  unfold State.matchWin
  grind (ematch := 40) (gen := 40) (splits := 24) (ring := false) (linarith := false) (lia := false) (ac := false) [PRT_CNP_STATUS.CLEAR_BUSY, PRT_CNP_WIN.REFUSED, PRT_CNP_WIN.MULTI_HIT]
grind_pattern State.matchWin_good => State.Good p (@State.matchWin a0 a1 a2 a3 a4 a5 a6).2
grind_pattern State.matchWin_good => @State.matchWin a0 a1 a2 a3 a4 a5 a6, Anchor p
theorem State.admitOva_good (a0 : State) (a1 : ℕ) (a2 : ℕ) (a3 : ℕ) (a4 : ℕ) (h0 : a0.Good p) (_anc : Anchor p) : State.Good p (@State.admitOva a0 a1 a2 a3 a4).2 := by
  have anc : Anchor p := trivial
  unfold State.admitOva
  grind (ematch := 40) (gen := 40) (splits := 24) (ring := false) (linarith := false) (lia := false) (ac := false)
grind_pattern State.admitOva_good => State.Good p (@State.admitOva a0 a1 a2 a3 a4).2
grind_pattern State.admitOva_good => @State.admitOva a0 a1 a2 a3 a4, Anchor p
theorem State.readPiece_good (a0 : State) (a1 : ℕ) (a2 : ℕ) (a3 : ℕ) (a4 : ℕ) (h0 : a0.Good p) (_anc : Anchor p) : State.Good p (@State.readPiece a0 a1 a2 a3 a4).2 := by
  have anc : Anchor p := trivial
  unfold State.readPiece
  grind (ematch := 40) (gen := 40) (splits := 24) (ring := false) (linarith := false) (lia := false) (ac := false)
grind_pattern State.readPiece_good => State.Good p (@State.readPiece a0 a1 a2 a3 a4).2
grind_pattern State.readPiece_good => @State.readPiece a0 a1 a2 a3 a4, Anchor p
theorem State.readPieces_good (a0 : State) (a1 : ℕ) (a2 : ℕ) (a3 : List (ℕ × ℕ)) (h0 : a0.Good p) (_anc : Anchor p) : State.Good p (@State.readPieces a0 a1 a2 a3).2 := by
  have anc : Anchor p := trivial
  fun_induction State.readPieces a0 a1 a2 a3
  all_goals grind (ematch := 40) (gen := 40) (splits := 24) (ring := false) (linarith := false) (lia := false) (ac := false)
grind_pattern State.readPieces_good => State.Good p (@State.readPieces a0 a1 a2 a3).2
grind_pattern State.readPieces_good => @State.readPieces a0 a1 a2 a3, Anchor p
theorem State.readBlock_good (a0 : State) (a1 : ℕ) (a2 : ℕ) (a3 : ℕ) (a4 : ℕ) (h0 : a0.Good p) (_anc : Anchor p) : State.Good p (@State.readBlock a0 a1 a2 a3 a4).2 := by
  have anc : Anchor p := trivial
  unfold State.readBlock
  grind (ematch := 40) (gen := 40) (splits := 24) (ring := false) (linarith := false) (lia := false) (ac := false)
grind_pattern State.readBlock_good => State.Good p (@State.readBlock a0 a1 a2 a3 a4).2
grind_pattern State.readBlock_good => @State.readBlock a0 a1 a2 a3 a4, Anchor p
theorem State.writePiece_good (a0 : State) (a1 : ℕ) (a2 : ℕ) (a3 : ℕ) (a4 : List Byte) (h0 : a0.Good p) (_anc : Anchor p) : State.Good p (@State.writePiece a0 a1 a2 a3 a4).2 := by
  have anc : Anchor p := trivial
  unfold State.writePiece
  grind (ematch := 40) (gen := 40) (splits := 24) (ring := false) (linarith := false) (lia := false) (ac := false)
grind_pattern State.writePiece_good => State.Good p (@State.writePiece a0 a1 a2 a3 a4).2
grind_pattern State.writePiece_good => @State.writePiece a0 a1 a2 a3 a4, Anchor p
theorem State.writeBlock_good (a0 : State) (a1 : ℕ) (a2 : ℕ) (a3 : ℕ) (a4 : List Byte) (h0 : a0.Good p) (_anc : Anchor p) : State.Good p (@State.writeBlock a0 a1 a2 a3 a4).2 := by
  have anc : Anchor p := trivial
  unfold State.writeBlock
  grind (ematch := 40) (gen := 40) (splits := 24) (ring := false) (linarith := false) (lia := false) (ac := false)
grind_pattern State.writeBlock_good => State.Good p (@State.writeBlock a0 a1 a2 a3 a4).2
grind_pattern State.writeBlock_good => @State.writeBlock a0 a1 a2 a3 a4, Anchor p
theorem execTload_good (a0 : Lcid) (a1 : TSlot) (a2 : State) (h2 : a2.Good p) : OutGood p (@execTload a0 a1 a2) := by
  have anc : Anchor p := trivial
  unfold execTload
  grind (ematch := 40) (gen := 40) (splits := 24) (ring := false) (linarith := false) (lia := false) (ac := false)
grind_pattern execTload_good => OutGood p (@execTload a0 a1 a2)
theorem execTstore_good (a0 : Lcid) (a1 : TSlot) (a2 : State) (h2 : a2.Good p) : OutGood p (@execTstore a0 a1 a2) := by
  have anc : Anchor p := trivial
  unfold execTstore
  grind (ematch := 40) (gen := 40) (splits := 24) (ring := false) (linarith := false) (lia := false) (ac := false)
grind_pattern execTstore_good => OutGood p (@execTstore a0 a1 a2)
theorem execTscat_good (a0 : Lcid) (a1 : TSlot) (a2 : State) (h2 : a2.Good p) : OutGood p (@execTscat a0 a1 a2) := by
  have anc : Anchor p := trivial
  unfold execTscat
  grind (ematch := 40) (gen := 40) (splits := 24) (ring := false) (linarith := false) (lia := false) (ac := false)
grind_pattern execTscat_good => OutGood p (@execTscat a0 a1 a2)
theorem execTgath_good (a0 : Lcid) (a1 : TSlot) (a2 : State) (h2 : a2.Good p) : OutGood p (@execTgath a0 a1 a2) := by
  have anc : Anchor p := trivial
  unfold execTgath
  grind (ematch := 40) (gen := 40) (splits := 24) (ring := false) (linarith := false) (lia := false) (ac := false)
grind_pattern execTgath_good => OutGood p (@execTgath a0 a1 a2)
theorem execRput_good (a0 : Lcid) (a1 : TSlot) (a2 : State) (h2 : a2.Good p) : OutGood p (@execRput a0 a1 a2) := by
  have anc : Anchor p := trivial
  unfold execRput
  grind (ematch := 40) (gen := 40) (splits := 24) (ring := false) (linarith := false) (lia := false) (ac := false)
grind_pattern execRput_good => OutGood p (@execRput a0 a1 a2)
theorem execRadd_good (a0 : Lcid) (a1 : TSlot) (a2 : State) (h2 : a2.Good p) : OutGood p (@execRadd a0 a1 a2) := by
  have anc : Anchor p := trivial
  unfold execRadd
  grind (ematch := 40) (gen := 40) (splits := 24) (ring := false) (linarith := false) (lia := false) (ac := false)
grind_pattern execRadd_good => OutGood p (@execRadd a0 a1 a2)
theorem State.startOp_good (a0 : State) (a1 : ℕ) (a2 : Op) (h0 : a0.Good p) (_anc : Anchor p) : State.Good p (@State.startOp a0 a1 a2).2 := by
  have anc : Anchor p := trivial
  unfold State.startOp
  grind (ematch := 40) (gen := 40) (splits := 24) (ring := false) (linarith := false) (lia := false) (ac := false)
grind_pattern State.startOp_good => State.Good p (@State.startOp a0 a1 a2).2
grind_pattern State.startOp_good => @State.startOp a0 a1 a2, Anchor p
theorem State.holdOp_good (a0 : State) (a1 : ℕ) (a2 : Op) (a3 : ℕ) (a4 : ℕ) (a5 : State → State) (h0 : a0.Good p) (h5 : ∀ (b0 : State), b0.Good p → State.Good p (a5 b0)) : State.Good p (@State.holdOp a0 a1 a2 a3 a4 a5) := by
  have anc : Anchor p := trivial
  unfold State.holdOp
  grind (ematch := 40) (gen := 40) (splits := 24) (ring := false) (linarith := false) (lia := false) (ac := false)
grind_pattern State.holdOp_good => State.Good p (@State.holdOp a0 a1 a2 a3 a4 a5)
theorem State.kvHold_good (a0 : State) (a1 : ℕ) (a2 : Op) (a3 : ℕ) (a4 : ℕ) (a5 : ℕ) (h0 : a0.Good p) : State.Good p (@State.kvHold a0 a1 a2 a3 a4 a5) := by
  have anc : Anchor p := trivial
  unfold State.kvHold
  grind (ematch := 40) (gen := 40) (splits := 24) (ring := false) (linarith := false) (lia := false) (ac := false) [PRT_KV_ATT.KV_WAITS]
grind_pattern State.kvHold_good => State.Good p (@State.kvHold a0 a1 a2 a3 a4 a5)
theorem State.rootHold_good (a0 : State) (a1 : ℕ) (a2 : Op) (a3 : ℕ) (a4 : ℕ) (a5 : ℕ) (h0 : a0.Good p) : State.Good p (@State.rootHold a0 a1 a2 a3 a4 a5) := by
  have anc : Anchor p := trivial
  unfold State.rootHold
  grind (ematch := 40) (gen := 40) (splits := 24) (ring := false) (linarith := false) (lia := false) (ac := false)
grind_pattern State.rootHold_good => State.Good p (@State.rootHold a0 a1 a2 a3 a4 a5)
theorem State.admitOp_good (a0 : State) (a1 : ℕ) (a2 : Op) (a3 : ℕ) (a4 : ℕ) (h0 : a0.Good p) (_anc : Anchor p) : State.Good p (@State.admitOp a0 a1 a2 a3 a4).2 := by
  have anc : Anchor p := trivial
  unfold State.admitOp
  grind (ematch := 40) (gen := 40) (splits := 24) (ring := false) (linarith := false) (lia := false) (ac := false)
grind_pattern State.admitOp_good => State.Good p (@State.admitOp a0 a1 a2 a3 a4).2
grind_pattern State.admitOp_good => @State.admitOp a0 a1 a2 a3 a4, Anchor p
theorem State.loadBlocks_good (a0 : State) (a1 : ℕ) (a2 : Op) (a3 : ℕ) (a4 : ℕ) (a5 : ℕ) (h0 : a0.Good p) (_anc : Anchor p) : State.Good p (@State.loadBlocks a0 a1 a2 a3 a4 a5).2 := by
  have anc : Anchor p := trivial
  fun_induction State.loadBlocks a0 a1 a2 a3 a4 a5
  all_goals grind (ematch := 40) (gen := 40) (splits := 24) (ring := false) (linarith := false) (lia := false) (ac := false)
grind_pattern State.loadBlocks_good => State.Good p (@State.loadBlocks a0 a1 a2 a3 a4 a5).2
grind_pattern State.loadBlocks_good => @State.loadBlocks a0 a1 a2 a3 a4 a5, Anchor p
theorem State.storeBlocks_good (a0 : State) (c : ℕ) (o : Op) (b n j : ℕ) (h0 : a0.Good p) : State.Good p (a0.storeBlocks c o b n j).2 := by
  have anc : Anchor p := trivial
  induction n generalizing a0 j with
  | zero => exact h0
  | succ n ih =>
    unfold State.storeBlocks
    dsimp only
    split
    · exact State.holdOp_good _ _ _ _ _ _ h0 (fun s h => h)
    split
    · exact State.holdOp_good _ _ _ _ _ _ h0 (fun s h => h.inc _ _ (by decide))
    have h1 := State.portRead_good a0 c portRemote (b + 64 * j) 64 h0 anc
    split
    · exact h1
    · split
      · rename_i e
        exact (congrArg (fun (r : Option Nat × State) => State.Good p r.2) e).mp (State.writeBlock_good _ _ _ _ _ h1 anc)
      · rename_i e
        exact ih _ _ ((congrArg (fun (r : Option Nat × State) => State.Good p r.2) e).mp (State.writeBlock_good _ _ _ _ _ h1 anc))
grind_pattern State.storeBlocks_good => State.Good p (@State.storeBlocks a0 c o b n j).2
grind_pattern State.storeBlocks_good => @State.storeBlocks a0 c o b n j, Anchor p
theorem State.rowOut_good (a0 : State) (a1 : ℕ) (a2 : ℕ) (a3 : ℕ) (a4 : ℕ) (a5 : List Byte) (h0 : a0.Good p) (_anc : Anchor p) : State.Good p (@State.rowOut a0 a1 a2 a3 a4 a5).2 := by
  have anc : Anchor p := trivial
  fun_induction State.rowOut a0 a1 a2 a3 a4 a5
  all_goals grind (ematch := 40) (gen := 40) (splits := 24) (ring := false) (linarith := false) (lia := false) (ac := false)
grind_pattern State.rowOut_good => State.Good p (@State.rowOut a0 a1 a2 a3 a4 a5).2
grind_pattern State.rowOut_good => @State.rowOut a0 a1 a2 a3 a4 a5, Anchor p
theorem State.rowIn_good (a0 : State) (a1 : ℕ) (a2 : ℕ) (a3 : ℕ) (a4 : ℕ) (h0 : a0.Good p) (_anc : Anchor p) : State.Good p (@State.rowIn a0 a1 a2 a3 a4).2 := by
  have anc : Anchor p := trivial
  fun_induction State.rowIn a0 a1 a2 a3 a4
  all_goals grind (ematch := 40) (gen := 40) (splits := 24) (ring := false) (linarith := false) (lia := false) (ac := false)
grind_pattern State.rowIn_good => State.Good p (@State.rowIn a0 a1 a2 a3 a4).2
grind_pattern State.rowIn_good => @State.rowIn a0 a1 a2 a3 a4, Anchor p
theorem State.listEntry_good (a0 : State) (a1 : ℕ) (a2 : Op) (a3 : ℕ) (h0 : a0.Good p) (_anc : Anchor p) : State.Good p (@State.listEntry a0 a1 a2 a3).2 := by
  have anc : Anchor p := trivial
  unfold State.listEntry
  grind (ematch := 40) (gen := 40) (splits := 24) (ring := false) (linarith := false) (lia := false) (ac := false)
grind_pattern State.listEntry_good => State.Good p (@State.listEntry a0 a1 a2 a3).2
grind_pattern State.listEntry_good => @State.listEntry a0 a1 a2 a3, Anchor p
theorem State.append_good {s : State} (h : s.Good p) (x e : Nat) (r : List Byte) (u) (hu : s.append x e r = .done u) : u.Good p := by
  unfold State.append at hu
  grind (ematch := 40) (gen := 40) (splits := 24) (ring := false) (linarith := false) (lia := false) (ac := false)
grind_pattern State.append_good => s.append x e r, Anchor p, Append.done u
theorem State.scatRows_good (a0 : State) (c b un n j : ℕ) (o : Op) (h0 : a0.Good p) : State.Good p (a0.scatRows c b un n j o).2 := by
  have anc : Anchor p := trivial
  induction n generalizing a0 j o with
  | zero => exact h0
  | succ n ih =>
    unfold State.scatRows
    dsimp only
    have h1 := State.listEntry_good a0 c o j h0 anc
    split
    · exact h1
    have h2 := State.portRead_good _ c portRemote (b + j * (64 * un)) (64 * un) h1 anc
    split
    · exact h2
    split
    · split
      · exact h2
      · exact State.kvHold_good _ _ _ _ _ _ h2
      · rename_i e
        exact ih _ _ _ (State.append_good h2 _ _ _ _ e)
    split
    · exact h2
    split
    · exact State.holdOp_good _ _ _ _ _ _ h2 (fun s h => h)
    split
    · exact State.holdOp_good _ _ _ _ _ _ h2 (fun s h => h.inc _ _ (by decide))
    have h3 := fun e => State.admitOva_good _ c o.ctx e (64 * un) h2 anc
    split
    · rename_i e
      exact (congrArg (fun (r : Bool × State) => State.Good p r.2) e).mp (h3 _)
    · rename_i e
      have h4 := (congrArg (fun (r : Bool × State) => State.Good p r.2) e).mp (h3 _)
      split
      · rename_i e
        exact (congrArg (fun (r : Option (Nat × Nat) × State) => State.Good p r.2) e).mp (State.rowOut_good _ _ _ _ _ _ h4 anc)
      · rename_i e
        exact ih _ _ _ ((congrArg (fun (r : Option (Nat × Nat) × State) => State.Good p r.2) e).mp (State.rowOut_good _ _ _ _ _ _ h4 anc))
grind_pattern State.scatRows_good => State.Good p (@State.scatRows a0 c b un n j o).2
grind_pattern State.scatRows_good => @State.scatRows a0 c b un n j o, Anchor p
theorem State.gathRows_good (a0 : State) (a1 : ℕ) (a2 : Op) (a3 : ℕ) (a4 : ℕ) (a5 : ℕ) (a6 : ℕ) (h0 : a0.Good p) (_anc : Anchor p) : State.Good p (@State.gathRows a0 a1 a2 a3 a4 a5 a6).2 := by
  have anc : Anchor p := trivial
  fun_induction State.gathRows a0 a1 a2 a3 a4 a5 a6
  all_goals grind (ematch := 40) (gen := 40) (splits := 24) (ring := false) (linarith := false) (lia := false) (ac := false)
grind_pattern State.gathRows_good => State.Good p (@State.gathRows a0 a1 a2 a3 a4 a5 a6).2
grind_pattern State.gathRows_good => @State.gathRows a0 a1 a2 a3 a4 a5 a6, Anchor p
theorem State.trunkBlocks_good (a0 : State) (a1 : ℕ) (a2 : ℕ) (a3 : Option Bool) (a4 : ℕ) (a5 : ℕ) (a6 : ℕ) (a7 : List Byte) (h0 : a0.Good p) (_anc : Anchor p) : State.Good p (@State.trunkBlocks a0 a1 a2 a3 a4 a5 a6 a7).2 := by
  have anc : Anchor p := trivial
  fun_induction State.trunkBlocks a0 a1 a2 a3 a4 a5 a6 a7
  all_goals grind (ematch := 40) (gen := 40) (splits := 24) (ring := false) (linarith := false) (lia := false) (ac := false)
grind_pattern State.trunkBlocks_good => State.Good p (@State.trunkBlocks a0 a1 a2 a3 a4 a5 a6 a7).2
grind_pattern State.trunkBlocks_good => @State.trunkBlocks a0 a1 a2 a3 a4 a5 a6 a7, Anchor p
theorem State.canopyBlocks_good (a0 : State) (a1 : ℕ) (a2 : Option Bool) (a3 : ℕ) (a4 : ℕ) (a5 : ℕ) (a6 : List Byte) (h0 : a0.Good p) (_anc : Anchor p) : State.Good p (@State.canopyBlocks a0 a1 a2 a3 a4 a5 a6).2 := by
  have anc : Anchor p := trivial
  fun_induction State.canopyBlocks a0 a1 a2 a3 a4 a5 a6
  all_goals grind (ematch := 40) (gen := 40) (splits := 24) (ring := false) (linarith := false) (lia := false) (ac := false)
grind_pattern State.canopyBlocks_good => State.Good p (@State.canopyBlocks a0 a1 a2 a3 a4 a5 a6).2
grind_pattern State.canopyBlocks_good => @State.canopyBlocks a0 a1 a2 a3 a4 a5 a6, Anchor p
theorem State.remoteData_good (a0 : State) (a1 : ℕ) (a2 : Op) (h0 : a0.Good p) (_anc : Anchor p) : State.Good p (@State.remoteData a0 a1 a2).2 := by
  have anc : Anchor p := trivial
  unfold State.remoteData
  grind (ematch := 40) (gen := 40) (splits := 24) (ring := false) (linarith := false) (lia := false) (ac := false)
grind_pattern State.remoteData_good => State.Good p (@State.remoteData a0 a1 a2).2
grind_pattern State.remoteData_good => @State.remoteData a0 a1 a2, Anchor p
theorem State.sendRemote_good (a0 : State) (a1 : ℕ) (a2 : Op) (a3 : List Byte) (h0 : a0.Good p) : State.Good p (@State.sendRemote a0 a1 a2 a3) := by
  have anc : Anchor p := trivial
  unfold State.sendRemote
  grind (ematch := 40) (gen := 40) (splits := 24) (ring := false) (linarith := false) (lia := false) (ac := false) [VF_CTX_STATUS.EPOCH]
grind_pattern State.sendRemote_good => State.Good p (@State.sendRemote a0 a1 a2 a3)
theorem State.respond_good (a0 : State) (a1 : ℕ) (a2 : ℕ) (a3 : ℕ) (a4 : ℕ) (h0 : a0.Good p) : State.Good p (@State.respond a0 a1 a2 a3 a4) := by
  have anc : Anchor p := trivial
  unfold State.respond
  grind (ematch := 40) (gen := 40) (splits := 24) (ring := false) (linarith := false) (lia := false) (ac := false)
grind_pattern State.respond_good => State.Good p (@State.respond a0 a1 a2 a3 a4)
theorem State.landIn_good (a0 : State) (a1 : ℕ) (a2 : Op) (a3 : ℕ) (a4 : ℕ) (h0 : a0.Good p) : State.Good p (@State.landIn a0 a1 a2 a3 a4) := by
  have anc : Anchor p := trivial
  unfold State.landIn
  grind (ematch := 40) (gen := 40) (splits := 24) (ring := false) (linarith := false) (lia := false) (ac := false)
grind_pattern State.landIn_good => State.Good p (@State.landIn a0 a1 a2 a3 a4)
theorem State.landOva_good (a0 : State) (a1 : ℕ) (a2 : Op) (a3 : ℕ) (a4 : List Byte) (h0 : a0.Good p) : State.Good p (@State.landOva a0 a1 a2 a3 a4) := by
  have anc : Anchor p := trivial
  unfold State.landOva
  grind (ematch := 40) (gen := 40) (splits := 24) (ring := false) (linarith := false) (lia := false) (ac := false) [PRT_CNP_WIN.REFUSED]
grind_pattern State.landOva_good => State.Good p (@State.landOva a0 a1 a2 a3 a4)
theorem State.moveOva_good (a0 : State) (a1 : ℕ) (a2 : Op) (a3 : ℕ) (a4 : List Byte) (h0 : a0.Good p) : State.Good p (@State.moveOva a0 a1 a2 a3 a4) := by
  have anc : Anchor p := trivial
  unfold State.moveOva
  grind (ematch := 40) (gen := 40) (splits := 24) (ring := false) (linarith := false) (lia := false) (ac := false)
grind_pattern State.moveOva_good => State.Good p (@State.moveOva a0 a1 a2 a3 a4)
theorem State.moveRemote_good (a0 : State) (a1 : ℕ) (a2 : Op) (h0 : a0.Good p) : State.Good p (@State.moveRemote a0 a1 a2) := by
  have anc : Anchor p := trivial
  unfold State.moveRemote
  grind (ematch := 40) (gen := 40) (splits := 24) (ring := false) (linarith := false) (lia := false) (ac := false) [PRT_XL_MIG.MIG_WAITS]
grind_pattern State.moveRemote_good => State.Good p (@State.moveRemote a0 a1 a2)
theorem State.moveLocal_good (a0 : State) (a1 : ℕ) (a2 : Op) (h0 : a0.Good p) : State.Good p (@State.moveLocal a0 a1 a2) := by
  have anc : Anchor p := trivial
  unfold State.moveLocal
  grind (ematch := 40) (gen := 40) (splits := 24) (ring := false) (linarith := false) (lia := false) (ac := false)
grind_pattern State.moveLocal_good => State.Good p (@State.moveLocal a0 a1 a2)
theorem State.moveTick_good (a0 : State) (a1 : ℕ) (a2 : Op) (h0 : a0.Good p) : State.Good p (@State.moveTick a0 a1 a2) := by
  have anc : Anchor p := trivial
  unfold State.moveTick
  grind (ematch := 40) (gen := 40) (splits := 24) (ring := false) (linarith := false) (lia := false) (ac := false)
grind_pattern State.moveTick_good => State.Good p (@State.moveTick a0 a1 a2)
theorem execTransferComplete_good (a0 : Lcid) (a1 : ℕ) (a2 : State) (h2 : a2.Good p) : OutGood p (@execTransferComplete a0 a1 a2) := by
  have anc : Anchor p := trivial
  unfold execTransferComplete
  grind (ematch := 40) (gen := 40) (splits := 24) (ring := false) (linarith := false) (lia := false) (ac := false)
grind_pattern execTransferComplete_good => OutGood p (@execTransferComplete a0 a1 a2)
theorem execRemoteAccessArrive_good (a0 : Lcid) (a1 : Lcid) (a2 : ℕ) (a3 : State) (h3 : a3.Good p) : OutGood p (@execRemoteAccessArrive a0 a1 a2 a3) := by
  have anc : Anchor p := trivial
  unfold execRemoteAccessArrive
  grind (ematch := 40) (gen := 40) (splits := 24) (ring := false) (linarith := false) (lia := false) (ac := false) [PRT_CNP_WIN.REFUSED]
grind_pattern execRemoteAccessArrive_good => OutGood p (@execRemoteAccessArrive a0 a1 a2 a3)
theorem execGatherFlush_good (a0 : Lcid) (a1 : Fin 3) (a2 : State) (h2 : a2.Good p) : OutGood p (@execGatherFlush a0 a1 a2) := by
  have anc : Anchor p := trivial
  unfold execGatherFlush
  grind (ematch := 40) (gen := 40) (splits := 24) (ring := false) (linarith := false) (lia := false) (ac := false)
grind_pattern execGatherFlush_good => OutGood p (@execGatherFlush a0 a1 a2)
theorem execApage_good (a0 : Lcid) (a1 : TSlot) (a2 : State) (h2 : a2.Good p) : OutGood p (@execApage a0 a1 a2) := by
  have anc : Anchor p := trivial
  unfold execApage
  grind (ematch := 40) (gen := 40) (splits := 24) (ring := false) (linarith := false) (lia := false) (ac := false)
grind_pattern execApage_good => OutGood p (@execApage a0 a1 a2)
theorem execAfin_good (a0 : Lcid) (a1 : TSlot) (a2 : State) (h2 : a2.Good p) : OutGood p (@execAfin a0 a1 a2) := by
  have anc : Anchor p := trivial
  unfold execAfin
  grind (ematch := 40) (gen := 40) (splits := 24) (ring := false) (linarith := false) (lia := false) (ac := false)
grind_pattern execAfin_good => OutGood p (@execAfin a0 a1 a2)
theorem execArev_good (a0 : Lcid) (a1 : TSlot) (a2 : State) (h2 : a2.Good p) : OutGood p (@execArev a0 a1 a2) := by
  have anc : Anchor p := trivial
  unfold execArev
  grind (ematch := 40) (gen := 40) (splits := 24) (ring := false) (linarith := false) (lia := false) (ac := false)
grind_pattern execArev_good => OutGood p (@execArev a0 a1 a2)
theorem State.localRead_good (a0 : State) (a1 : ℕ) (a2 : Op) (a3 : ℕ) (a4 : ℕ) (h0 : a0.Good p) (_anc : Anchor p) : State.Good p (@State.localRead a0 a1 a2 a3 a4).2 := by
  have anc : Anchor p := trivial
  unfold State.localRead
  grind (ematch := 40) (gen := 40) (splits := 24) (ring := false) (linarith := false) (lia := false) (ac := false)
grind_pattern State.localRead_good => State.Good p (@State.localRead a0 a1 a2 a3 a4).2
grind_pattern State.localRead_good => @State.localRead a0 a1 a2 a3 a4, Anchor p
theorem State.localReads_good (a0 : State) (a1 : ℕ) (a2 : Op) (a3 : List (ℕ × ℕ)) (h0 : a0.Good p) (_anc : Anchor p) : State.Good p (@State.localReads a0 a1 a2 a3).2 := by
  have anc : Anchor p := trivial
  fun_induction State.localReads a0 a1 a2 a3
  all_goals grind (ematch := 40) (gen := 40) (splits := 24) (ring := false) (linarith := false) (lia := false) (ac := false)
grind_pattern State.localReads_good => State.Good p (@State.localReads a0 a1 a2 a3).2
grind_pattern State.localReads_good => @State.localReads a0 a1 a2 a3, Anchor p
theorem State.attnOpen_good (a0 : State) (a1 : ℕ) (a2 : Op) (a3 : List Byte → Bool) (a4 : Bool) (h0 : a0.Good p) (_anc : Anchor p) : State.Good p (@State.attnOpen a0 a1 a2 a3 a4).2 := by
  have anc : Anchor p := trivial
  unfold State.attnOpen
  grind (ematch := 40) (gen := 40) (splits := 24) (ring := false) (linarith := false) (lia := false) (ac := false)
grind_pattern State.attnOpen_good => State.Good p (@State.attnOpen a0 a1 a2 a3 a4).2
grind_pattern State.attnOpen_good => @State.attnOpen a0 a1 a2 a3 a4, Anchor p
theorem State.chargeWalk_good (a0 : State) (a1 : ℕ) (a2 : AttnIn) (h0 : a0.Good p) : State.Good p (@State.chargeWalk a0 a1 a2) := by
  have anc : Anchor p := trivial
  unfold State.chargeWalk
  grind (ematch := 40) (gen := 40) (splits := 24) (ring := false) (linarith := false) (lia := false) (ac := false)
grind_pattern State.chargeWalk_good => State.Good p (@State.chargeWalk a0 a1 a2)
theorem State.readWalk_ok_good (a0 : State) (a1 : ℕ) (a2 : Op) (a3 : AttnIn) (h0 : a0.Good p) (_anc : Anchor p) (u) (e : @State.readWalk a0 a1 a2 a3 = .ok u) : State.Good p u := by
  have anc : Anchor p := trivial
  unfold State.readWalk at e
  grind (ematch := 40) (gen := 40) (splits := 24) (ring := false) (linarith := false) (lia := false) (ac := false) [PRT_KV_ATT.ROOT_PAGES]
grind_pattern State.readWalk_ok_good => @State.readWalk a0 a1 a2 a3, Anchor p, Except.ok u
theorem State.readWalk_error_good (a0 : State) (a1 : ℕ) (a2 : Op) (a3 : AttnIn) (h0 : a0.Good p) (_anc : Anchor p) (u) (e : @State.readWalk a0 a1 a2 a3 = .error u) : State.Good p u := by
  have anc : Anchor p := trivial
  unfold State.readWalk at e
  grind (ematch := 40) (gen := 40) (splits := 24) (ring := false) (linarith := false) (lia := false) (ac := false) [PRT_KV_ATT.ROOT_PAGES]
grind_pattern State.readWalk_error_good => @State.readWalk a0 a1 a2 a3, Anchor p, Except.error u
theorem State.apageRun_good (a0 : State) (a1 : ℕ) (a2 : Op) (h0 : a0.Good p) : State.Good p (@State.apageRun a0 a1 a2) := by
  have anc : Anchor p := trivial
  unfold State.apageRun
  grind (ematch := 40) (gen := 40) (splits := 24) (ring := false) (linarith := false) (lia := false) (ac := false) [PRT_KV_CNT.EMPTY_ROWS, PRT_KV_ATT.APAGE_CNT]
grind_pattern State.apageRun_good => State.Good p (@State.apageRun a0 a1 a2)
theorem execApageEngineStart_good (a0 : PartId) (a1 : State) (h1 : a1.Good p) : OutGood p (@execApageEngineStart a0 a1) := by
  have anc : Anchor p := trivial
  unfold execApageEngineStart
  grind (ematch := 40) (gen := 40) (splits := 24) (ring := false) (linarith := false) (lia := false) (ac := false)
grind_pattern execApageEngineStart_good => OutGood p (@execApageEngineStart a0 a1)
theorem execApageEnd_good (a0 : PartId) (a1 : Fin 8) (a2 : State) (h2 : a2.Good p) : OutGood p (@execApageEnd a0 a1 a2) := by
  have anc : Anchor p := trivial
  unfold execApageEnd
  grind (ematch := 40) (gen := 40) (splits := 24) (ring := false) (linarith := false) (lia := false) (ac := false)
grind_pattern execApageEnd_good => OutGood p (@execApageEnd a0 a1 a2)
theorem State.afinRun_good (a0 : State) (a1 : ℕ) (a2 : Op) (h0 : a0.Good p) : State.Good p (@State.afinRun a0 a1 a2) := by
  have anc : Anchor p := trivial
  unfold State.afinRun
  grind (ematch := 40) (gen := 40) (splits := 24) (ring := false) (linarith := false) (lia := false) (ac := false)
grind_pattern State.afinRun_good => State.Good p (@State.afinRun a0 a1 a2)
theorem State.arevRun_good (a0 : State) (a1 : ℕ) (a2 : Op) (h0 : a0.Good p) : State.Good p (@State.arevRun a0 a1 a2) := by
  have anc : Anchor p := trivial
  unfold State.arevRun
  grind (ematch := 40) (gen := 40) (splits := 24) (ring := false) (linarith := false) (lia := false) (ac := false) [PRT_LAT_CFG.REPLAY_MAX]
grind_pattern State.arevRun_good => State.Good p (@State.arevRun a0 a1 a2)
theorem execKvPrepare_good (a0 : PartId) (a1 : State) (h1 : a1.Good p) : OutGood p (@execKvPrepare a0 a1) := by
  have anc : Anchor p := trivial
  unfold execKvPrepare
  grind (ematch := 40) (gen := 40) (splits := 24) (ring := false) (linarith := false) (lia := false) (ac := false)
grind_pattern execKvPrepare_good => OutGood p (@execKvPrepare a0 a1)
theorem State.keepCommits_good (a0 : State) (a1 : ℕ) (a2 : StepRec) (h0 : a0.Good p) : State.Good p (@State.keepCommits a0 a1 a2) := by
  have anc : Anchor p := trivial
  unfold State.keepCommits
  grind (ematch := 40) (gen := 40) (splits := 24) (ring := false) (linarith := false) (lia := false) (ac := false)
grind_pattern State.keepCommits_good => State.Good p (@State.keepCommits a0 a1 a2)
theorem execKvCommit_good (a0 : PartId) (a1 : State) (h1 : a1.Good p) : OutGood p (@execKvCommit a0 a1) := by
  have anc : Anchor p := trivial
  unfold execKvCommit
  grind (ematch := 40) (gen := 40) (splits := 24) (ring := false) (linarith := false) (lia := false) (ac := false)
grind_pattern execKvCommit_good => OutGood p (@execKvCommit a0 a1)
theorem State.takeTable_good (a0 : State) (a1 : ℕ) (h0 : a0.Good p) : State.Good p (@State.takeTable a0 a1) := by
  have anc : Anchor p := trivial
  unfold State.takeTable
  grind (ematch := 40) (gen := 40) (splits := 24) (ring := false) (linarith := false) (lia := false) (ac := false)
grind_pattern State.takeTable_good => State.Good p (@State.takeTable a0 a1)
theorem State.freshPages_good (a0 : State) (a1 : ℕ) (a2 : ℕ) (h0 : a0.Good p) : State.Good p (@State.freshPages a0 a1 a2) := by
  have anc : Anchor p := trivial
  unfold State.freshPages
  grind (ematch := 40) (gen := 40) (splits := 24) (ring := false) (linarith := false) (lia := false) (ac := false)
grind_pattern State.freshPages_good => State.Good p (@State.freshPages a0 a1 a2)
theorem State.landPages_good (a0 : State) (a1 : ℕ) (a2 : List Byte) (h0 : a0.Good p) : State.Good p (@State.landPages a0 a1 a2) := by
  have anc : Anchor p := trivial
  unfold State.landPages
  grind (ematch := 40) (gen := 40) (splits := 24) (ring := false) (linarith := false) (lia := false) (ac := false)
grind_pattern State.landPages_good => State.Good p (@State.landPages a0 a1 a2)
theorem execKvImportCopyEnd_good (a0 : Fin 262144) (a1 : State) (h1 : a1.Good p) : OutGood p (@execKvImportCopyEnd a0 a1) := by
  have anc : Anchor p := trivial
  unfold execKvImportCopyEnd
  grind (ematch := 40) (gen := 40) (splits := 24) (ring := false) (linarith := false) (lia := false) (ac := false) [PRT_KV_XFER.IMPORTS]
grind_pattern execKvImportCopyEnd_good => OutGood p (@execKvImportCopyEnd a0 a1)
theorem execKvExportEnd_good (a0 : Fin 262144) (a1 : State) (h1 : a1.Good p) : OutGood p (@execKvExportEnd a0 a1) := by
  have anc : Anchor p := trivial
  unfold execKvExportEnd
  grind (ematch := 40) (gen := 40) (splits := 24) (ring := false) (linarith := false) (lia := false) (ac := false) [PRT_KV_XFER.EXPORTS]
grind_pattern execKvExportEnd_good => OutGood p (@execKvExportEnd a0 a1)
theorem State.finish_good (a0 : State) (a1 : ℕ) (a2 : Desc) (a3 : ℕ) (h0 : a0.Good p) : State.Good p (@State.finish a0 a1 a2 a3) := by
  have anc : Anchor p := trivial
  unfold State.finish
  grind (ematch := 40) (gen := 40) (splits := 24) (ring := false) (linarith := false) (lia := false) (ac := false)
grind_pattern State.finish_good => State.Good p (@State.finish a0 a1 a2 a3)
theorem State.fetch_good (a0 : State) (a1 : ℕ) (a2 : ℕ) (h0 : a0.Good p) : State.Good p (@State.fetch a0 a1 a2) := by
  have anc : Anchor p := trivial
  fun_induction State.fetch a0 a1 a2
  all_goals grind (ematch := 40) (gen := 40) (splits := 24) (ring := false) (linarith := false) (lia := false) (ac := false)
grind_pattern State.fetch_good => State.Good p (@State.fetch a0 a1 a2)
theorem execDescriptorFetch_good (a0 : RingId) (a1 : State) (h1 : a1.Good p) : OutGood p (@execDescriptorFetch a0 a1) := by
  have anc : Anchor p := trivial
  unfold execDescriptorFetch
  grind (ematch := 40) (gen := 40) (splits := 24) (ring := false) (linarith := false) (lia := false) (ac := false)
grind_pattern execDescriptorFetch_good => OutGood p (@execDescriptorFetch a0 a1)
theorem State.descr_good (a0 : State) (a1 : RingId) (a2 : Desc → Bool) (a3 : ℕ → Desc → State → State) (h0 : a0.Good p) (h3 : ∀ (b0 : ℕ) (b1 : Desc) (b2 : State), b2.Good p → State.Good p (a3 b0 b1 b2)) : State.Good p (@State.descr a0 a1 a2 a3) := by
  have anc : Anchor p := trivial
  unfold State.descr
  grind (ematch := 40) (gen := 40) (splits := 24) (ring := false) (linarith := false) (lia := false) (ac := false)
grind_pattern State.descr_good => State.Good p (@State.descr a0 a1 a2 a3)
theorem execFenceDescriptor_good (a0 : RingId) (a1 : State) (h1 : a1.Good p) : OutGood p (@execFenceDescriptor a0 a1) := by
  have anc : Anchor p := trivial
  unfold execFenceDescriptor
  grind (ematch := 40) (gen := 40) (splits := 24) (ring := false) (linarith := false) (lia := false) (ac := false)
grind_pattern execFenceDescriptor_good => OutGood p (@execFenceDescriptor a0 a1)
theorem execNopDescriptor_good (a0 : RingId) (a1 : State) (h1 : a1.Good p) : OutGood p (@execNopDescriptor a0 a1) := by
  have anc : Anchor p := trivial
  unfold execNopDescriptor
  grind (ematch := 40) (gen := 40) (splits := 24) (ring := false) (linarith := false) (lia := false) (ac := false)
grind_pattern execNopDescriptor_good => OutGood p (@execNopDescriptor a0 a1)
theorem State.hostStores_good (a0 : State) (a1 : ℕ) (a2 : HostStores) (h0 : a0.Good p) : State.Good p (@State.hostStores a0 a1 a2) := by
  have anc : Anchor p := trivial
  unfold State.hostStores
  grind (ematch := 40) (gen := 40) (splits := 24) (ring := false) (linarith := false) (lia := false) (ac := false)
grind_pattern State.hostStores_good => State.Good p (@State.hostStores a0 a1 a2)
theorem State.dropDb_good (a0 : State) (a1 : ℕ) (h0 : a0.Good p) : State.Good p (@State.dropDb a0 a1) := by
  have anc : Anchor p := trivial
  unfold State.dropDb
  grind (ematch := 40) (gen := 40) (splits := 24) (ring := false) (linarith := false) (lia := false) (ac := false) [VF_CTX_CNT.DB_DROPS]
grind_pattern State.dropDb_good => State.Good p (@State.dropDb a0 a1)
theorem State.ringError_good (a0 : State) (a1 : ℕ) (a2 : ℕ) (a3 : ℕ) (h0 : a0.Good p) : State.Good p (@State.ringError a0 a1 a2 a3) := by
  have anc : Anchor p := trivial
  unfold State.ringError
  grind (ematch := 40) (gen := 40) (splits := 24) (ring := false) (linarith := false) (lia := false) (ac := false)
grind_pattern State.ringError_good => State.Good p (@State.ringError a0 a1 a2 a3)
theorem State.newTail_good (a0 : State) (a1 a2 : ℕ)  (h0 : a0.Good p) : State.Good p (a0.newTail a1 a2) := by
  unfold State.newTail
  refine State.Good.ite (State.dropDb_good _ _ h0) ?_
  refine State.Good.ite (State.ringError_good _ _ _ _ h0) ?_
  exact State.Good.ite h0 ⟨h0.1, h0.2, h0.3, h0.4, h0.5, h0.6⟩
grind_pattern State.newTail_good => State.Good p (@State.newTail a0 a1 a2)
theorem execSqTail_good (a0 : RingId) (a1 : BitVec 32) (a2 : HostStores) (a3 : State) (h3 : a3.Good p) : OutGood p (@execSqTail a0 a1 a2 a3) := by
  have anc : Anchor p := trivial
  unfold execSqTail
  grind (ematch := 40) (gen := 40) (splits := 24) (ring := false) (linarith := false) (lia := false) (ac := false)
grind_pattern execSqTail_good => OutGood p (@execSqTail a0 a1 a2 a3)
theorem State.newCqHead_good (a0 : State) (a1 a2 : ℕ)  (h0 : a0.Good p) : State.Good p (a0.newCqHead a1 a2) := by
  unfold State.newCqHead
  refine State.Good.ite (State.dropDb_good _ _ h0) ?_
  refine State.Good.ite (State.ringError_good _ _ _ _ h0) ?_
  exact ⟨h0.1, h0.2, h0.3, h0.4, h0.5, h0.6⟩
grind_pattern State.newCqHead_good => State.Good p (@State.newCqHead a0 a1 a2)
theorem State.headerDoorbell_good (a0 : State) (a1 : ℕ) (h0 : a0.Good p) : State.Good p (@State.headerDoorbell a0 a1) := by
  have anc : Anchor p := trivial
  unfold State.headerDoorbell
  grind (ematch := 40) (gen := 40) (splits := 24) (ring := false) (linarith := false) (lia := false) (ac := false)
grind_pattern State.headerDoorbell_good => State.Good p (@State.headerDoorbell a0 a1)
theorem execRingHeaderDoorbell_good (a0 : RingId) (a1 : State) (h1 : a1.Good p) : OutGood p (@execRingHeaderDoorbell a0 a1) := by
  have anc : Anchor p := trivial
  unfold execRingHeaderDoorbell
  grind (ematch := 40) (gen := 40) (splits := 24) (ring := false) (linarith := false) (lia := false) (ac := false)
grind_pattern execRingHeaderDoorbell_good => OutGood p (@execRingHeaderDoorbell a0 a1)
theorem State.spaceResume_good (a0 : State) (a1 : ℕ) (a2 : ℕ) (h0 : a0.Good p) : State.Good p (@State.spaceResume a0 a1 a2) := by
  have anc : Anchor p := trivial
  fun_induction State.spaceResume a0 a1 a2
  all_goals grind (ematch := 40) (gen := 40) (splits := 24) (ring := false) (linarith := false) (lia := false) (ac := false)
grind_pattern State.spaceResume_good => State.Good p (@State.spaceResume a0 a1 a2)
theorem execCqSpaceResume_good (a0 : RingId) (a1 : State) (h1 : a1.Good p) : OutGood p (@execCqSpaceResume a0 a1) := by
  have anc : Anchor p := trivial
  unfold execCqSpaceResume
  grind (ematch := 40) (gen := 40) (splits := 24) (ring := false) (linarith := false) (lia := false) (ac := false)
grind_pattern execCqSpaceResume_good => OutGood p (@execCqSpaceResume a0 a1)
theorem execCqHead_good (a0 : RingId) (a1 : BitVec 32) (a2 : State) (h2 : a2.Good p) : OutGood p (@execCqHead a0 a1 a2) := by
  have anc : Anchor p := trivial
  unfold execCqHead
  grind (ematch := 40) (gen := 40) (splits := 24) (ring := false) (linarith := false) (lia := false) (ac := false)
grind_pattern execCqHead_good => OutGood p (@execCqHead a0 a1 a2)
theorem execEqHead_good (r : RingId) (v : BitVec 32) (s : State)  (h0 : s.Good p) : OutGood p (execEqHead r v s) := by
  refine OutGood.next ?_
  refine State.Good.ite (State.dropDb_good _ _ h0) ?_
  refine State.Good.ite (State.ringError_good _ _ _ _ h0) ?_
  exact ⟨h0.1, h0.2, h0.3, h0.4, h0.5, h0.6⟩
grind_pattern execEqHead_good => OutGood p (@execEqHead r v s)
theorem execModTicksExpiry_good (a0 : RingId) (a1 : State) (h1 : a1.Good p) : OutGood p (@execModTicksExpiry a0 a1) := by
  have anc : Anchor p := trivial
  unfold execModTicksExpiry
  grind (ematch := 40) (gen := 40) (splits := 24) (ring := false) (linarith := false) (lia := false) (ac := false)
grind_pattern execModTicksExpiry_good => OutGood p (@execModTicksExpiry a0 a1)
theorem State.takeRun_good (a0 : State) (a1 : Bool) (a2 : ℕ) (a3 : ℕ) (a4 : Bool) (h0 : a0.Good p) (_anc : Anchor p) : State.Good p (@State.takeRun a0 a1 a2 a3 a4).2 := by
  have anc : Anchor p := trivial
  unfold State.takeRun
  grind (ematch := 40) (gen := 40) (splits := 24) (ring := false) (linarith := false) (lia := false) (ac := false)
grind_pattern State.takeRun_good => State.Good p (@State.takeRun a0 a1 a2 a3 a4).2
grind_pattern State.takeRun_good => @State.takeRun a0 a1 a2 a3 a4, Anchor p
theorem State.wear_good (s : State) (t n : ℕ) (l : Bool) (h : s.Good p) : (s.wear t n l).Good p := by
  unfold State.wear
  extract_lets s1 x s2 pct before s3
  have h1 : s1.Good p := ⟨h.1, h.2, h.3, h.4, h.5, h.6⟩
  have h2 : s2.Good p := (h1.setFld _ _ _ (by decide)).setFld _ _ _ (by decide)
  have h3 : s3.Good p := h2.setFld _ _ _ (by decide)
  exact State.Good.ite (State.raise_good _ _ h3) h3
grind_pattern State.wear_good => State.Good p (@State.wear s t n l)
theorem State.tileWritten_good (a0 : State) (a1 : ℕ) (h0 : a0.Good p) : State.Good p (@State.tileWritten a0 a1) := by
  have anc : Anchor p := trivial
  unfold State.tileWritten
  grind (ematch := 40) (gen := 40) (splits := 24) (ring := false) (linarith := false) (lia := false) (ac := false) [RTF_RELOC.BUF_WAITS, RTF_STATUS.BUF_TILES]
grind_pattern State.tileWritten_good => State.Good p (@State.tileWritten a0 a1)
theorem State.pagesWritten_good (a0 : State) (a1 : ℕ) (a2 : ℕ) (a3 : ℕ) (h0 : a0.Good p) : State.Good p (@State.pagesWritten a0 a1 a2 a3) := by
  have anc : Anchor p := trivial
  unfold State.pagesWritten
  grind (ematch := 40) (gen := 40) (splits := 24) (ring := false) (linarith := false) (lia := false) (ac := false)
grind_pattern State.pagesWritten_good => State.Good p (@State.pagesWritten a0 a1 a2 a3)
theorem State.takeRuns_good (a0 : State) (a1 : Bool) (a2 : ℕ) (a3 : Bool) (a4 : List ℕ) (h0 : a0.Good p) (_anc : Anchor p) : State.Good p (@State.takeRuns a0 a1 a2 a3 a4).2 := by
  have anc : Anchor p := trivial
  fun_induction State.takeRuns a0 a1 a2 a3 a4
  all_goals grind (ematch := 40) (gen := 40) (splits := 24) (ring := false) (linarith := false) (lia := false) (ac := false)
grind_pattern State.takeRuns_good => State.Good p (@State.takeRuns a0 a1 a2 a3 a4).2
grind_pattern State.takeRuns_good => @State.takeRuns a0 a1 a2 a3 a4, Anchor p
theorem State.placeStage_good (a0 : State) (a1 : ℕ) (a2 : ℕ) (a3 : ℕ) (h0 : a0.Good p) : State.Good p (@State.placeStage a0 a1 a2 a3) := by
  have anc : Anchor p := trivial
  unfold State.placeStage
  grind (ematch := 40) (gen := 40) (splits := 24) (ring := false) (linarith := false) (lia := false) (ac := false)
grind_pattern State.placeStage_good => State.Good p (@State.placeStage a0 a1 a2 a3)
theorem State.clearFrames_good (a0 : State) (a1 : ℕ) (h0 : a0.Good p) : State.Good p (@State.clearFrames a0 a1) := by
  have anc : Anchor p := trivial
  unfold State.clearFrames
  grind (ematch := 40) (gen := 40) (splits := 24) (ring := false) (linarith := false) (lia := false) (ac := false)
grind_pattern State.clearFrames_good => State.Good p (@State.clearFrames a0 a1)
theorem State.newKey_good (a0 : State) (a1 : Bool) (a2 : ℕ) (h0 : a0.Good p) (_anc : Anchor p) : State.Good p (@State.newKey a0 a1 a2).2 := by
  have anc : Anchor p := trivial
  unfold State.newKey
  grind (ematch := 40) (gen := 40) (splits := 24) (ring := false) (linarith := false) (lia := false) (ac := false)
grind_pattern State.newKey_good => State.Good p (@State.newKey a0 a1 a2).2
grind_pattern State.newKey_good => @State.newKey a0 a1 a2, Anchor p
theorem State.zeroKey_good (a0 : State) (a1 : ℕ) (h0 : a0.Good p) : State.Good p (@State.zeroKey a0 a1) := by
  have anc : Anchor p := trivial
  unfold State.zeroKey
  grind (ematch := 40) (gen := 40) (splits := 24) (ring := false) (linarith := false) (lia := false) (ac := false)
grind_pattern State.zeroKey_good => State.Good p (@State.zeroKey a0 a1)
theorem State.modObj_good (a0 : State) (a1 : ℕ) (a2 : ℕ) (a3 : Obj → Obj) (h0 : a0.Good p) : State.Good p (@State.modObj a0 a1 a2 a3) := by
  have anc : Anchor p := trivial
  unfold State.modObj
  grind (ematch := 40) (gen := 40) (splits := 24) (ring := false) (linarith := false) (lia := false) (ac := false)
grind_pattern State.modObj_good => State.Good p (@State.modObj a0 a1 a2 a3)
theorem State.mapPages_good (a0 : State) (a1 : ℕ) (a2 : Obj) (a3 : Tier) (a4 : Bool) (a5 : List ℕ) (h0 : a0.Good p) : State.Good p (@State.mapPages a0 a1 a2 a3 a4 a5) := by
  have anc : Anchor p := trivial
  unfold State.mapPages
  grind (ematch := 40) (gen := 40) (splits := 24) (ring := false) (linarith := false) (lia := false) (ac := false) [VF_CTX_STATUS.EPOCH]
grind_pattern State.mapPages_good => State.Good p (@State.mapPages a0 a1 a2 a3 a4 a5)
theorem State.unshare_good (a0 : State) (a1 : ℕ) (h0 : a0.Good p) : State.Good p (@State.unshare a0 a1) := by
  have anc : Anchor p := trivial
  unfold State.unshare
  grind (ematch := 40) (gen := 40) (splits := 24) (ring := false) (linarith := false) (lia := false) (ac := false)
grind_pattern State.unshare_good => State.Good p (@State.unshare a0 a1)
theorem State.unmapObj_good (a0 : State) (a1 : ℕ) (a2 : Obj) (h0 : a0.Good p) : State.Good p (@State.unmapObj a0 a1 a2) := by
  have anc : Anchor p := trivial
  unfold State.unmapObj
  grind (ematch := 40) (gen := 40) (splits := 24) (ring := false) (linarith := false) (lia := false) (ac := false)
grind_pattern State.unmapObj_good => State.Good p (@State.unmapObj a0 a1 a2)
theorem State.keyFor_good (a0 : State) (a1 : ℕ) (a2 : Bool) (h0 : a0.Good p) (_anc : Anchor p) : State.Good p (@State.keyFor a0 a1 a2).2 := by
  have anc : Anchor p := trivial
  unfold State.keyFor
  grind (ematch := 40) (gen := 40) (splits := 24) (ring := false) (linarith := false) (lia := false) (ac := false)
grind_pattern State.keyFor_good => State.Good p (@State.keyFor a0 a1 a2).2
grind_pattern State.keyFor_good => @State.keyFor a0 a1 a2, Anchor p
theorem State.splitPages_good (a0 : State) (a1 : ℕ) (a2 : Obj) (a3 : ℕ) (a4 : ℕ) (h0 : a0.Good p) : State.Good p (@State.splitPages a0 a1 a2 a3 a4) := by
  have anc : Anchor p := trivial
  unfold State.splitPages
  grind (ematch := 40) (gen := 40) (splits := 24) (ring := false) (linarith := false) (lia := false) (ac := false)
grind_pattern State.splitPages_good => State.Good p (@State.splitPages a0 a1 a2 a3 a4)
theorem State.refreshSlots_good (a0 : State) (a1 : Obj) (a2 : ℕ) (h0 : a0.Good p) : State.Good p (@State.refreshSlots a0 a1 a2) := by
  have anc : Anchor p := trivial
  unfold State.refreshSlots
  grind (ematch := 40) (gen := 40) (splits := 24) (ring := false) (linarith := false) (lia := false) (ac := false)
grind_pattern State.refreshSlots_good => State.Good p (@State.refreshSlots a0 a1 a2)
theorem State.endPlace_good (a0 : State) (a1 : ℕ) (a2 : MigReq) (a3 : ℕ) (h0 : a0.Good p) : State.Good p (@State.endPlace a0 a1 a2 a3) := by
  have anc : Anchor p := trivial
  unfold State.endPlace
  grind (ematch := 40) (gen := 40) (splits := 24) (ring := false) (linarith := false) (lia := false) (ac := false)
grind_pattern State.endPlace_good => State.Good p (@State.endPlace a0 a1 a2 a3)
theorem State.putPlace_good (a0 : State) (a1 : ℕ) (a2 : MigReq) (h0 : a0.Good p) : State.Good p (@State.putPlace a0 a1 a2) := by
  have anc : Anchor p := trivial
  unfold State.putPlace
  grind (ematch := 40) (gen := 40) (splits := 24) (ring := false) (linarith := false) (lia := false) (ac := false)
grind_pattern State.putPlace_good => State.Good p (@State.putPlace a0 a1 a2)
theorem State.beginPlace_good (a0 : State) (a1 : ℕ) (a2 : MigReq) (a3 : Obj) (h0 : a0.Good p) : State.Good p (@State.beginPlace a0 a1 a2 a3) := by
  have anc : Anchor p := trivial
  unfold State.beginPlace
  grind (ematch := 40) (gen := 40) (splits := 24) (ring := false) (linarith := false) (lia := false) (ac := false)
grind_pattern State.beginPlace_good => State.Good p (@State.beginPlace a0 a1 a2 a3)
theorem State.modTile_good (a0 : State) (a1 : Obj) (a2 : ℕ) (a3 : Pte → Pte) (h0 : a0.Good p) : State.Good p (@State.modTile a0 a1 a2 a3) := by
  have anc : Anchor p := trivial
  unfold State.modTile
  grind (ematch := 40) (gen := 40) (splits := 24) (ring := false) (linarith := false) (lia := false) (ac := false)
grind_pattern State.modTile_good => State.Good p (@State.modTile a0 a1 a2 a3)
theorem State.passPlace_good (a0 : State) (a1 : ℕ) (a2 : MigReq) (a3 : Obj) (h0 : a0.Good p) : State.Good p (@State.passPlace a0 a1 a2 a3) := by
  have anc : Anchor p := trivial
  unfold State.passPlace
  grind (ematch := 40) (gen := 40) (splits := 24) (ring := false) (linarith := false) (lia := false) (ac := false)
grind_pattern State.passPlace_good => State.Good p (@State.passPlace a0 a1 a2 a3)
theorem State.startCopy_good (a0 : State) (a1 : ℕ) (a2 : MigReq) (a3 : Obj) (a4 : List ℕ) (a5 : List ℕ) (h0 : a0.Good p) : State.Good p (@State.startCopy a0 a1 a2 a3 a4 a5) := by
  have anc : Anchor p := trivial
  unfold State.startCopy
  grind (ematch := 40) (gen := 40) (splits := 24) (ring := false) (linarith := false) (lia := false) (ac := false)
grind_pattern State.startCopy_good => State.Good p (@State.startCopy a0 a1 a2 a3 a4 a5)
theorem State.startTile_good (a0 : State) (a1 n : ℕ) (h0 : a0.Good p) : State.Good p (a0.startTile a1 n) := by
  have anc : Anchor p := trivial
  induction n generalizing a0 with
  | zero => exact h0
  | succ n ih =>
    have he : ∀ m st, (a0.endPlace a1 m st).Good p := fun m st => State.endPlace_good _ _ _ _ h0
    unfold State.startTile
    dsimp only
    split
    · exact h0
    refine State.Good.ite h0 ?_
    split
    · exact ih _ (he _ _)
    refine State.Good.ite (ih _ (he _ _)) (State.Good.ite ?_ ?_)
    · exact State.Good.ite h0 (State.Good.ite (ih _ (he _ _)) (ih _ (State.beginPlace_good _ _ _ _ h0)))
    refine State.Good.ite h0 (State.Good.ite (ih _ (he _ _)) (State.Good.ite (ih _ (State.passPlace_good _ _ _ _ h0)) ?_))
    refine State.Good.ite (ih _ (State.eventTo_good _ _ _ _ _ ((he _ _).inc _ _ (by decide)))) ?_
    split
    · exact ih _ (he _ _)
    · rename_i e
      exact State.startCopy_good _ _ _ _ _ _
        ((congrArg (fun (r : Option (List Nat) × State) => State.Good p r.2) e).mp (State.takeRuns_good _ _ _ _ _ h0 anc))
grind_pattern State.startTile_good => State.Good p (@State.startTile a0 a1 n)
theorem State.startTiles_good (a0 : State) (h0 : a0.Good p) : State.Good p (@State.startTiles a0) := by
  have anc : Anchor p := trivial
  unfold State.startTiles
  grind (ematch := 40) (gen := 40) (splits := 24) (ring := false) (linarith := false) (lia := false) (ac := false)
grind_pattern State.startTiles_good => State.Good p (@State.startTiles a0)
theorem State.readSources_good (a0 : State) (a1 : ℕ) (a2 : MigReq) (h0 : a0.Good p) (_anc : Anchor p) : State.Good p (@State.readSources a0 a1 a2).2 := by
  have anc : Anchor p := trivial
  unfold State.readSources
  grind (ematch := 40) (gen := 40) (splits := 24) (ring := false) (linarith := false) (lia := false) (ac := false)
grind_pattern State.readSources_good => State.Good p (@State.readSources a0 a1 a2).2
grind_pattern State.readSources_good => @State.readSources a0 a1 a2, Anchor p
theorem State.switchTile_good (a0 : State) (a1 : ℕ) (a2 : MigReq) (a3 : Obj) (a4 : ℕ) (a5 : ℕ) (h0 : a0.Good p) : State.Good p (@State.switchTile a0 a1 a2 a3 a4 a5) := by
  have anc : Anchor p := trivial
  unfold State.switchTile
  grind (ematch := 40) (gen := 40) (splits := 24) (ring := false) (linarith := false) (lia := false) (ac := false) [PRT_XL_MIG.TILES_MOVED]
grind_pattern State.switchTile_good => State.Good p (@State.switchTile a0 a1 a2 a3 a4 a5)
theorem State.switchTiles_good (a0 : State) (a1 : ℕ) (a2 : MigReq) (a3 : Obj) (h0 : a0.Good p) : State.Good p (@State.switchTiles a0 a1 a2 a3) := by
  have anc : Anchor p := trivial
  unfold State.switchTiles
  grind (ematch := 40) (gen := 40) (splits := 24) (ring := false) (linarith := false) (lia := false) (ac := false)
grind_pattern State.switchTiles_good => State.Good p (@State.switchTiles a0 a1 a2 a3)
theorem State.cancelWhere_good (a0 : State) (a1 : ℕ) (a2 : MigReq → Bool) (h0 : a0.Good p) : State.Good p (@State.cancelWhere a0 a1 a2) := by
  have anc : Anchor p := trivial
  unfold State.cancelWhere
  grind (ematch := 40) (gen := 40) (splits := 24) (ring := false) (linarith := false) (lia := false) (ac := false)
grind_pattern State.cancelWhere_good => State.Good p (@State.cancelWhere a0 a1 a2)
theorem State.takeObject_good (a0 : State) (a1 : ℕ) (a2 : MapReq) (h0 : a0.Good p) (_anc : Anchor p) : State.Good p (@State.takeObject a0 a1 a2).2 := by
  have anc : Anchor p := trivial
  unfold State.takeObject
  grind (ematch := 40) (gen := 40) (splits := 24) (ring := false) (linarith := false) (lia := false) (ac := false)
grind_pattern State.takeObject_good => State.Good p (@State.takeObject a0 a1 a2).2
grind_pattern State.takeObject_good => @State.takeObject a0 a1 a2, Anchor p
theorem State.addObj_good (a0 : State) (a1 : ℕ) (a2 : Obj) (a3 : Tier) (a4 : Bool) (a5 : List ℕ) (h0 : a0.Good p) : State.Good p (@State.addObj a0 a1 a2 a3 a4 a5) := by
  have anc : Anchor p := trivial
  unfold State.addObj
  grind (ematch := 40) (gen := 40) (splits := 24) (ring := false) (linarith := false) (lia := false) (ac := false)
grind_pattern State.addObj_good => State.Good p (@State.addObj a0 a1 a2 a3 a4 a5)
theorem State.mapNew_good (a0 : State) (a1 : ℕ) (a2 : Desc) (h0 : a0.Good p) (_anc : Anchor p) : State.Good p (@State.mapNew a0 a1 a2).2 := by
  have anc : Anchor p := trivial
  unfold State.mapNew
  grind (ematch := 40) (gen := 40) (splits := 24) (ring := false) (linarith := false) (lia := false) (ac := false)
grind_pattern State.mapNew_good => State.Good p (@State.mapNew a0 a1 a2).2
grind_pattern State.mapNew_good => @State.mapNew a0 a1 a2, Anchor p
theorem State.mapShare_good (a0 : State) (a1 : ℕ) (a2 : Desc) (h0 : a0.Good p) : State.Good p (@State.mapShare a0 a1 a2) := by
  have anc : Anchor p := trivial
  unfold State.mapShare
  grind (ematch := 40) (gen := 40) (splits := 24) (ring := false) (linarith := false) (lia := false) (ac := false) [VF_CTX_STATUS.EPOCH]
grind_pattern State.mapShare_good => State.Good p (@State.mapShare a0 a1 a2)
theorem State.mapAdopt_good (a0 : State) (a1 : ℕ) (a2 : Desc) (h0 : a0.Good p) (_anc : Anchor p) : State.Good p (@State.mapAdopt a0 a1 a2).2 := by
  have anc : Anchor p := trivial
  unfold State.mapAdopt
  grind (ematch := 40) (gen := 40) (splits := 24) (ring := false) (linarith := false) (lia := false) (ac := false)
grind_pattern State.mapAdopt_good => State.Good p (@State.mapAdopt a0 a1 a2).2
grind_pattern State.mapAdopt_good => @State.mapAdopt a0 a1 a2, Anchor p
theorem State.cancelPlaces_good (a0 : State) (a1 : ℕ) (a2 : ℕ) (h0 : a0.Good p) : State.Good p (@State.cancelPlaces a0 a1 a2) := by
  have anc : Anchor p := trivial
  unfold State.cancelPlaces
  grind (ematch := 40) (gen := 40) (splits := 24) (ring := false) (linarith := false) (lia := false) (ac := false)
grind_pattern State.cancelPlaces_good => State.Good p (@State.cancelPlaces a0 a1 a2)
theorem State.unmapNow_good (a0 : State) (a1 : ℕ) (a2 : Desc) (h0 : a0.Good p) (_anc : Anchor p) : State.Good p (@State.unmapNow a0 a1 a2).2 := by
  have anc : Anchor p := trivial
  unfold State.unmapNow
  grind (ematch := 40) (gen := 40) (splits := 24) (ring := false) (linarith := false) (lia := false) (ac := false)
grind_pattern State.unmapNow_good => State.Good p (@State.unmapNow a0 a1 a2).2
grind_pattern State.unmapNow_good => @State.unmapNow a0 a1 a2, Anchor p
theorem State.effect_good (a0 : State) (a1 : ℕ) (a2 : Desc) (h0 : a0.Good p) (_anc : Anchor p) : State.Good p (@State.effect a0 a1 a2).2 := by
  have anc : Anchor p := trivial
  unfold State.effect
  grind (ematch := 40) (gen := 40) (splits := 24) (ring := false) (linarith := false) (lia := false) (ac := false)
grind_pattern State.effect_good => State.Good p (@State.effect a0 a1 a2).2
grind_pattern State.effect_good => @State.effect a0 a1 a2, Anchor p
theorem State.runDeferred_good (a0 : State) (a1 : ℕ) (h0 : a0.Good p) : State.Good p (@State.runDeferred a0 a1) := by
  have anc : Anchor p := trivial
  unfold State.runDeferred
  grind (ematch := 40) (gen := 40) (splits := 24) (ring := false) (linarith := false) (lia := false) (ac := false)
grind_pattern State.runDeferred_good => State.Good p (@State.runDeferred a0 a1)
theorem State.boundaryObjects_good (a0 : State) (a1 : ℕ) (h0 : a0.Good p) : State.Good p (@State.boundaryObjects a0 a1) := by
  have anc : Anchor p := trivial
  unfold State.boundaryObjects
  grind (ematch := 40) (gen := 40) (splits := 24) (ring := false) (linarith := false) (lia := false) (ac := false)
grind_pattern State.boundaryObjects_good => State.Good p (@State.boundaryObjects a0 a1)
theorem State.framesCleared_good (a0 : State) (h0 : a0.Good p) : State.Good p (@State.framesCleared a0) := by
  have anc : Anchor p := trivial
  unfold State.framesCleared
  grind (ematch := 40) (gen := 40) (splits := 24) (ring := false) (linarith := false) (lia := false) (ac := false)
grind_pattern State.framesCleared_good => State.Good p (@State.framesCleared a0)
theorem State.deferOrRun_good (a0 : State) (a1 : ℕ) (a2 : Desc) (h0 : a0.Good p) : State.Good p (@State.deferOrRun a0 a1 a2) := by
  have anc : Anchor p := trivial
  unfold State.deferOrRun
  grind (ematch := 40) (gen := 40) (splits := 24) (ring := false) (linarith := false) (lia := false) (ac := false)
grind_pattern State.deferOrRun_good => State.Good p (@State.deferOrRun a0 a1 a2)
theorem execObjMap_good (a0 : RingId) (a1 : State) (h1 : a1.Good p) : OutGood p (@execObjMap a0 a1) := by
  have anc : Anchor p := trivial
  unfold execObjMap
  grind (ematch := 40) (gen := 40) (splits := 24) (ring := false) (linarith := false) (lia := false) (ac := false)
grind_pattern execObjMap_good => OutGood p (@execObjMap a0 a1)
theorem execObjMapShare_good (a0 : RingId) (a1 : State) (h1 : a1.Good p) : OutGood p (@execObjMapShare a0 a1) := by
  have anc : Anchor p := trivial
  unfold execObjMapShare
  grind (ematch := 40) (gen := 40) (splits := 24) (ring := false) (linarith := false) (lia := false) (ac := false)
grind_pattern execObjMapShare_good => OutGood p (@execObjMapShare a0 a1)
theorem execObjMapAdopt_good (a0 : RingId) (a1 : State) (h1 : a1.Good p) : OutGood p (@execObjMapAdopt a0 a1) := by
  have anc : Anchor p := trivial
  unfold execObjMapAdopt
  grind (ematch := 40) (gen := 40) (splits := 24) (ring := false) (linarith := false) (lia := false) (ac := false)
grind_pattern execObjMapAdopt_good => OutGood p (@execObjMapAdopt a0 a1)
theorem execObjUnmap_good (a0 : RingId) (a1 : State) (h1 : a1.Good p) : OutGood p (@execObjUnmap a0 a1) := by
  have anc : Anchor p := trivial
  unfold execObjUnmap
  grind (ematch := 40) (gen := 40) (splits := 24) (ring := false) (linarith := false) (lia := false) (ac := false)
grind_pattern execObjUnmap_good => OutGood p (@execObjUnmap a0 a1)
theorem State.writeGolden_good (a0 : State) (a1 : Obj) (a2 : List Byte) (a3 : List (ℕ × ℕ)) (h0 : a0.Good p) : State.Good p (@State.writeGolden a0 a1 a2 a3) := by
  have anc : Anchor p := trivial
  unfold State.writeGolden
  grind (ematch := 40) (gen := 40) (splits := 24) (ring := false) (linarith := false) (lia := false) (ac := false)
grind_pattern State.writeGolden_good => State.Good p (@State.writeGolden a0 a1 a2 a3)
theorem execObjMapFillEnd_good (x : Fin 4096) (s : State) (h0 : s.Good p) : OutGood p (@execObjMapFillEnd x s) := by
  refine OutGood.next ?_
  split
  · exact h0
  have h1 : ∀ f, (s.modCtx x f).Good p := fun f => State.modCtx_good _ _ _ h0
  dsimp only
  split
  · exact State.completeLater_good _ _ _ _ _ (h1 _)
  · refine State.Good.ite h0 (State.completeLater_good _ _ _ _ _ ?_)
    have h2 : ∀ (b : State) (hb : b.Good p) (x ova n : ℕ) (bs), State.Good p ((b.writeOva x ova bs).pagesWritten x ova n) :=
      fun b hb x ova n bs => State.pagesWritten_good _ _ _ _ (State.writeOva_good _ _ _ _ hb)
    have h3 : ∀ (b : State) (hb : b.Good p) (o : Obj) (l : List (ℕ × ℕ)),
        State.Good p (l.foldl (fun s b => if o.kind = 2 then s else s.ovaPoison x (o.ova + b.1) b.2) b) :=
      fun b hb o l => State.Good.foldl hb fun s e hs => State.Good.ite hs (State.ovaPoison_good _ _ _ _ hs)
    refine State.Good.ite (h3 _ (h2 _ ?_ _ _ _ _) _ _) (State.writeGolden_good _ _ _ _ (h3 _ (h2 _ ?_ _ _ _ _) _ _))
    all_goals exact State.Good.ite (State.readTrunkOva_good _ _ _ _ _ (h1 _)) (h1 _)
grind_pattern execObjMapFillEnd_good => OutGood p (@execObjMapFillEnd x s)
theorem execMigrationTileSwitch_good (a0 : PartId) (a1 : State) (h1 : a1.Good p) : OutGood p (@execMigrationTileSwitch a0 a1) := by
  have anc : Anchor p := trivial
  unfold execMigrationTileSwitch
  grind (ematch := 40) (gen := 40) (splits := 24) (ring := false) (linarith := false) (lia := false) (ac := false)
grind_pattern execMigrationTileSwitch_good => OutGood p (@execMigrationTileSwitch a0 a1)
theorem State.queuePlace_good (a0 : State) (a1 : MigReq) (h0 : a0.Good p) : State.Good p (@State.queuePlace a0 a1) := by
  have anc : Anchor p := trivial
  unfold State.queuePlace
  grind (ematch := 40) (gen := 40) (splits := 24) (ring := false) (linarith := false) (lia := false) (ac := false)
grind_pattern State.queuePlace_good => State.Good p (@State.queuePlace a0 a1)
theorem execObjPlace_good (a0 : RingId) (a1 : State) (h1 : a1.Good p) : OutGood p (@execObjPlace a0 a1) := by
  have anc : Anchor p := trivial
  unfold execObjPlace
  grind (ematch := 40) (gen := 40) (splits := 24) (ring := false) (linarith := false) (lia := false) (ac := false)
grind_pattern execObjPlace_good => OutGood p (@execObjPlace a0 a1)
theorem execObjPlaceArrange_good (a0 : RingId) (a1 : State) (h1 : a1.Good p) : OutGood p (@execObjPlaceArrange a0 a1) := by
  have anc : Anchor p := trivial
  unfold execObjPlaceArrange
  grind (ematch := 40) (gen := 40) (splits := 24) (ring := false) (linarith := false) (lia := false) (ac := false)
grind_pattern execObjPlaceArrange_good => OutGood p (@execObjPlaceArrange a0 a1)
theorem execArrangeEnd_good (a0 : PartId) (a1 : State) (h1 : a1.Good p) : OutGood p (@execArrangeEnd a0 a1) := by
  have anc : Anchor p := trivial
  unfold execArrangeEnd
  grind (ematch := 40) (gen := 40) (splits := 24) (ring := false) (linarith := false) (lia := false) (ac := false)
grind_pattern execArrangeEnd_good => OutGood p (@execArrangeEnd a0 a1)
theorem execQuotaSet_good (a0 : RingId) (a1 : State) (h1 : a1.Good p) : OutGood p (@execQuotaSet a0 a1) := by
  have anc : Anchor p := trivial
  unfold execQuotaSet
  grind (ematch := 40) (gen := 40) (splits := 24) (ring := false) (linarith := false) (lia := false) (ac := false)
grind_pattern execQuotaSet_good => OutGood p (@execQuotaSet a0 a1)
theorem State.endRingStep_good (a0 : State) (a1 : ℕ) (a2 : ℕ) (a3 : StepRec) (h0 : a0.Good p) : State.Good p (@State.endRingStep a0 a1 a2 a3) := by
  have anc : Anchor p := trivial
  unfold State.endRingStep
  grind (ematch := 40) (gen := 40) (splits := 24) (ring := false) (linarith := false) (lia := false) (ac := false) [RSQ_TRL_CNT.REPLAY_FAIL, RSQ_TRL_CNT.REPLAYS]
grind_pattern State.endRingStep_good => State.Good p (@State.endRingStep a0 a1 a2 a3)
theorem State.endRing_good (a0 : State) (a1 : ℕ) (a2 : ℕ) (a3 : ℕ) (h0 : a0.Good p) : State.Good p (@State.endRing a0 a1 a2 a3) := by
  have anc : Anchor p := trivial
  unfold State.endRing
  grind (ematch := 40) (gen := 40) (splits := 24) (ring := false) (linarith := false) (lia := false) (ac := false)
grind_pattern State.endRing_good => State.Good p (@State.endRing a0 a1 a2 a3)
theorem State.restartThreads_good (a0 : State) (a1 : ℕ) (h0 : a0.Good p) : State.Good p (@State.restartThreads a0 a1) := by
  have anc : Anchor p := trivial
  unfold State.restartThreads
  grind (ematch := 40) (gen := 40) (splits := 24) (ring := false) (linarith := false) (lia := false) (ac := false)
grind_pattern State.restartThreads_good => State.Good p (@State.restartThreads a0 a1)
theorem State.writeAreas_good (a0 : State) (a1 : ℕ) (a2 : ℕ) (a3 : List (ℕ × StepRec)) (h0 : a0.Good p) : State.Good p (@State.writeAreas a0 a1 a2 a3) := by
  have anc : Anchor p := trivial
  unfold State.writeAreas
  grind (ematch := 40) (gen := 40) (splits := 24) (ring := false) (linarith := false) (lia := false) (ac := false)
grind_pattern State.writeAreas_good => State.Good p (@State.writeAreas a0 a1 a2 a3)
theorem State.exportsOf_good (a0 : State) (a1 : ℕ) (h0 : a0.Good p) : State.Good p (@State.exportsOf a0 a1) := by
  have anc : Anchor p := trivial
  unfold State.exportsOf
  grind (ematch := 40) (gen := 40) (splits := 24) (ring := false) (linarith := false) (lia := false) (ac := false)
grind_pattern State.exportsOf_good => State.Good p (@State.exportsOf a0 a1)
theorem State.heartbeats_good (a0 : State) (a1 : ℕ) (h0 : a0.Good p) : State.Good p (@State.heartbeats a0 a1) := by
  have anc : Anchor p := trivial
  unfold State.heartbeats
  grind (ematch := 40) (gen := 40) (splits := 24) (ring := false) (linarith := false) (lia := false) (ac := false)
grind_pattern State.heartbeats_good => State.Good p (@State.heartbeats a0 a1)
theorem Adm.foldl_good {α : Type} {x : Adm} {f : Adm → α → Adm} {l : List α} (hx : x.s.Good p) (hf : ∀ x a, State.Good p x.s → (f x a).s.Good p) :
    (l.foldl f x).s.Good p := by
  induction l generalizing x with
  | nil => exact hx
  | cons a l ih => exact ih (hf _ _ hx)
grind_pattern Adm.foldl_good => State.Good p (l.foldl f x).s
theorem Adm.attempt_good {a : Adm} (hs : a.s.Good p) (i q k : Nat) (r : StepRec) : (a.attempt i q k r).2.s.Good p := by
  unfold Adm.attempt
  dsimp only
  split
  · exact hs
  · exact State.refuseStep_good _ _ _ _ _ _ (State.Good.ite (hs.inc _ _ (by decide)) hs)
  · split
    · refine State.refuseStep_good _ _ _ _ _ _ (State.Good.foldl (hs.inc _ _ (by decide)) fun s e h => ?_)
      exact State.eventTo_good _ _ _ _ _ (State.Good.inc (State.modSeq_good _ _ _ h) _ _ (by decide))
    · split
      · exact State.refuseStep_good _ _ _ _ _ _ (hs.inc _ _ (by decide))
      · split
        · exact hs
        · split
          · split
            · exact hs
            · exact State.refuseStep_good _ _ _ _ _ _ hs
          · exact State.setSteps_good _ _ _ (hs.incr _ _ _ (by decide))
grind_pattern Adm.attempt_good => a.attempt i q k r, Anchor p
theorem Adm.replays_good {a : Adm} (h : a.s.Good p) (i q k n : Nat) (l : List StepRec) : (a.replays i q k n l).s.Good p := by
  have anc : Anchor p := trivial
  fun_induction Adm.replays a i q k n l
  all_goals grind (ematch := 40) (gen := 40) (splits := 24) (ring := false) (linarith := false) (lia := false) (ac := false) [RSQ_TRL_RING.SCHED_RING]
grind_pattern Adm.replays_good => State.Good p (a.replays i q k n l).s
theorem Adm.contextSteps_good {a : Adm} (h : a.s.Good p) (i q k n : Nat) (l : List StepRec) : (a.contextSteps i q k n l).s.Good p := by
  have anc : Anchor p := trivial
  fun_induction Adm.contextSteps a i q k n l
  all_goals grind (ematch := 40) (gen := 40) (splits := 24) (ring := false) (linarith := false) (lia := false) (ac := false) [RSQ_TRL_RING.SCHED_RING]
grind_pattern Adm.contextSteps_good => State.Good p (a.contextSteps i q k n l).s
theorem State.admitPart_good {s : State} (h : s.Good p) (i q k : Nat) : (s.admitPart i q k).s.Good p := by
  have anc : Anchor p := trivial
  unfold State.admitPart
  grind (ematch := 40) (gen := 40) (splits := 24) (ring := false) (linarith := false) (lia := false) (ac := false) [RSQ_TRL_RING.SCHED_RING]
grind_pattern State.admitPart_good => State.Good p (s.admitPart i q k).s
theorem State.boundary_good (a0 : State) (a1 : ℕ) (a2 : ℕ) (h0 : a0.Good p) : State.Good p (@State.boundary a0 a1 a2) := by
  have anc : Anchor p := trivial
  unfold State.boundary
  grind (ematch := 40) (gen := 40) (splits := 24) (ring := false) (linarith := false) (lia := false) (ac := false) [RSQ_TRL_RING.SCHED_RING]
grind_pattern State.boundary_good => State.Good p (@State.boundary a0 a1 a2)
theorem State.idleBoundary_good (a0 : State) (a1 : ℕ) (h0 : a0.Good p) : State.Good p (@State.idleBoundary a0 a1) := by
  have anc : Anchor p := trivial
  unfold State.idleBoundary
  grind (ematch := 40) (gen := 40) (splits := 24) (ring := false) (linarith := false) (lia := false) (ac := false) [RSQ_TRL_RING.SCHED_RING]
grind_pattern State.idleBoundary_good => State.Good p (@State.idleBoundary a0 a1)
theorem execAdmittingBoundary_good (a0 : PartId) (a1 : State) (h1 : a1.Good p) : OutGood p (@execAdmittingBoundary a0 a1) := by
  have anc : Anchor p := trivial
  unfold execAdmittingBoundary
  grind (ematch := 40) (gen := 40) (splits := 24) (ring := false) (linarith := false) (lia := false) (ac := false)
grind_pattern execAdmittingBoundary_good => OutGood p (@execAdmittingBoundary a0 a1)

end Sys2Proof.Machine
end

