-- ==== Sys2Proof/Laws/GoodUnits.lean ====
section
/-! SUPPORT. The canonical form of a state: what cells, windows, Network Time, trails, the Lattice, contexts and migration keep. -/

namespace Sys2Proof.Machine

-- One theorem at a time: each thread takes a stack of its own.
set_option Elab.async false

variable {p : List Instr}

theorem State.doTake_good (a0 : State) (a1 : ℕ) (a2 : ℕ) (a3 : ℕ) (a4 : ℕ) (h0 : a0.Good p) : State.Good p (@State.doTake a0 a1 a2 a3 a4) := by
  have anc : Anchor p := trivial
  unfold State.doTake
  grind (ematch := 40) (gen := 40) (splits := 24) (ring := false) (linarith := false) (lia := false) (ac := false)
grind_pattern State.doTake_good => State.Good p (@State.doTake a0 a1 a2 a3 a4)
theorem State.doPut_good (a0 : State) (a1 : ℕ) (a2 : ℕ) (a3 : ℕ) (h0 : a0.Good p) : State.Good p (@State.doPut a0 a1 a2 a3) := by
  have anc : Anchor p := trivial
  unfold State.doPut
  grind (ematch := 40) (gen := 40) (splits := 24) (ring := false) (linarith := false) (lia := false) (ac := false)
grind_pattern State.doPut_good => State.Good p (@State.doPut a0 a1 a2 a3)
theorem execTake_good (a0 : Lcid) (a1 : TSlot) (a2 : State) (h2 : a2.Good p) : OutGood p (@execTake a0 a1 a2) := by
  have anc : Anchor p := trivial
  unfold execTake
  grind (ematch := 40) (gen := 40) (splits := 24) (ring := false) (linarith := false) (lia := false) (ac := false)
grind_pattern execTake_good => OutGood p (@execTake a0 a1 a2)
theorem execPut_good (a0 : Lcid) (a1 : TSlot) (a2 : State) (h2 : a2.Good p) : OutGood p (@execPut a0 a1 a2) := by
  have anc : Anchor p := trivial
  unfold execPut
  grind (ematch := 40) (gen := 40) (splits := 24) (ring := false) (linarith := false) (lia := false) (ac := false)
grind_pattern execPut_good => OutGood p (@execPut a0 a1 a2)
theorem execPeek_good (a0 : Lcid) (a1 : TSlot) (a2 : State) (h2 : a2.Good p) : OutGood p (@execPeek a0 a1 a2) := by
  have anc : Anchor p := trivial
  unfold execPeek
  grind (ematch := 40) (gen := 40) (splits := 24) (ring := false) (linarith := false) (lia := false) (ac := false)
grind_pattern execPeek_good => OutGood p (@execPeek a0 a1 a2)
theorem State.setOrDefine_good (a0 : State) (a1 : ℕ) (a2 : ℕ) (a3 : Word) (a4 : Bool) (h0 : a0.Good p) : State.Good p (@State.setOrDefine a0 a1 a2 a3 a4) := by
  have anc : Anchor p := trivial
  unfold State.setOrDefine
  grind (ematch := 40) (gen := 40) (splits := 24) (ring := false) (linarith := false) (lia := false) (ac := false)
grind_pattern State.setOrDefine_good => State.Good p (@State.setOrDefine a0 a1 a2 a3 a4)
theorem execCset_good (a0 : Lcid) (a1 : TSlot) (a2 : State) (h2 : a2.Good p) : OutGood p (@execCset a0 a1 a2) := by
  have anc : Anchor p := trivial
  unfold execCset
  grind (ematch := 40) (gen := 40) (splits := 24) (ring := false) (linarith := false) (lia := false) (ac := false)
grind_pattern execCset_good => OutGood p (@execCset a0 a1 a2)
theorem execCclr_good (a0 : Lcid) (a1 : TSlot) (a2 : State) (h2 : a2.Good p) : OutGood p (@execCclr a0 a1 a2) := by
  have anc : Anchor p := trivial
  unfold execCclr
  grind (ematch := 40) (gen := 40) (splits := 24) (ring := false) (linarith := false) (lia := false) (ac := false)
grind_pattern execCclr_good => OutGood p (@execCclr a0 a1 a2)
theorem State.setWin_good (a0 : State) (a1 : ℕ) (a2 : ℕ) (a3 : Window) (h0 : a0.Good p) : State.Good p (@State.setWin a0 a1 a2 a3) := by
  have anc : Anchor p := trivial
  unfold State.setWin
  grind (ematch := 40) (gen := 40) (splits := 24) (ring := false) (linarith := false) (lia := false) (ac := false) [PRT_CNP_STATUS.WIN_OPEN]
grind_pattern State.setWin_good => State.Good p (@State.setWin a0 a1 a2 a3)
theorem execWopen_good (a0 : Lcid) (a1 : TSlot) (a2 : State) (h2 : a2.Good p) : OutGood p (@execWopen a0 a1 a2) := by
  have anc : Anchor p := trivial
  unfold execWopen
  grind (ematch := 40) (gen := 40) (splits := 24) (ring := false) (linarith := false) (lia := false) (ac := false)
grind_pattern execWopen_good => OutGood p (@execWopen a0 a1 a2)
theorem execWclose_good (a0 : Lcid) (a1 : TSlot) (a2 : State) (h2 : a2.Good p) : OutGood p (@execWclose a0 a1 a2) := by
  have anc : Anchor p := trivial
  unfold execWclose
  grind (ematch := 40) (gen := 40) (splits := 24) (ring := false) (linarith := false) (lia := false) (ac := false)
grind_pattern execWclose_good => OutGood p (@execWclose a0 a1 a2)
theorem execTagWaitResume_good (a0 : Lcid) (a1 : TSlot) (a2 : State) (h2 : a2.Good p) : OutGood p (@execTagWaitResume a0 a1 a2) := by
  have anc : Anchor p := trivial
  unfold execTagWaitResume
  grind (ematch := 40) (gen := 40) (splits := 24) (ring := false) (linarith := false) (lia := false) (ac := false)
grind_pattern execTagWaitResume_good => OutGood p (@execTagWaitResume a0 a1 a2)
theorem State.rewriteCaps_good (a0 : State) (a1 : Word) (h0 : a0.Good p) : State.Good p (@State.rewriteCaps a0 a1) := by
  have anc : Anchor p := trivial
  unfold State.rewriteCaps
  grind (ematch := 40) (gen := 40) (splits := 24) (ring := false) (linarith := false) (lia := false) (ac := false) [HUB_CAP_RES.RES_GEN, VF_INFO.PRESENT]
grind_pattern State.rewriteCaps_good => State.Good p (@State.rewriteCaps a0 a1)
theorem State.leaveTrail_good (a0 : State) (a1 : ℕ) (h0 : a0.Good p) : State.Good p (@State.leaveTrail a0 a1) := by
  have anc : Anchor p := trivial
  unfold State.leaveTrail
  grind (ematch := 40) (gen := 40) (splits := 24) (ring := false) (linarith := false) (lia := false) (ac := false)
grind_pattern State.leaveTrail_good => State.Good p (@State.leaveTrail a0 a1)
theorem State.checkCoverage_good (a0 : State) (h0 : a0.Good p) : State.Good p (@State.checkCoverage a0) := by
  have anc : Anchor p := trivial
  unfold State.checkCoverage
  grind (ematch := 40) (gen := 40) (splits := 24) (ring := false) (linarith := false) (lia := false) (ac := false)
grind_pattern State.checkCoverage_good => State.Good p (@State.checkCoverage a0)
theorem State.afterRetire_good (a0 : State) (a1 : Word) (h0 : a0.Good p) : State.Good p (@State.afterRetire a0 a1) := by
  have anc : Anchor p := trivial
  unfold State.afterRetire
  grind (ematch := 40) (gen := 40) (splits := 24) (ring := false) (linarith := false) (lia := false) (ac := false) [HIF_STATUS.READY]
grind_pattern State.afterRetire_good => State.Good p (@State.afterRetire a0 a1)
theorem State.memberRetired_good (a0 : State) (a1 : ℕ) (a2 : ℕ) (h0 : a0.Good p) : State.Good p (@State.memberRetired a0 a1 a2) := by
  have anc : Anchor p := trivial
  unfold State.memberRetired
  grind (ematch := 40) (gen := 40) (splits := 24) (ring := false) (linarith := false) (lia := false) (ac := false)
grind_pattern State.memberRetired_good => State.Good p (@State.memberRetired a0 a1 a2)
theorem execHeartbeatTimeout_good (a0 : PartId) (a1 : Fin 256) (a2 : State) (h2 : a2.Good p) : OutGood p (@execHeartbeatTimeout a0 a1 a2) := by
  have anc : Anchor p := trivial
  unfold execHeartbeatTimeout
  grind (ematch := 40) (gen := 40) (splits := 24) (ring := false) (linarith := false) (lia := false) (ac := false)
grind_pattern execHeartbeatTimeout_good => OutGood p (@execHeartbeatTimeout a0 a1 a2)
theorem execCoreRetire_good (a0 : Lcid) (a1 : State) (h1 : a1.Good p) : OutGood p (@execCoreRetire a0 a1) := by
  have anc : Anchor p := trivial
  unfold execCoreRetire
  grind (ematch := 40) (gen := 40) (splits := 24) (ring := false) (linarith := false) (lia := false) (ac := false) [HUB_CAP_RES.CORES_ACTIVE, HUB_CAP_RES.PART_PRESENT]
grind_pattern execCoreRetire_good => OutGood p (@execCoreRetire a0 a1)
theorem State.setStreams_good (a0 : State) (a1 : ℕ) (a2 : List StreamRun) (h0 : a0.Good p) : State.Good p (@State.setStreams a0 a1 a2) := by
  have anc : Anchor p := trivial
  unfold State.setStreams
  grind (ematch := 40) (gen := 40) (splits := 24) (ring := false) (linarith := false) (lia := false) (ac := false)
grind_pattern State.setStreams_good => State.Good p (@State.setStreams a0 a1 a2)
theorem State.putRun_good (a0 : State) (a1 : ℕ) (a2 : ℕ) (a3 : StreamRun) (h0 : a0.Good p) : State.Good p (@State.putRun a0 a1 a2 a3) := by
  have anc : Anchor p := trivial
  unfold State.putRun
  grind (ematch := 40) (gen := 40) (splits := 24) (ring := false) (linarith := false) (lia := false) (ac := false)
grind_pattern State.putRun_good => State.Good p (@State.putRun a0 a1 a2 a3)
theorem State.freeStage_good (a0 : State) (a1 : ℕ) (a2 : List (Option ℕ)) (h0 : a0.Good p) : State.Good p (@State.freeStage a0 a1 a2) := by
  have anc : Anchor p := trivial
  unfold State.freeStage
  grind (ematch := 40) (gen := 40) (splits := 24) (ring := false) (linarith := false) (lia := false) (ac := false)
grind_pattern State.freeStage_good => State.Good p (@State.freeStage a0 a1 a2)
theorem State.freeHeld_good (a0 : State) (a1 : ℕ) (h0 : a0.Good p) : State.Good p (@State.freeHeld a0 a1) := by
  have anc : Anchor p := trivial
  unfold State.freeHeld
  grind (ematch := 40) (gen := 40) (splits := 24) (ring := false) (linarith := false) (lia := false) (ac := false)
grind_pattern State.freeHeld_good => State.Good p (@State.freeHeld a0 a1)
theorem State.endRun_good (a0 : State) (a1 : ℕ) (a2 : ℕ) (h0 : a0.Good p) : State.Good p (@State.endRun a0 a1 a2) := by
  have anc : Anchor p := trivial
  unfold State.endRun
  grind (ematch := 40) (gen := 40) (splits := 24) (ring := false) (linarith := false) (lia := false) (ac := false)
grind_pattern State.endRun_good => State.Good p (@State.endRun a0 a1 a2)
theorem State.discardRun_good (a0 : State) (a1 : ℕ) (a2 : ℕ) (h0 : a0.Good p) : State.Good p (@State.discardRun a0 a1 a2) := by
  have anc : Anchor p := trivial
  unfold State.discardRun
  grind (ematch := 40) (gen := 40) (splits := 24) (ring := false) (linarith := false) (lia := false) (ac := false) [PRT_XL_STREAM.STREAM_ERR]
grind_pattern State.discardRun_good => State.Good p (@State.discardRun a0 a1 a2)
theorem State.settleRun_good (a0 : State) (a1 : ℕ) (a2 : ℕ) (a3 : StreamEnt) (a4 : StreamRun) (a5 : ℕ) (h0 : a0.Good p) : State.Good p (@State.settleRun a0 a1 a2 a3 a4 a5) := by
  have anc : Anchor p := trivial
  unfold State.settleRun
  grind (ematch := 40) (gen := 40) (splits := 24) (ring := false) (linarith := false) (lia := false) (ac := false) [PRT_XL_STREAM.TIER_MISMATCH]
grind_pattern State.settleRun_good => State.Good p (@State.settleRun a0 a1 a2 a3 a4 a5)
theorem State.resolveRun_good (a0 : State) (a1 : ℕ) (a2 : ℕ) (h0 : a0.Good p) : State.Good p (@State.resolveRun a0 a1 a2) := by
  have anc : Anchor p := trivial
  unfold State.resolveRun
  grind (ematch := 40) (gen := 40) (splits := 24) (ring := false) (linarith := false) (lia := false) (ac := false)
grind_pattern State.resolveRun_good => State.Good p (@State.resolveRun a0 a1 a2)
theorem State.startStream_good (a0 : State) (a1 : ℕ) (a2 : ℕ) (a3 : Bool) (h0 : a0.Good p) : State.Good p (@State.startStream a0 a1 a2 a3) := by
  have anc : Anchor p := trivial
  unfold State.startStream
  grind (ematch := 40) (gen := 40) (splits := 24) (ring := false) (linarith := false) (lia := false) (ac := false)
grind_pattern State.startStream_good => State.Good p (@State.startStream a0 a1 a2 a3)
theorem State.startStaging_good (a0 : State) (a1 : ℕ) (h0 : a0.Good p) : State.Good p (@State.startStaging a0 a1) := by
  have anc : Anchor p := trivial
  unfold State.startStaging
  grind (ematch := 40) (gen := 40) (splits := 24) (ring := false) (linarith := false) (lia := false) (ac := false)
grind_pattern State.startStaging_good => State.Good p (@State.startStaging a0 a1)
theorem State.streamGate_good (a0 : State) (a1 : ℕ) (a2 : ℕ) (h0 : a0.Good p) : State.Good p (@State.streamGate a0 a1 a2) := by
  have anc : Anchor p := trivial
  unfold State.streamGate
  grind (ematch := 40) (gen := 40) (splits := 24) (ring := false) (linarith := false) (lia := false) (ac := false)
grind_pattern State.streamGate_good => State.Good p (@State.streamGate a0 a1 a2)
theorem State.stageTile_good (a0 : State) (a1 : ℕ) (a2 : ℕ) (a3 : StreamRun) (h0 : a0.Good p) : State.Good p (@State.stageTile a0 a1 a2 a3) := by
  have anc : Anchor p := trivial
  unfold State.stageTile
  grind (ematch := 40) (gen := 40) (splits := 24) (ring := false) (linarith := false) (lia := false) (ac := false) [PRT_XL_STREAM.STAGE_WAITS]
grind_pattern State.stageTile_good => State.Good p (@State.stageTile a0 a1 a2 a3)
theorem execStagingEnd_good (a0 : PartId) (a1 : ℕ) (a2 : State) (h2 : a2.Good p) : OutGood p (@execStagingEnd a0 a1 a2) := by
  have anc : Anchor p := trivial
  unfold execStagingEnd
  grind (ematch := 40) (gen := 40) (splits := 24) (ring := false) (linarith := false) (lia := false) (ac := false)
grind_pattern execStagingEnd_good => OutGood p (@execStagingEnd a0 a1 a2)
theorem State.poisonWords_good (a0 : State) (a1 : ℕ) (a2 : ℕ) (a3 : ℕ) (a4 : ℕ) (a5 : Bool) (h0 : a0.Good p) : State.Good p (@State.poisonWords a0 a1 a2 a3 a4 a5) := by
  have anc : Anchor p := trivial
  unfold State.poisonWords
  grind (ematch := 40) (gen := 40) (splits := 24) (ring := false) (linarith := false) (lia := false) (ac := false)
grind_pattern State.poisonWords_good => State.Good p (@State.poisonWords a0 a1 a2 a3 a4 a5)
theorem State.deliver_good (a0 : State) (a1 : ℕ) (a2 : ℕ) (a3 : StreamRun) (a4 : StreamEnt) (h0 : a0.Good p) : State.Good p (@State.deliver a0 a1 a2 a3 a4) := by
  have anc : Anchor p := trivial
  unfold State.deliver
  grind (ematch := 40) (gen := 40) (splits := 24) (ring := false) (linarith := false) (lia := false) (ac := false)
grind_pattern State.deliver_good => State.Good p (@State.deliver a0 a1 a2 a3 a4)
theorem execWindowDeliveryEnd_good (a0 : PartId) (a1 : ℕ) (a2 : State) (h2 : a2.Good p) : OutGood p (@execWindowDeliveryEnd a0 a1 a2) := by
  have anc : Anchor p := trivial
  unfold execWindowDeliveryEnd
  grind (ematch := 40) (gen := 40) (splits := 24) (ring := false) (linarith := false) (lia := false) (ac := false)
grind_pattern execWindowDeliveryEnd_good => OutGood p (@execWindowDeliveryEnd a0 a1 a2)
theorem State.endStreams_good (a0 : State) (a1 : ℕ) (h0 : a0.Good p) : State.Good p (@State.endStreams a0 a1) := by
  have anc : Anchor p := trivial
  unfold State.endStreams
  grind (ematch := 40) (gen := 40) (splits := 24) (ring := false) (linarith := false) (lia := false) (ac := false)
grind_pattern State.endStreams_good => State.Good p (@State.endStreams a0 a1)
theorem State.modNtu_good (a0 : State) (a1 : Ntu → Ntu) (h0 : a0.Good p) : State.Good p (@State.modNtu a0 a1) := by
  have anc : Anchor p := trivial
  unfold State.modNtu
  grind (ematch := 40) (gen := 40) (splits := 24) (ring := false) (linarith := false) (lia := false) (ac := false)
grind_pattern State.modNtu_good => State.Good p (@State.modNtu a0 a1)
theorem State.tickBegins_good (a0 : State) (h0 : a0.Good p) : State.Good p (@State.tickBegins a0) := by
  have anc : Anchor p := trivial
  unfold State.tickBegins
  grind (ematch := 40) (gen := 40) (splits := 24) (ring := false) (linarith := false) (lia := false) (ac := false) [NTU_CTL.PPS_OUT_EN, NTU_CTL.REF_OUT_EN]
grind_pattern State.tickBegins_good => State.Good p (@State.tickBegins a0)
theorem State.tickPass_good (a0 : State) (h0 : a0.Good p) : State.Good p (@State.tickPass a0) := by
  have anc : Anchor p := trivial
  unfold State.tickPass
  grind (ematch := 40) (gen := 40) (splits := 24) (ring := false) (linarith := false) (lia := false) (ac := false)
grind_pattern State.tickPass_good => State.Good p (@State.tickPass a0)
theorem State.instant_good (a0 : State) (h0 : a0.Good p) : State.Good p (@State.instant a0) := by
  have anc : Anchor p := trivial
  unfold State.instant
  grind (ematch := 40) (gen := 40) (splits := 24) (ring := false) (linarith := false) (lia := false) (ac := false)
grind_pattern State.instant_good => State.Good p (@State.instant a0)
theorem State.ntuEvt_good (a0 : State) (a1 : Fld) (h0 : a0.Good p) (hf : a1.reg ≠ .HUB_ID) : State.Good p (@State.ntuEvt a0 a1) := by
  have anc : Anchor p := trivial
  unfold State.ntuEvt
  grind (ematch := 40) (gen := 40) (splits := 24) (ring := false) (linarith := false) (lia := false) (ac := false)
grind_pattern State.ntuEvt_good => State.Good p (@State.ntuEvt a0 a1)
theorem State.guards_good (a0 : State) (h0 : a0.Good p) : State.Good p (@State.guards a0) := by
  have anc : Anchor p := trivial
  unfold State.guards
  grind (ematch := 40) (gen := 40) (splits := 24) (ring := false) (linarith := false) (lia := false) (ac := false) [NTU_STATUS.BOARD_OK, NTU_STATUS.SPAN_OK, NTU_TE.TE_PEER, NTU_GUARD.BOARD_GUARD, NTU_TE.TE_EST, NTU_GUARD.SPAN_GUARD, NTU_EVT.GUARD_LOST]
grind_pattern State.guards_good => State.Good p (@State.guards a0)
theorem State.teRefresh_good (a0 : State) (h0 : a0.Good p) : State.Good p (@State.teRefresh a0) := by
  have anc : Anchor p := trivial
  unfold State.teRefresh
  grind (ematch := 40) (gen := 40) (splits := 24) (ring := false) (linarith := false) (lia := false) (ac := false) [NTU_TE.TE_EST, NTU_TE.TE_PEER]
grind_pattern State.teRefresh_good => State.Good p (@State.teRefresh a0)
theorem State.restartGrowth_good (a0 : State) (h0 : a0.Good p) : State.Good p (@State.restartGrowth a0) := by
  have anc : Anchor p := trivial
  unfold State.restartGrowth
  grind (ematch := 40) (gen := 40) (splits := 24) (ring := false) (linarith := false) (lia := false) (ac := false) [NTU_TE.TE_EST, NTU_TE.TE_PEER]
grind_pattern State.restartGrowth_good => State.Good p (@State.restartGrowth a0)
theorem State.setDState_good (a0 : State) (a1 : ℕ) (h0 : a0.Good p) : State.Good p (@State.setDState a0 a1) := by
  have anc : Anchor p := trivial
  unfold State.setDState
  grind (ematch := 40) (gen := 40) (splits := 24) (ring := false) (linarith := false) (lia := false) (ac := false) [NTU_STATUS.STATE, NTU_EVT.LOCK_GAINED, NTU_EVT.LOCK_LOST]
grind_pattern State.setDState_good => State.Good p (@State.setDState a0 a1)
theorem State.loseLock_good (a0 : State) (h0 : a0.Good p) : State.Good p (@State.loseLock a0) := by
  have anc : Anchor p := trivial
  unfold State.loseLock
  grind (ematch := 40) (gen := 40) (splits := 24) (ring := false) (linarith := false) (lia := false) (ac := false)
grind_pattern State.loseLock_good => State.Good p (@State.loseLock a0)
theorem State.measure_good (a0 : State) (a1 : ℤ) (h0 : a0.Good p) : State.Good p (@State.measure a0 a1) := by
  have anc : Anchor p := trivial
  unfold State.measure
  grind (ematch := 40) (gen := 40) (splits := 24) (ring := false) (linarith := false) (lia := false) (ac := false) [NTU_SERVO.STEP_THRESH, NTU_STATUS.STEP_PENDING]
grind_pattern State.measure_good => State.Good p (@State.measure a0 a1)
theorem State.moveTicks_good (a0 : State) (a1 : ℤ) (h0 : a0.Good p) : State.Good p (@State.moveTicks a0 a1) := by
  have anc : Anchor p := trivial
  unfold State.moveTicks
  grind (ematch := 40) (gen := 40) (splits := 24) (ring := false) (linarith := false) (lia := false) (ac := false)
grind_pattern State.moveTicks_good => State.Good p (@State.moveTicks a0 a1)
theorem State.endWindows_good (a0 : State) (h0 : a0.Good p) : State.Good p (@State.endWindows a0) := by
  have anc : Anchor p := trivial
  unfold State.endWindows
  grind (ematch := 40) (gen := 40) (splits := 24) (ring := false) (linarith := false) (lia := false) (ac := false)
grind_pattern State.endWindows_good => State.Good p (@State.endWindows a0)
theorem execNtuStep_good (a0 : State) (h0 : a0.Good p) : OutGood p (@execNtuStep a0) := by
  have anc : Anchor p := trivial
  unfold execNtuStep
  grind (ematch := 40) (gen := 40) (splits := 24) (ring := false) (linarith := false) (lia := false) (ac := false) [NTU_STATUS.STEP_PENDING, NTU_EVT.STEPPED]
grind_pattern execNtuStep_good => OutGood p (@execNtuStep a0)
theorem State.setFsrc_good (a0 : State) (a1 : ℕ) (h0 : a0.Good p) : State.Good p (@State.setFsrc a0 a1) := by
  have anc : Anchor p := trivial
  unfold State.setFsrc
  grind (ematch := 40) (gen := 40) (splits := 24) (ring := false) (linarith := false) (lia := false) (ac := false) [NTU_STATUS.FSRC_ACTIVE]
grind_pattern State.setFsrc_good => State.Good p (@State.setFsrc a0 a1)
theorem State.chooseFsrc_good (a0 : State) (h0 : a0.Good p) : State.Good p (@State.chooseFsrc a0) := by
  have anc : Anchor p := trivial
  unfold State.chooseFsrc
  grind (ematch := 40) (gen := 40) (splits := 24) (ring := false) (linarith := false) (lia := false) (ac := false) [NTU_CTL.FSRC, NTU_STATUS.REF_PRESENT, NTU_EVT.REF_LOST]
grind_pattern State.chooseFsrc_good => State.Good p (@State.chooseFsrc a0)
theorem State.setRef_good (a0 : State) (a1 : Bool) (h0 : a0.Good p) : State.Good p (@State.setRef a0 a1) := by
  have anc : Anchor p := trivial
  unfold State.setRef
  grind (ematch := 40) (gen := 40) (splits := 24) (ring := false) (linarith := false) (lia := false) (ac := false) [NTU_CTL.FSRC, NTU_STATUS.REF_PRESENT]
grind_pattern State.setRef_good => State.Good p (@State.setRef a0 a1)
theorem State.selectRef_good (a0 : State) (h0 : a0.Good p) : State.Good p (@State.selectRef a0) := by
  have anc : Anchor p := trivial
  unfold State.selectRef
  grind (ematch := 40) (gen := 40) (splits := 24) (ring := false) (linarith := false) (lia := false) (ac := false) [NTU_CTL.FSRC, NTU_STATUS.REF_PRESENT]
grind_pattern State.selectRef_good => State.Good p (@State.selectRef a0)
theorem execPllLock_good (a0 : State) (h0 : a0.Good p) : OutGood p (@execPllLock a0) := by
  have anc : Anchor p := trivial
  unfold execPllLock
  grind (ematch := 40) (gen := 40) (splits := 24) (ring := false) (linarith := false) (lia := false) (ac := false)
grind_pattern execPllLock_good => OutGood p (@execPllLock a0)
theorem execRefLost_good (a0 : State) (h0 : a0.Good p) : OutGood p (@execRefLost a0) := by
  have anc : Anchor p := trivial
  unfold execRefLost
  grind (ematch := 40) (gen := 40) (splits := 24) (ring := false) (linarith := false) (lia := false) (ac := false) [NTU_CTL.FSRC]
grind_pattern execRefLost_good => OutGood p (@execRefLost a0)
theorem execRefReturn_good (a0 : State) (h0 : a0.Good p) : OutGood p (@execRefReturn a0) := by
  have anc : Anchor p := trivial
  unfold execRefReturn
  grind (ematch := 40) (gen := 40) (splits := 24) (ring := false) (linarith := false) (lia := false) (ac := false) [NTU_CTL.FSRC]
grind_pattern execRefReturn_good => OutGood p (@execRefReturn a0)
theorem execPpsInEdge_good (a0 : Fin 1000) (a1 : State) (h1 : a1.Good p) : OutGood p (@execPpsInEdge a0 a1) := by
  have anc : Anchor p := trivial
  unfold execPpsInEdge
  grind (ematch := 40) (gen := 40) (splits := 24) (ring := false) (linarith := false) (lia := false) (ac := false) [NTU_STATUS.PPS_PRESENT, NTU_TOD_SET.SEC]
grind_pattern execPpsInEdge_good => OutGood p (@execPpsInEdge a0 a1)
theorem execPpsMissing_good (a0 : State) (h0 : a0.Good p) : OutGood p (@execPpsMissing a0) := by
  have anc : Anchor p := trivial
  unfold execPpsMissing
  grind (ematch := 40) (gen := 40) (splits := 24) (ring := false) (linarith := false) (lia := false) (ac := false) [NTU_STATUS.PPS_PRESENT, NTU_EVT.PPS_MISSING]
grind_pattern execPpsMissing_good => OutGood p (@execPpsMissing a0)
theorem execNoValidMeasurement_good (a0 : State) (h0 : a0.Good p) : OutGood p (@execNoValidMeasurement a0) := by
  have anc : Anchor p := trivial
  unfold execNoValidMeasurement
  grind (ematch := 40) (gen := 40) (splits := 24) (ring := false) (linarith := false) (lia := false) (ac := false)
grind_pattern execNoValidMeasurement_good => OutGood p (@execNoValidMeasurement a0)
theorem State.chooseMaster_good (a0 : State) (h0 : a0.Good p) : State.Good p (@State.chooseMaster a0) := by
  have anc : Anchor p := trivial
  unfold State.chooseMaster
  grind (ematch := 40) (gen := 40) (splits := 24) (ring := false) (linarith := false) (lia := false) (ac := false) [NTU_STATUS.PTP_MASTER_SEEN, NTU_STATUS.TSRC_ACTIVE, NTU_EVT.SRC_SWITCH]
grind_pattern State.chooseMaster_good => State.Good p (@State.chooseMaster a0)
theorem execPtpAnnounce_good (a0 : Fin 2) (a1 : PtpHdr) (a2 : ℕ) (a3 : State) (h3 : a3.Good p) : OutGood p (@execPtpAnnounce a0 a1 a2 a3) := by
  have anc : Anchor p := trivial
  unfold execPtpAnnounce
  grind (ematch := 40) (gen := 40) (splits := 24) (ring := false) (linarith := false) (lia := false) (ac := false)
grind_pattern execPtpAnnounce_good => OutGood p (@execPtpAnnounce a0 a1 a2 a3)
theorem execAnnounceTimeout_good (a0 : Fin 2) (a1 : State) (h1 : a1.Good p) : OutGood p (@execAnnounceTimeout a0 a1) := by
  have anc : Anchor p := trivial
  unfold execAnnounceTimeout
  grind (ematch := 40) (gen := 40) (splits := 24) (ring := false) (linarith := false) (lia := false) (ac := false)
grind_pattern execAnnounceTimeout_good => OutGood p (@execAnnounceTimeout a0 a1)
theorem State.setEx_good (a0 : State) (a1 : ℕ) (a2 : PtpEx) (h0 : a0.Good p) : State.Good p (@State.setEx a0 a1 a2) := by
  have anc : Anchor p := trivial
  unfold State.setEx
  grind (ematch := 40) (gen := 40) (splits := 24) (ring := false) (linarith := false) (lia := false) (ac := false)
grind_pattern State.setEx_good => State.Good p (@State.setEx a0 a1 a2)
theorem State.askDelay_good (a0 : State) (a1 : ℕ) (a2 : PtpEx) (h0 : a0.Good p) : State.Good p (@State.askDelay a0 a1 a2) := by
  have anc : Anchor p := trivial
  unfold State.askDelay
  grind (ematch := 40) (gen := 40) (splits := 24) (ring := false) (linarith := false) (lia := false) (ac := false)
grind_pattern State.askDelay_good => State.Good p (@State.askDelay a0 a1 a2)
theorem execPtpSync_good (a0 : Fin 2) (a1 : PtpHdr) (a2 : Bool) (a3 : ℤ) (a4 : ℤ) (a5 : ℤ) (a6 : State) (h6 : a6.Good p) : OutGood p (@execPtpSync a0 a1 a2 a3 a4 a5 a6) := by
  have anc : Anchor p := trivial
  unfold execPtpSync
  grind (ematch := 40) (gen := 40) (splits := 24) (ring := false) (linarith := false) (lia := false) (ac := false)
grind_pattern execPtpSync_good => OutGood p (@execPtpSync a0 a1 a2 a3 a4 a5 a6)
theorem execPtpFollowUp_good (a0 : Fin 2) (a1 : PtpHdr) (a2 : ℤ) (a3 : ℤ) (a4 : State) (h4 : a4.Good p) : OutGood p (@execPtpFollowUp a0 a1 a2 a3 a4) := by
  have anc : Anchor p := trivial
  unfold execPtpFollowUp
  grind (ematch := 40) (gen := 40) (splits := 24) (ring := false) (linarith := false) (lia := false) (ac := false)
grind_pattern execPtpFollowUp_good => OutGood p (@execPtpFollowUp a0 a1 a2 a3 a4)
theorem execPtpDelayResp_good (a0 : Fin 2) (a1 : PtpHdr) (a2 : ℤ) (a3 : ℤ) (a4 : ℤ) (a5 : State) (h5 : a5.Good p) : OutGood p (@execPtpDelayResp a0 a1 a2 a3 a4 a5) := by
  have anc : Anchor p := trivial
  unfold execPtpDelayResp
  grind (ematch := 40) (gen := 40) (splits := 24) (ring := false) (linarith := false) (lia := false) (ac := false) [NTU_PTP_CFG.DELAY_ASYM, NTU_STATUS.TSRC_ACTIVE]
grind_pattern execPtpDelayResp_good => OutGood p (@execPtpDelayResp a0 a1 a2 a3 a4 a5)
theorem execTeUpdate_good (a0 : State) (h0 : a0.Good p) : OutGood p (@execTeUpdate a0) := by
  have anc : Anchor p := trivial
  unfold execTeUpdate
  grind (ematch := 40) (gen := 40) (splits := 24) (ring := false) (linarith := false) (lia := false) (ac := false)
grind_pattern execTeUpdate_good => OutGood p (@execTeUpdate a0)
theorem execTimeFrameSend_good (a0 : Fin 8) (a1 : State) (h1 : a1.Good p) : OutGood p (@execTimeFrameSend a0 a1) := by
  have anc : Anchor p := trivial
  unfold execTimeFrameSend
  grind (ematch := 40) (gen := 40) (splits := 24) (ring := false) (linarith := false) (lia := false) (ac := false) [NTU_CTL.TIME_LEADER, ZXL_LNK_STATUS.STATE, NTU_TE.TE_EST]
grind_pattern execTimeFrameSend_good => OutGood p (@execTimeFrameSend a0 a1)
theorem State.takeTime_good (a0 : State) (a1 : ℕ) (a2 : ℕ) (a3 : TimeInfo) (h0 : a0.Good p) : State.Good p (@State.takeTime a0 a1 a2 a3) := by
  have anc : Anchor p := trivial
  unfold State.takeTime
  grind (ematch := 40) (gen := 40) (splits := 24) (ring := false) (linarith := false) (lia := false) (ac := false) [NTU_EVT.SRC_REJECT]
grind_pattern State.takeTime_good => State.Good p (@State.takeTime a0 a1 a2 a3)
theorem State.timeLinkDown_good (a0 : State) (a1 : ℕ) (h0 : a0.Good p) : State.Good p (@State.timeLinkDown a0 a1) := by
  have anc : Anchor p := trivial
  unfold State.timeLinkDown
  grind (ematch := 40) (gen := 40) (splits := 24) (ring := false) (linarith := false) (lia := false) (ac := false)
grind_pattern State.timeLinkDown_good => State.Good p (@State.timeLinkDown a0 a1)
theorem State.timePortDown_good (a0 : State) (a1 : ℕ) (h0 : a0.Good p) : State.Good p (@State.timePortDown a0 a1) := by
  have anc : Anchor p := trivial
  unfold State.timePortDown
  grind (ematch := 40) (gen := 40) (splits := 24) (ring := false) (linarith := false) (lia := false) (ac := false) [NTU_STATUS.TSRC_ACTIVE]
grind_pattern State.timePortDown_good => State.Good p (@State.timePortDown a0 a1)
theorem State.margin_good (a0 : State) (a1 : ℕ) (a2 : ℕ) (h0 : a0.Good p) (_anc : Anchor p) : State.Good p (@State.margin a0 a1 a2).2 := by
  have anc : Anchor p := trivial
  unfold State.margin
  grind (ematch := 40) (gen := 40) (splits := 24) (ring := false) (linarith := false) (lia := false) (ac := false) [NTU_MARGIN.SPAN_MIN, NTU_MARGIN.BOARD_MIN]
grind_pattern State.margin_good => State.Good p (@State.margin a0 a1 a2).2
grind_pattern State.margin_good => @State.margin a0 a1 a2, Anchor p
theorem State.lateEvent_good (a0 : State) (a1 : ℕ) (h0 : a0.Good p) : State.Good p (@State.lateEvent a0 a1) := by
  have anc : Anchor p := trivial
  unfold State.lateEvent
  grind (ematch := 40) (gen := 40) (splits := 24) (ring := false) (linarith := false) (lia := false) (ac := false)
grind_pattern State.lateEvent_good => State.Good p (@State.lateEvent a0 a1)
theorem State.lateArrival_good (a0 : State) (a1 : ℕ) (h0 : a0.Good p) : State.Good p (@State.lateArrival a0 a1) := by
  have anc : Anchor p := trivial
  unfold State.lateArrival
  grind (ematch := 40) (gen := 40) (splits := 24) (ring := false) (linarith := false) (lia := false) (ac := false)
grind_pattern State.lateArrival_good => State.Good p (@State.lateArrival a0 a1)
theorem execNtuLeadWrite_good (v : Word) (s : State) (h : s.Good p) : OutGood p (execNtuLeadWrite v s) :=
  OutGood.next (State.Good.ite (h.setReg _ _ _ (by decide)) h)
grind_pattern execNtuLeadWrite_good => OutGood p (@execNtuLeadWrite v s)
theorem execNtuGuardWrite_good (a0 : Word) (a1 : State) (h1 : a1.Good p) : OutGood p (@execNtuGuardWrite a0 a1) := by
  have anc : Anchor p := trivial
  unfold execNtuGuardWrite
  grind (ematch := 40) (gen := 40) (splits := 24) (ring := false) (linarith := false) (lia := false) (ac := false)
grind_pattern execNtuGuardWrite_good => OutGood p (@execNtuGuardWrite a0 a1)
theorem execMarginRst_good (a0 : State) (h0 : a0.Good p) : OutGood p (@execMarginRst a0) := by
  have anc : Anchor p := trivial
  unfold execMarginRst
  grind (ematch := 40) (gen := 40) (splits := 24) (ring := false) (linarith := false) (lia := false) (ac := false) [NTU_MARGIN.SPAN_MIN, NTU_MARGIN.BOARD_MIN]
grind_pattern execMarginRst_good => OutGood p (@execMarginRst a0)
theorem State.latchTime_good (a0 : State) (h0 : a0.Good p) : State.Good p (@State.latchTime a0) := by
  have anc : Anchor p := trivial
  unfold State.latchTime
  grind (ematch := 40) (gen := 40) (splits := 24) (ring := false) (linarith := false) (lia := false) (ac := false) [NTU_TIME_HI.SEC_HI]
grind_pattern State.latchTime_good => State.Good p (@State.latchTime a0)
theorem State.ntuCtlWritten_good (a0 : State) (a1 : Word) (h0 : a0.Good p) : State.Good p (@State.ntuCtlWritten a0 a1) := by
  have anc : Anchor p := trivial
  unfold State.ntuCtlWritten
  grind (ematch := 40) (gen := 40) (splits := 24) (ring := false) (linarith := false) (lia := false) (ac := false) [NTU_CTL.TSRC, NTU_STATUS.TSRC_ACTIVE, NTU_CTL.FSRC, NTU_CTL.TIME_LEADER]
grind_pattern State.ntuCtlWritten_good => State.Good p (@State.ntuCtlWritten a0 a1)
theorem State.atEvent_good (a0 : State) (a1 : ℕ) (a2 : ℕ) (a3 : ℕ) (a4 : ℕ) (a5 : ℕ) (a6 : State → State) (h0 : a0.Good p) (h6 : ∀ (b0 : State), b0.Good p → State.Good p (a6 b0)) : State.Good p (@State.atEvent a0 a1 a2 a3 a4 a5 a6) := by
  have anc : Anchor p := trivial
  unfold State.atEvent
  grind (ematch := 40) (gen := 40) (splits := 24) (ring := false) (linarith := false) (lia := false) (ac := false)
grind_pattern State.atEvent_good => State.Good p (@State.atEvent a0 a1 a2 a3 a4 a5 a6)
theorem State.overrun_good (a0 : State) (a1 : ℕ) (a2 : ℕ) (h0 : a0.Good p) : State.Good p (@State.overrun a0 a1 a2) := by
  have anc : Anchor p := trivial
  unfold State.overrun
  grind (ematch := 40) (gen := 40) (splits := 24) (ring := false) (linarith := false) (lia := false) (ac := false) [RSQ_TRL_CNT.LAST_SLIP_SLOT]
grind_pattern State.overrun_good => State.Good p (@State.overrun a0 a1 a2)
theorem State.checkSlot_good (a0 : State) (a1 : ℕ) (a2 : ℕ) (h0 : a0.Good p) : State.Good p (@State.checkSlot a0 a1 a2) := by
  have anc : Anchor p := trivial
  unfold State.checkSlot
  grind (ematch := 40) (gen := 40) (splits := 24) (ring := false) (linarith := false) (lia := false) (ac := false)
grind_pattern State.checkSlot_good => State.Good p (@State.checkSlot a0 a1 a2)
theorem execSlotEndCheck_good (a0 : PartId) (a1 : Fin 256) (a2 : State) (h2 : a2.Good p) : OutGood p (@execSlotEndCheck a0 a1 a2) := by
  have anc : Anchor p := trivial
  unfold execSlotEndCheck
  grind (ematch := 40) (gen := 40) (splits := 24) (ring := false) (linarith := false) (lia := false) (ac := false)
grind_pattern execSlotEndCheck_good => OutGood p (@execSlotEndCheck a0 a1 a2)
theorem execSlipApply_good (a0 : PartId) (a1 : State) (h1 : a1.Good p) : OutGood p (@execSlipApply a0 a1) := by
  have anc : Anchor p := trivial
  unfold execSlipApply
  grind (ematch := 40) (gen := 40) (splits := 24) (ring := false) (linarith := false) (lia := false) (ac := false) [RSQ_TRL_RING.SLIPS]
grind_pattern execSlipApply_good => OutGood p (@execSlipApply a0 a1)
theorem execGateStream_good (a0 : PartId) (a1 : Fin 4096) (a2 : State) (h2 : a2.Good p) : OutGood p (@execGateStream a0 a1 a2) := by
  have anc : Anchor p := trivial
  unfold execGateStream
  grind (ematch := 40) (gen := 40) (splits := 24) (ring := false) (linarith := false) (lia := false) (ac := false)
grind_pattern execGateStream_good => OutGood p (@execGateStream a0 a1 a2)
theorem execGateClaspDed_good (a0 : PartId) (a1 : Fin 4096) (a2 : State) (h2 : a2.Good p) : OutGood p (@execGateClaspDed a0 a1 a2) := by
  have anc : Anchor p := trivial
  unfold execGateClaspDed
  grind (ematch := 40) (gen := 40) (splits := 24) (ring := false) (linarith := false) (lia := false) (ac := false) [TRK_REG.SHARE, PRT_CLP_WAIT.DED_REFUSED, PRT_CLP_STATUS.CLASP_MODE, PRT_CLP_STATUS.DED_BURSTS]
grind_pattern execGateClaspDed_good => OutGood p (@execGateClaspDed a0 a1 a2)
theorem execGateTickPut_good (a0 : PartId) (a1 : Fin 4096) (a2 : State) (h2 : a2.Good p) : OutGood p (@execGateTickPut a0 a1 a2) := by
  have anc : Anchor p := trivial
  unfold execGateTickPut
  grind (ematch := 40) (gen := 40) (splits := 24) (ring := false) (linarith := false) (lia := false) (ac := false)
grind_pattern execGateTickPut_good => OutGood p (@execGateTickPut a0 a1 a2)
theorem State.sendMirror_good (a0 : State) (a1 : ℕ) (a2 : ℕ) (a3 : ℕ) (a4 : ℕ) (a5 : ℕ) (a6 : List Byte) (h0 : a0.Good p) : State.Good p (@State.sendMirror a0 a1 a2 a3 a4 a5 a6) := by
  have anc : Anchor p := trivial
  unfold State.sendMirror
  grind (ematch := 40) (gen := 40) (splits := 24) (ring := false) (linarith := false) (lia := false) (ac := false)
grind_pattern State.sendMirror_good => State.Good p (@State.sendMirror a0 a1 a2 a3 a4 a5 a6)
theorem State.mirrorTo_good (a0 : State) (a1 : ℕ) (a2 : ℕ) (h0 : a0.Good p) : State.Good p (@State.mirrorTo a0 a1 a2) := by
  have anc : Anchor p := trivial
  unfold State.mirrorTo
  grind (ematch := 40) (gen := 40) (splits := 24) (ring := false) (linarith := false) (lia := false) (ac := false)
grind_pattern State.mirrorTo_good => State.Good p (@State.mirrorTo a0 a1 a2)
theorem execXdevEvent_good (a0 : PartId) (a1 : Fin 4096) (a2 : State) (h2 : a2.Good p) : OutGood p (@execXdevEvent a0 a1 a2) := by
  have anc : Anchor p := trivial
  unfold execXdevEvent
  grind (ematch := 40) (gen := 40) (splits := 24) (ring := false) (linarith := false) (lia := false) (ac := false)
grind_pattern execXdevEvent_good => OutGood p (@execXdevEvent a0 a1 a2)
theorem State.takeMirror_good (a0 : State) (a1 : ℕ) (a2 : ℕ) (a3 : ℕ) (a4 : List Byte) (h0 : a0.Good p) : State.Good p (@State.takeMirror a0 a1 a2 a3 a4) := by
  have anc : Anchor p := trivial
  unfold State.takeMirror
  grind (ematch := 40) (gen := 40) (splits := 24) (ring := false) (linarith := false) (lia := false) (ac := false)
grind_pattern State.takeMirror_good => State.Good p (@State.takeMirror a0 a1 a2 a3 a4)
theorem State.adoptSeq_good (a0 : State) (a1 : ℕ) (a2 : ℕ) (a3 : List Byte) (h0 : a0.Good p) : State.Good p (@State.adoptSeq a0 a1 a2 a3) := by
  have anc : Anchor p := trivial
  unfold State.adoptSeq
  grind (ematch := 40) (gen := 40) (splits := 24) (ring := false) (linarith := false) (lia := false) (ac := false)
grind_pattern State.adoptSeq_good => State.Good p (@State.adoptSeq a0 a1 a2 a3)
theorem State.winTurns_good (a0 : State) (a1 : ℕ) (a2 : ℕ) (h0 : a0.Good p) : State.Good p (@State.winTurns a0 a1 a2) := by
  have anc : Anchor p := trivial
  unfold State.winTurns
  grind (ematch := 40) (gen := 40) (splits := 24) (ring := false) (linarith := false) (lia := false) (ac := false)
grind_pattern State.winTurns_good => State.Good p (@State.winTurns a0 a1 a2)
theorem execSlotOpen_good (a0 : PartId) (a1 : Fin 256) (a2 : State) (h2 : a2.Good p) : OutGood p (@execSlotOpen a0 a1 a2) := by
  have anc : Anchor p := trivial
  unfold execSlotOpen
  grind (ematch := 40) (gen := 40) (splits := 24) (ring := false) (linarith := false) (lia := false) (ac := false)
grind_pattern execSlotOpen_good => OutGood p (@execSlotOpen a0 a1 a2)
theorem execSubslotOpen_good (a0 : PartId) (a1 : Fin 256) (a2 : Fin 16) (a3 : State) (h3 : a3.Good p) : OutGood p (@execSubslotOpen a0 a1 a2 a3) := by
  have anc : Anchor p := trivial
  unfold execSubslotOpen
  grind (ematch := 40) (gen := 40) (splits := 24) (ring := false) (linarith := false) (lia := false) (ac := false)
grind_pattern execSubslotOpen_good => OutGood p (@execSubslotOpen a0 a1 a2 a3)
theorem State.freshCore_good (a0 : State) (a1 : ℕ) (h0 : a0.Good p) : State.Good p (@State.freshCore a0 a1) := by
  have anc : Anchor p := trivial
  unfold State.freshCore
  grind (ematch := 40) (gen := 40) (splits := 24) (ring := false) (linarith := false) (lia := false) (ac := false) [PRT_OUT_STATUS.SLOT_VALID]
grind_pattern State.freshCore_good => State.Good p (@State.freshCore a0 a1)
theorem State.startThreads_good (a0 : State) (a1 : ℕ) (h0 : a0.Good p) : State.Good p (@State.startThreads a0 a1) := by
  have anc : Anchor p := trivial
  unfold State.startThreads
  grind (ematch := 40) (gen := 40) (splits := 24) (ring := false) (linarith := false) (lia := false) (ac := false)
grind_pattern State.startThreads_good => State.Good p (@State.startThreads a0 a1)
theorem execTrailRun_good (a0 : PartId) (a1 : State) (h1 : a1.Good p) : OutGood p (@execTrailRun a0 a1) := by
  have anc : Anchor p := trivial
  unfold execTrailRun
  grind (ematch := 40) (gen := 40) (splits := 24) (ring := false) (linarith := false) (lia := false) (ac := false) [RSQ_TRL_RING.SLIPS, RSQ_TRL_RING.SCHED_RING, RSQ_TRL_CNT.STOP_CAUSE]
grind_pattern execTrailRun_good => OutGood p (@execTrailRun a0 a1)
theorem State.haltThreads_good (a0 : State) (a1 : ℕ) (h0 : a0.Good p) : State.Good p (@State.haltThreads a0 a1) := by
  have anc : Anchor p := trivial
  unfold State.haltThreads
  grind (ematch := 40) (gen := 40) (splits := 24) (ring := false) (linarith := false) (lia := false) (ac := false)
grind_pattern State.haltThreads_good => State.Good p (@State.haltThreads a0 a1)
theorem State.stopTrail_good (a0 : State) (a1 : ℕ) (a2 : ℕ) (h0 : a0.Good p) : State.Good p (@State.stopTrail a0 a1 a2) := by
  have anc : Anchor p := trivial
  unfold State.stopTrail
  grind (ematch := 40) (gen := 40) (splits := 24) (ring := false) (linarith := false) (lia := false) (ac := false) [RSQ_TRL_CNT.STOP_CAUSE]
grind_pattern State.stopTrail_good => State.Good p (@State.stopTrail a0 a1 a2)
theorem execStopBoundary_good (a0 : PartId) (a1 : State) (h1 : a1.Good p) : OutGood p (@execStopBoundary a0 a1) := by
  have anc : Anchor p := trivial
  unfold execStopBoundary
  grind (ematch := 40) (gen := 40) (splits := 24) (ring := false) (linarith := false) (lia := false) (ac := false)
grind_pattern execStopBoundary_good => OutGood p (@execStopBoundary a0 a1)
theorem execTakeover_good (a0 : PartId) (a1 : State) (h1 : a1.Good p) : OutGood p (@execTakeover a0 a1) := by
  have anc : Anchor p := trivial
  unfold execTakeover
  grind (ematch := 40) (gen := 40) (splits := 24) (ring := false) (linarith := false) (lia := false) (ac := false) [RSQ_TRL_STATUS.MEMBER_INDEX]
grind_pattern execTakeover_good => OutGood p (@execTakeover a0 a1)
theorem State.placeCore_good (a0 : State) (a1 : CoreEnt) (h0 : a0.Good p) : State.Good p (@State.placeCore a0 a1) := by
  have anc : Anchor p := trivial
  unfold State.placeCore
  grind (ematch := 40) (gen := 40) (splits := 24) (ring := false) (linarith := false) (lia := false) (ac := false)
grind_pattern State.placeCore_good => State.Good p (@State.placeCore a0 a1)
theorem State.loadImage_good (a0 : State) (a1 : ℕ) (a2 : ℕ) (a3 : Image) (h0 : a0.Good p) : State.Good p (@State.loadImage a0 a1 a2 a3) := by
  have anc : Anchor p := trivial
  unfold State.loadImage
  grind (ematch := 40) (gen := 40) (splits := 24) (ring := false) (linarith := false) (lia := false) (ac := false) [RSQ_TRL_STATUS.TRAIL_ID_LO, RSQ_TRL_STATUS.GROUP_MASK, RSQ_TRL_STATUS.MEMBER_INDEX]
grind_pattern State.loadImage_good => State.Good p (@State.loadImage a0 a1 a2 a3)
theorem execTrailLoad_good (a0 : RingId) (a1 : State) (h1 : a1.Good p) : OutGood p (@execTrailLoad a0 a1) := by
  have anc : Anchor p := trivial
  unfold execTrailLoad
  grind (ematch := 40) (gen := 40) (splits := 24) (ring := false) (linarith := false) (lia := false) (ac := false)
grind_pattern execTrailLoad_good => OutGood p (@execTrailLoad a0 a1)
theorem State.arm_good (a0 : State) (a1 : ℕ) (a2 : ℕ) (a3 : ℕ × ℕ) (a4 : Option Later) (h0 : a0.Good p) : State.Good p (@State.arm a0 a1 a2 a3 a4) := by
  have anc : Anchor p := trivial
  unfold State.arm
  grind (ematch := 40) (gen := 40) (splits := 24) (ring := false) (linarith := false) (lia := false) (ac := false) [RSQ_TRL_CNT.STOP_CAUSE]
grind_pattern State.arm_good => State.Good p (@State.arm a0 a1 a2 a3 a4)
theorem execTrailStart_good (a0 : RingId) (a1 : State) (h1 : a1.Good p) : OutGood p (@execTrailStart a0 a1) := by
  have anc : Anchor p := trivial
  unfold execTrailStart
  grind (ematch := 40) (gen := 40) (splits := 24) (ring := false) (linarith := false) (lia := false) (ac := false) [ZXL_CNT.SDID_CONFLICT, VF_CTX_STATUS.EPOCH]
grind_pattern execTrailStart_good => OutGood p (@execTrailStart a0 a1)
theorem execTrailStop_good (a0 : RingId) (a1 : State) (h1 : a1.Good p) : OutGood p (@execTrailStop a0 a1) := by
  have anc : Anchor p := trivial
  unfold execTrailStop
  grind (ematch := 40) (gen := 40) (splits := 24) (ring := false) (linarith := false) (lia := false) (ac := false)
grind_pattern execTrailStop_good => OutGood p (@execTrailStop a0 a1)
theorem execLcfg_good (a0 : Lcid) (a1 : TSlot) (a2 : State) (h2 : a2.Good p) : OutGood p (@execLcfg a0 a1 a2) := by
  have anc : Anchor p := trivial
  unfold execLcfg
  grind (ematch := 40) (gen := 40) (splits := 24) (ring := false) (linarith := false) (lia := false) (ac := false)
grind_pattern execLcfg_good => OutGood p (@execLcfg a0 a1 a2)
theorem execLmac_good (a0 : Lcid) (a1 : TSlot) (a2 : State) (h2 : a2.Good p) : OutGood p (@execLmac a0 a1 a2) := by
  have anc : Anchor p := trivial
  unfold execLmac
  grind (ematch := 40) (gen := 40) (splits := 24) (ring := false) (linarith := false) (lia := false) (ac := false)
grind_pattern execLmac_good => OutGood p (@execLmac a0 a1 a2)
theorem execLdrain_good (a0 : Lcid) (a1 : TSlot) (a2 : State) (h2 : a2.Good p) : OutGood p (@execLdrain a0 a1 a2) := by
  have anc : Anchor p := trivial
  unfold execLdrain
  grind (ematch := 40) (gen := 40) (splits := 24) (ring := false) (linarith := false) (lia := false) (ac := false)
grind_pattern execLdrain_good => OutGood p (@execLdrain a0 a1 a2)
theorem State.pumpLat_good (a0 : State) (a1 : ℕ) (h0 : a0.Good p) : State.Good p (@State.pumpLat a0 a1) := by
  have anc : Anchor p := trivial
  unfold State.pumpLat
  grind (ematch := 40) (gen := 40) (splits := 24) (ring := false) (linarith := false) (lia := false) (ac := false)
grind_pattern State.pumpLat_good => State.Good p (@State.pumpLat a0 a1)
theorem execLcfgApply_good (a0 : Lcid) (a1 : State) (h1 : a1.Good p) : OutGood p (@execLcfgApply a0 a1) := by
  have anc : Anchor p := trivial
  unfold execLcfgApply
  grind (ematch := 40) (gen := 40) (splits := 24) (ring := false) (linarith := false) (lia := false) (ac := false)
grind_pattern execLcfgApply_good => OutGood p (@execLcfgApply a0 a1)
theorem State.setTsw_good (a0 : State) (a1 : ℕ) (a2 : ℕ) (a3 : ℕ) (h0 : a0.Good p) : State.Good p (@State.setTsw a0 a1 a2 a3) := by
  have anc : Anchor p := trivial
  unfold State.setTsw
  grind (ematch := 40) (gen := 40) (splits := 24) (ring := false) (linarith := false) (lia := false) (ac := false)
grind_pattern State.setTsw_good => State.Good p (@State.setTsw a0 a1 a2 a3)
theorem State.tswSet_good (a0 : State) (a1 : ℕ) (a2 : ℕ) (a3 : ℕ) (h0 : a0.Good p) (_anc : Anchor p) : State.Good p (@State.tswSet a0 a1 a2 a3).2 := by
  have anc : Anchor p := trivial
  unfold State.tswSet
  grind (ematch := 40) (gen := 40) (splits := 24) (ring := false) (linarith := false) (lia := false) (ac := false)
grind_pattern State.tswSet_good => State.Good p (@State.tswSet a0 a1 a2 a3).2
grind_pattern State.tswSet_good => @State.tswSet a0 a1 a2 a3, Anchor p
theorem State.tswEvent_good (a0 : State) (a1 : ℕ) (a2 : ℕ) (a3 : ℕ) (h0 : a0.Good p) : State.Good p (@State.tswEvent a0 a1 a2 a3) := by
  have anc : Anchor p := trivial
  unfold State.tswEvent
  grind (ematch := 40) (gen := 40) (splits := 24) (ring := false) (linarith := false) (lia := false) (ac := false) [PRT_LAT_CNT.SAT_CNT, PRT_LAT_CNT.NONFIN_CNT]
grind_pattern State.tswEvent_good => State.Good p (@State.tswEvent a0 a1 a2 a3)
theorem State.tswReplays_good (a0 : State) (a1 : ℕ) (a2 : ℕ) (a3 : ℕ) (h0 : a0.Good p) : State.Good p (@State.tswReplays a0 a1 a2 a3) := by
  have anc : Anchor p := trivial
  unfold State.tswReplays
  grind (ematch := 40) (gen := 40) (splits := 24) (ring := false) (linarith := false) (lia := false) (ac := false) [PRT_LAT_CNT.GROUP_REPLAYS]
grind_pattern State.tswReplays_good => State.Good p (@State.tswReplays a0 a1 a2 a3)
theorem State.accCheck_good (a0 : State) (a1 : ℕ) (a2 : ℕ) (h0 : a0.Good p) (_anc : Anchor p) : State.Good p (@State.accCheck a0 a1 a2).2 := by
  have anc : Anchor p := trivial
  unfold State.accCheck
  grind (ematch := 40) (gen := 40) (splits := 24) (ring := false) (linarith := false) (lia := false) (ac := false) [PRT_LAT_ECC.CE_CNT, PRT_LAT_ECC.CB_CNT, PRT_LAT_ECC.UE_CNT]
grind_pattern State.accCheck_good => State.Good p (@State.accCheck a0 a1 a2).2
grind_pattern State.accCheck_good => @State.accCheck a0 a1 a2, Anchor p
theorem State.accWrite_good (a0 : State) (a1 : ℕ) (a2 : ℕ) (a3 : BitVec 32) (a4 : Bool) (a5 : Bool) (h0 : a0.Good p) : State.Good p (@State.accWrite a0 a1 a2 a3 a4 a5) := by
  have anc : Anchor p := trivial
  unfold State.accWrite
  grind (ematch := 40) (gen := 40) (splits := 24) (ring := false) (linarith := false) (lia := false) (ac := false)
grind_pattern State.accWrite_good => State.Good p (@State.accWrite a0 a1 a2 a3 a4 a5)
theorem State.latWords_good (a0 : State) (a1 : ℕ) (a2 : List ℕ) (h0 : a0.Good p) (_anc : Anchor p) : State.Good p (@State.latWords a0 a1 a2).2 := by
  have anc : Anchor p := trivial
  fun_induction State.latWords a0 a1 a2
  all_goals grind (ematch := 40) (gen := 40) (splits := 24) (ring := false) (linarith := false) (lia := false) (ac := false)
grind_pattern State.latWords_good => State.Good p (@State.latWords a0 a1 a2).2
grind_pattern State.latWords_good => @State.latWords a0 a1 a2, Anchor p
theorem State.lmacRun_good (a0 : State) (c : ℕ) (v : LmacEnv) (bad nog : List ℕ) (h0 : State.Good p a0) : State.Good p (a0.lmacRun c v bad nog).2 := by
  have anc : Anchor p := trivial
  unfold State.lmacRun
  extract_lets nmax seed cols
  clear_value cols
  refine State.Good.foldlPair h0 ?_
  intro b s row hs
  dsimp only
  refine State.Good.foldl ?_ (fun s n h => State.tswReplays_good _ _ _ _ h)
  refine State.Good.foldlPair hs ?_
  rintro out s ⟨col, cb, cn⟩ hs
  dsimp only
  split
  · exact State.accCheck_good _ _ _ hs anc
  · exact hs
grind_pattern State.lmacRun_good => State.Good p (@State.lmacRun a0 c v bad nog).2
grind_pattern State.lmacRun_good => @State.lmacRun a0 c v bad nog, Anchor p
theorem State.failLmac_good (a0 : State) (a1 : ℕ) (a2 : Op) (a3 : Fail) (h0 : a0.Good p) : State.Good p (@State.failLmac a0 a1 a2 a3) := by
  have anc : Anchor p := trivial
  unfold State.failLmac
  grind (ematch := 40) (gen := 40) (splits := 24) (ring := false) (linarith := false) (lia := false) (ac := false)
grind_pattern State.failLmac_good => State.Good p (@State.failLmac a0 a1 a2 a3)
theorem State.lmacStatus_good (a0 : State) (a1 : ℕ) (a2 : ℕ) (a3 : Bool) (a4 : Option ℕ) (a5 : List LaneRes) (h0 : a0.Good p) : State.Good p (@State.lmacStatus a0 a1 a2 a3 a4 a5) := by
  have anc : Anchor p := trivial
  unfold State.lmacStatus
  grind (ematch := 40) (gen := 40) (splits := 24) (ring := false) (linarith := false) (lia := false) (ac := false) [PRT_LAT_ECC.UE_CNT]
grind_pattern State.lmacStatus_good => State.Good p (@State.lmacStatus a0 a1 a2 a3 a4 a5)
theorem execLmacStart_good (a0 : Lcid) (a1 : State) (h1 : a1.Good p) : OutGood p (@execLmacStart a0 a1) := by
  have anc : Anchor p := trivial
  unfold execLmacStart
  grind (ematch := 40) (gen := 40) (splits := 24) (ring := false) (linarith := false) (lia := false) (ac := false)
grind_pattern execLmacStart_good => OutGood p (@execLmacStart a0 a1)
theorem execLmacEnd_good (a0 : Lcid) (a1 : State) (h1 : a1.Good p) : OutGood p (@execLmacEnd a0 a1) := by
  have anc : Anchor p := trivial
  unfold execLmacEnd
  grind (ematch := 40) (gen := 40) (splits := 24) (ring := false) (linarith := false) (lia := false) (ac := false)
grind_pattern execLmacEnd_good => OutGood p (@execLmacEnd a0 a1)
theorem State.failDrain_good (a0 : State) (a1 : ℕ) (a2 : Op) (a3 : Fail) (h0 : a0.Good p) : State.Good p (@State.failDrain a0 a1 a2 a3) := by
  have anc : Anchor p := trivial
  unfold State.failDrain
  grind (ematch := 40) (gen := 40) (splits := 24) (ring := false) (linarith := false) (lia := false) (ac := false)
grind_pattern State.failDrain_good => State.Good p (@State.failDrain a0 a1 a2 a3)
theorem State.accReads_good (a0 : State) (a1 : ℕ) (a2 : List ℕ) (h0 : a0.Good p) (_anc : Anchor p) : State.Good p (@State.accReads a0 a1 a2).2 := by
  have anc : Anchor p := trivial
  fun_induction State.accReads a0 a1 a2
  all_goals grind (ematch := 40) (gen := 40) (splits := 24) (ring := false) (linarith := false) (lia := false) (ac := false)
grind_pattern State.accReads_good => State.Good p (@State.accReads a0 a1 a2).2
grind_pattern State.accReads_good => @State.accReads a0 a1 a2, Anchor p
theorem State.startDrain_good (a0 : State) (a1 : ℕ) (a2 : State → Op → LatRun → Option Fail) (h0 : a0.Good p) : State.Good p (@State.startDrain a0 a1 a2) := by
  have anc : Anchor p := trivial
  unfold State.startDrain
  grind (ematch := 40) (gen := 40) (splits := 24) (ring := false) (linarith := false) (lia := false) (ac := false)
grind_pattern State.startDrain_good => State.Good p (@State.startDrain a0 a1 a2)
theorem execOcfg_good (a0 : Lcid) (a1 : TSlot) (a2 : State) (h2 : a2.Good p) : OutGood p (@execOcfg a0 a1 a2) := by
  have anc : Anchor p := trivial
  unfold execOcfg
  grind (ematch := 40) (gen := 40) (splits := 24) (ring := false) (linarith := false) (lia := false) (ac := false)
grind_pattern execOcfg_good => OutGood p (@execOcfg a0 a1 a2)
theorem State.setSlotValid_good (a0 : State) (a1 : ℕ) (a2 : ℕ) (a3 : Bool) (h0 : a0.Good p) : State.Good p (@State.setSlotValid a0 a1 a2 a3) := by
  have anc : Anchor p := trivial
  unfold State.setSlotValid
  grind (ematch := 40) (gen := 40) (splits := 24) (ring := false) (linarith := false) (lia := false) (ac := false) [PRT_OUT_STATUS.SLOT_VALID]
grind_pattern State.setSlotValid_good => State.Good p (@State.setSlotValid a0 a1 a2 a3)
theorem execOcfgApply_good (a0 : Lcid) (a1 : State) (h1 : a1.Good p) : OutGood p (@execOcfgApply a0 a1) := by
  have anc : Anchor p := trivial
  unfold execOcfgApply
  grind (ematch := 40) (gen := 40) (splits := 24) (ring := false) (linarith := false) (lia := false) (ac := false) [PRT_OUT_STATUS.OCFG_REJ]
grind_pattern execOcfgApply_good => OutGood p (@execOcfgApply a0 a1)
theorem State.cReads_good (a0 : State) (a1 : ℕ) (a2 : List (ℕ × ℕ)) (h0 : a0.Good p) (_anc : Anchor p) : State.Good p (@State.cReads a0 a1 a2).2 := by
  have anc : Anchor p := trivial
  fun_induction State.cReads a0 a1 a2
  all_goals grind (ematch := 40) (gen := 40) (splits := 24) (ring := false) (linarith := false) (lia := false) (ac := false)
grind_pattern State.cReads_good => State.Good p (@State.cReads a0 a1 a2).2
grind_pattern State.cReads_good => @State.cReads a0 a1 a2, Anchor p
theorem execLdrainStart_good (a0 : Lcid) (a1 : State) (h1 : a1.Good p) : OutGood p (@execLdrainStart a0 a1) := by
  have anc : Anchor p := trivial
  unfold execLdrainStart
  grind (ematch := 40) (gen := 40) (splits := 24) (ring := false) (linarith := false) (lia := false) (ac := false)
grind_pattern execLdrainStart_good => OutGood p (@execLdrainStart a0 a1)
theorem execLdrainEnd_good (a0 : Lcid) (a1 : State) (h1 : a1.Good p) : OutGood p (@execLdrainEnd a0 a1) := by
  have anc : Anchor p := trivial
  unfold execLdrainEnd
  grind (ematch := 40) (gen := 40) (splits := 24) (ring := false) (linarith := false) (lia := false) (ac := false) [PRT_OUT_CNT.CLIP_TOTAL, PRT_OUT_CNT.NONFIN_TOTAL, PRT_OUT_TRK.TRK_UPDATES, PRT_OUT_TRK.TRK_INITS, PRT_OUT_STATUS.INVALID_DRAINS]
grind_pattern execLdrainEnd_good => OutGood p (@execLdrainEnd a0 a1)
theorem State.submit_good (a0 : State) (a1 : ℕ) (a2 : Desc) (a3 : Bool) (h0 : a0.Good p) : State.Good p (@State.submit a0 a1 a2 a3) := by
  have anc : Anchor p := trivial
  unfold State.submit
  grind (ematch := 40) (gen := 40) (splits := 24) (ring := false) (linarith := false) (lia := false) (ac := false)
grind_pattern State.submit_good => State.Good p (@State.submit a0 a1 a2 a3)
theorem execStep_good (a0 : RingId) (a1 : State) (h1 : a1.Good p) : OutGood p (@execStep a0 a1) := by
  have anc : Anchor p := trivial
  unfold execStep
  grind (ematch := 40) (gen := 40) (splits := 24) (ring := false) (linarith := false) (lia := false) (ac := false)
grind_pattern execStep_good => OutGood p (@execStep a0 a1)
theorem execAdapterStep_good (a0 : RingId) (a1 : State) (h1 : a1.Good p) : OutGood p (@execAdapterStep a0 a1) := by
  have anc : Anchor p := trivial
  unfold execAdapterStep
  grind (ematch := 40) (gen := 40) (splits := 24) (ring := false) (linarith := false) (lia := false) (ac := false)
grind_pattern execAdapterStep_good => OutGood p (@execAdapterStep a0 a1)
theorem State.newSeq_good (a0 : State) (a1 : ℕ) (h0 : a0.Good p) (_anc : Anchor p) : State.Good p (@State.newSeq a0 a1).2 := by
  have anc : Anchor p := trivial
  unfold State.newSeq
  grind (ematch := 40) (gen := 40) (splits := 24) (ring := false) (linarith := false) (lia := false) (ac := false)
grind_pattern State.newSeq_good => State.Good p (@State.newSeq a0 a1).2
grind_pattern State.newSeq_good => @State.newSeq a0 a1, Anchor p
theorem State.sharePrefix_good (a0 : State) (a1 : ℕ) (a2 : ℕ) (a3 : ℕ) (h0 : a0.Good p) : State.Good p (@State.sharePrefix a0 a1 a2 a3) := by
  have anc : Anchor p := trivial
  unfold State.sharePrefix
  grind (ematch := 40) (gen := 40) (splits := 24) (ring := false) (linarith := false) (lia := false) (ac := false)
grind_pattern State.sharePrefix_good => State.Good p (@State.sharePrefix a0 a1 a2 a3)
theorem State.openSeq_good (a0 : State) (a1 : ℕ) (a2 : Desc) (h0 : a0.Good p) : State.Good p (@State.openSeq a0 a1 a2) := by
  have anc : Anchor p := trivial
  unfold State.openSeq
  grind (ematch := 40) (gen := 40) (splits := 24) (ring := false) (linarith := false) (lia := false) (ac := false)
grind_pattern State.openSeq_good => State.Good p (@State.openSeq a0 a1 a2)
theorem execSeqOpen_good (a0 : RingId) (a1 : State) (h1 : a1.Good p) : OutGood p (@execSeqOpen a0 a1) := by
  have anc : Anchor p := trivial
  unfold execSeqOpen
  grind (ematch := 40) (gen := 40) (splits := 24) (ring := false) (linarith := false) (lia := false) (ac := false)
grind_pattern execSeqOpen_good => OutGood p (@execSeqOpen a0 a1)
theorem execSeqClose_good (a0 : RingId) (a1 : State) (h1 : a1.Good p) : OutGood p (@execSeqClose a0 a1) := by
  have anc : Anchor p := trivial
  unfold execSeqClose
  grind (ematch := 40) (gen := 40) (splits := 24) (ring := false) (linarith := false) (lia := false) (ac := false)
grind_pattern execSeqClose_good => OutGood p (@execSeqClose a0 a1)
theorem State.rejectXfer_good (a0 : State) (a1 : ℕ) (a2 : Desc) (a3 : ℕ) (h0 : a0.Good p) : State.Good p (@State.rejectXfer a0 a1 a2 a3) := by
  have anc : Anchor p := trivial
  unfold State.rejectXfer
  grind (ematch := 40) (gen := 40) (splits := 24) (ring := false) (linarith := false) (lia := false) (ac := false) [PRT_KV_XFER.XFER_REJ]
grind_pattern State.rejectXfer_good => State.Good p (@State.rejectXfer a0 a1 a2 a3)
theorem execKvImport_good (a0 : RingId) (a1 : State) (h1 : a1.Good p) : OutGood p (@execKvImport a0 a1) := by
  have anc : Anchor p := trivial
  unfold execKvImport
  grind (ematch := 40) (gen := 40) (splits := 24) (ring := false) (linarith := false) (lia := false) (ac := false) [PRT_KV_XFER.IMPORTS]
grind_pattern execKvImport_good => OutGood p (@execKvImport a0 a1)
theorem execKvExport_good (a0 : RingId) (a1 : State) (h1 : a1.Good p) : OutGood p (@execKvExport a0 a1) := by
  have anc : Anchor p := trivial
  unfold execKvExport
  grind (ematch := 40) (gen := 40) (splits := 24) (ring := false) (linarith := false) (lia := false) (ac := false)
grind_pattern execKvExport_good => OutGood p (@execKvExport a0 a1)
theorem State.starveOp_good (a0 : State) (a1 : ℕ) (a2 : ℕ) (h0 : a0.Good p) : State.Good p (@State.starveOp a0 a1 a2) := by
  have anc : Anchor p := trivial
  unfold State.starveOp
  grind (ematch := 40) (gen := 40) (splits := 24) (ring := false) (linarith := false) (lia := false) (ac := false)
grind_pattern State.starveOp_good => State.Good p (@State.starveOp a0 a1 a2)
theorem State.starveStream_good (a0 : State) (a1 : ℕ) (a2 : ℕ) (h0 : a0.Good p) : State.Good p (@State.starveStream a0 a1 a2) := by
  have anc : Anchor p := trivial
  unfold State.starveStream
  grind (ematch := 40) (gen := 40) (splits := 24) (ring := false) (linarith := false) (lia := false) (ac := false)
grind_pattern State.starveStream_good => State.Good p (@State.starveStream a0 a1 a2)
theorem execStarve_good (a0 : Lcid) (a1 : TSlot) (a2 : Option ℕ) (a3 : State) (h3 : a3.Good p) : OutGood p (@execStarve a0 a1 a2 a3) := by
  have anc : Anchor p := trivial
  unfold execStarve
  grind (ematch := 40) (gen := 40) (splits := 24) (ring := false) (linarith := false) (lia := false) (ac := false)
grind_pattern execStarve_good => OutGood p (@execStarve a0 a1 a2 a3)
theorem State.mapAreas_good (a0 : State) (a1 : ℕ) (a2 : List ℕ) (h0 : a0.Good p) : State.Good p (@State.mapAreas a0 a1 a2) := by
  have anc : Anchor p := trivial
  unfold State.mapAreas
  grind (ematch := 40) (gen := 40) (splits := 24) (ring := false) (linarith := false) (lia := false) (ac := false) [VF_CTX_STATUS.EPOCH]
grind_pattern State.mapAreas_good => State.Good p (@State.mapAreas a0 a1 a2)
theorem State.openCtx_good (a0 : State) (a1 : ℕ) (a2 : List ℕ) (a3 : RingDesc) (a4 : RingDesc) (a5 : RingDesc) (h0 : a0.Good p) : State.Good p (@State.openCtx a0 a1 a2 a3 a4 a5) := by
  have anc : Anchor p := trivial
  unfold State.openCtx
  grind (ematch := 40) (gen := 40) (splits := 24) (ring := false) (linarith := false) (lia := false) (ac := false) [VF_CTX_STATUS.EPOCH]
grind_pattern State.openCtx_good => State.Good p (@State.openCtx a0 a1 a2 a3 a4 a5)
theorem execCreate_good (a0 : PartId) (a1 : HostStores) (a2 : State) (h2 : a2.Good p) : OutGood p (@execCreate a0 a1 a2) := by
  have anc : Anchor p := trivial
  unfold execCreate
  grind (ematch := 40) (gen := 40) (splits := 24) (ring := false) (linarith := false) (lia := false) (ac := false) [VF_CTX_STATUS.ERR]
grind_pattern execCreate_good => OutGood p (@execCreate a0 a1 a2)
theorem execAdminContextCreate_good (a0 : HostStores) (a1 : State) (h1 : a1.Good p) : OutGood p (@execAdminContextCreate a0 a1) := by
  have anc : Anchor p := trivial
  unfold execAdminContextCreate
  grind (ematch := 40) (gen := 40) (splits := 24) (ring := false) (linarith := false) (lia := false) (ac := false) [HIF_ADM_CTL.ERR]
grind_pattern execAdminContextCreate_good => OutGood p (@execAdminContextCreate a0 a1)
theorem execRebase_good (a0 : PartId) (a1 : HostStores) (a2 : State) (h2 : a2.Good p) : OutGood p (@execRebase a0 a1 a2) := by
  have anc : Anchor p := trivial
  unfold execRebase
  grind (ematch := 40) (gen := 40) (splits := 24) (ring := false) (linarith := false) (lia := false) (ac := false) [VF_CTX_STATUS.ERR]
grind_pattern execRebase_good => OutGood p (@execRebase a0 a1 a2)
theorem execRebaseApply_good (a0 : Fin 4096) (a1 : State) (h1 : a1.Good p) : OutGood p (@execRebaseApply a0 a1) := by
  have anc : Anchor p := trivial
  unfold execRebaseApply
  grind (ematch := 40) (gen := 40) (splits := 24) (ring := false) (linarith := false) (lia := false) (ac := false) [VF_CTX_STATUS.ERR]
grind_pattern execRebaseApply_good => OutGood p (@execRebaseApply a0 a1)
theorem State.clearCore_good (a0 : State) (a1 : ℕ) (h0 : a0.Good p) : State.Good p (@State.clearCore a0 a1) := by
  have anc : Anchor p := trivial
  unfold State.clearCore
  grind (ematch := 40) (gen := 40) (splits := 24) (ring := false) (linarith := false) (lia := false) (ac := false) [PRT_OUT_STATUS.SLOT_VALID, PRT_CNP_STATUS.WIN_OPEN, PRT_CNP_STATUS.CLEAR_BUSY, PRT_CNP_STATUS.CLEAR_CNT]
grind_pattern State.clearCore_good => State.Good p (@State.clearCore a0 a1)
theorem State.killUnmapAll_good (a0 : State) (a1 : ℕ) (h0 : a0.Good p) : State.Good p (@State.killUnmapAll a0 a1) := by
  have anc : Anchor p := trivial
  unfold State.killUnmapAll
  grind (ematch := 40) (gen := 40) (splits := 24) (ring := false) (linarith := false) (lia := false) (ac := false)
grind_pattern State.killUnmapAll_good => State.Good p (@State.killUnmapAll a0 a1)
theorem State.killProgress_good (a0 : State) (a1 : ℕ) (h0 : a0.Good p) : State.Good p (@State.killProgress a0 a1) := by
  have anc : Anchor p := trivial
  unfold State.killProgress
  grind (ematch := 40) (gen := 40) (splits := 24) (ring := false) (linarith := false) (lia := false) (ac := false)
grind_pattern State.killProgress_good => State.Good p (@State.killProgress a0 a1)
theorem execClearEnd_good (a0 : Lcid) (a1 : State) (h1 : a1.Good p) : OutGood p (@execClearEnd a0 a1) := by
  have anc : Anchor p := trivial
  unfold execClearEnd
  grind (ematch := 40) (gen := 40) (splits := 24) (ring := false) (linarith := false) (lia := false) (ac := false) [PRT_CNP_STATUS.CLEAR_BUSY]
grind_pattern execClearEnd_good => OutGood p (@execClearEnd a0 a1)
theorem State.settleBound_good (a0 : State) (a1 : ℕ) (h0 : a0.Good p) : State.Good p (@State.settleBound a0 a1) := by
  have anc : Anchor p := trivial
  unfold State.settleBound
  grind (ematch := 40) (gen := 40) (splits := 24) (ring := false) (linarith := false) (lia := false) (ac := false)
grind_pattern State.settleBound_good => State.Good p (@State.settleBound a0 a1)
theorem State.unbind_good (a0 : State) (a1 : ℕ) (h0 : a0.Good p) : State.Good p (@State.unbind a0 a1) := by
  have anc : Anchor p := trivial
  unfold State.unbind
  grind (ematch := 40) (gen := 40) (splits := 24) (ring := false) (linarith := false) (lia := false) (ac := false) [PRT_ISO_BIND.VALID]
grind_pattern State.unbind_good => State.Good p (@State.unbind a0 a1)
theorem State.bindNow_good (a0 : State) (a1 : ℕ) (h0 : a0.Good p) : State.Good p (@State.bindNow a0 a1) := by
  have anc : Anchor p := trivial
  unfold State.bindNow
  grind (ematch := 40) (gen := 40) (splits := 24) (ring := false) (linarith := false) (lia := false) (ac := false) [PRT_ISO_BIND.CTX, PRT_ISO_BIND.VALID]
grind_pattern State.bindNow_good => State.Good p (@State.bindNow a0 a1)
theorem execBindEffect_good (a0 : Lcid) (a1 : State) (h1 : a1.Good p) : OutGood p (@execBindEffect a0 a1) := by
  have anc : Anchor p := trivial
  unfold execBindEffect
  grind (ematch := 40) (gen := 40) (splits := 24) (ring := false) (linarith := false) (lia := false) (ac := false)
grind_pattern execBindEffect_good => OutGood p (@execBindEffect a0 a1)
theorem execPrtIsoBindWrite_good (c : Lcid) (v : Word) (s : State) (h : s.Good p) : OutGood p (execPrtIsoBindWrite c v s) := by
  refine OutGood.next ?_
  dsimp only
  refine State.Good.ite (State.lockEvent_good _ _ h) ?_
  refine State.Good.ite ((State.unbind_good _ _ h).setFld _ _ _ (by decide)) ?_
  refine State.Good.ite h (State.Good.ite h (State.Good.ite (h.inc _ _ (by decide)) ?_))
  have h1 := ((State.unbind_good _ c h).setFld PRT_ISO_BIND.CTX c (PRT_ISO_BIND.CTX.of v) (by decide)).modCore c
    (fun k => { k with pendBind := some (PRT_ISO_BIND.CTX.of v) }) fun k hk => hk
  exact State.bindNow_good _ _ (State.Good.ite h1 (State.startClear_good _ _ _ h1))
grind_pattern execPrtIsoBindWrite_good => OutGood p (@execPrtIsoBindWrite c v s)
theorem State.dropWaits_good (a0 : State) (a1 : ℕ) (h0 : a0.Good p) : State.Good p (@State.dropWaits a0 a1) := by
  have anc : Anchor p := trivial
  unfold State.dropWaits
  grind (ematch := 40) (gen := 40) (splits := 24) (ring := false) (linarith := false) (lia := false) (ac := false)
grind_pattern State.dropWaits_good => State.Good p (@State.dropWaits a0 a1)
theorem State.endAdmin_good (a0 : State) (h0 : a0.Good p) : State.Good p (@State.endAdmin a0) := by
  have anc : Anchor p := trivial
  unfold State.endAdmin
  grind (ematch := 40) (gen := 40) (splits := 24) (ring := false) (linarith := false) (lia := false) (ac := false)
grind_pattern State.endAdmin_good => State.Good p (@State.endAdmin a0)
theorem execAdminContextDestroy_good (a0 : State) (h0 : a0.Good p) : OutGood p (@execAdminContextDestroy a0) := by
  have anc : Anchor p := trivial
  unfold execAdminContextDestroy
  grind (ematch := 40) (gen := 40) (splits := 24) (ring := false) (linarith := false) (lia := false) (ac := false)
grind_pattern execAdminContextDestroy_good => OutGood p (@execAdminContextDestroy a0)
theorem State.killStop_good (a0 : State) (a1 : ℕ) (h0 : a0.Good p) : State.Good p (@State.killStop a0 a1) := by
  have anc : Anchor p := trivial
  unfold State.killStop
  grind (ematch := 40) (gen := 40) (splits := 24) (ring := false) (linarith := false) (lia := false) (ac := false)
grind_pattern State.killStop_good => State.Good p (@State.killStop a0 a1)
theorem State.killCore_good (a0 : State) (a1 : ℕ) (h0 : a0.Good p) : State.Good p (@State.killCore a0 a1) := by
  have anc : Anchor p := trivial
  unfold State.killCore
  grind (ematch := 40) (gen := 40) (splits := 24) (ring := false) (linarith := false) (lia := false) (ac := false) [PRT_ISO_BIND.VALID]
grind_pattern State.killCore_good => State.Good p (@State.killCore a0 a1)
theorem State.stopOwned_good (a0 : State) (a1 : ℕ) (a2 : ℕ) (h0 : a0.Good p) : State.Good p (@State.stopOwned a0 a1 a2) := by
  have anc : Anchor p := trivial
  unfold State.stopOwned
  grind (ematch := 40) (gen := 40) (splits := 24) (ring := false) (linarith := false) (lia := false) (ac := false)
grind_pattern State.stopOwned_good => State.Good p (@State.stopOwned a0 a1 a2)
theorem State.startKill_good (a0 : State) (a1 : ℕ) (a2 : Bool) (h0 : a0.Good p) : State.Good p (@State.startKill a0 a1 a2) := by
  have anc : Anchor p := trivial
  unfold State.startKill
  grind (ematch := 40) (gen := 40) (splits := 24) (ring := false) (linarith := false) (lia := false) (ac := false)
grind_pattern State.startKill_good => State.Good p (@State.startKill a0 a1 a2)
theorem execKill_good (a0 : PartId) (a1 : State) (h1 : a1.Good p) : OutGood p (@execKill a0 a1) := by
  have anc : Anchor p := trivial
  unfold execKill
  grind (ematch := 40) (gen := 40) (splits := 24) (ring := false) (linarith := false) (lia := false) (ac := false) [PRT_ISO_CTX.CTX_LOCAL]
grind_pattern execKill_good => OutGood p (@execKill a0 a1)
theorem execDestroy_good (a0 : PartId) (a1 : State) (h1 : a1.Good p) : OutGood p (@execDestroy a0 a1) := by
  have anc : Anchor p := trivial
  unfold execDestroy
  grind (ematch := 40) (gen := 40) (splits := 24) (ring := false) (linarith := false) (lia := false) (ac := false)
grind_pattern execDestroy_good => OutGood p (@execDestroy a0 a1)
theorem execKeyErasure_good (a0 : Fin 4096) (a1 : State) (h1 : a1.Good p) : OutGood p (@execKeyErasure a0 a1) := by
  have anc : Anchor p := trivial
  unfold execKeyErasure
  grind (ematch := 40) (gen := 40) (splits := 24) (ring := false) (linarith := false) (lia := false) (ac := false)
grind_pattern execKeyErasure_good => OutGood p (@execKeyErasure a0 a1)
theorem execContextRelease_good (a0 : Fin 4096) (a1 : State) (h1 : a1.Good p) : OutGood p (@execContextRelease a0 a1) := by
  have anc : Anchor p := trivial
  unfold execContextRelease
  grind (ematch := 40) (gen := 40) (splits := 24) (ring := false) (linarith := false) (lia := false) (ac := false) [PRT_ISO_CNT.KILL_CNT]
grind_pattern execContextRelease_good => OutGood p (@execContextRelease a0 a1)
theorem State.dissolve_good (a0 : State) (a1 : ℕ) (h0 : a0.Good p) : State.Good p (@State.dissolve a0 a1) := by
  have anc : Anchor p := trivial
  unfold State.dissolve
  grind (ematch := 40) (gen := 40) (splits := 24) (ring := false) (linarith := false) (lia := false) (ac := false)
grind_pattern State.dissolve_good => State.Good p (@State.dissolve a0 a1)
theorem State.configure_good (a0 : State) (a1 : ℕ) (h0 : a0.Good p) : State.Good p (@State.configure a0 a1) := by
  have anc : Anchor p := trivial
  unfold State.configure
  grind (ematch := 40) (gen := 40) (splits := 24) (ring := false) (linarith := false) (lia := false) (ac := false)
grind_pattern State.configure_good => State.Good p (@State.configure a0 a1)
theorem State.emptyInst_good (a0 : State) (a1 : ℕ) (h0 : a0.Good p) : State.Good p (@State.emptyInst a0 a1) := by
  have anc : Anchor p := trivial
  unfold State.emptyInst
  grind (ematch := 40) (gen := 40) (splits := 24) (ring := false) (linarith := false) (lia := false) (ac := false)
grind_pattern State.emptyInst_good => State.Good p (@State.emptyInst a0 a1)
theorem State.unbindAcross_good (a0 : State) (a1 : List ℕ) (h0 : a0.Good p) : State.Good p (@State.unbindAcross a0 a1) := by
  have anc : Anchor p := trivial
  unfold State.unbindAcross
  grind (ematch := 40) (gen := 40) (splits := 24) (ring := false) (linarith := false) (lia := false) (ac := false)
grind_pattern State.unbindAcross_good => State.Good p (@State.unbindAcross a0 a1)
theorem execPrtIsoGrpWrite_good (a0 : PartId) (a1 : Word) (a2 : State) (h2 : a2.Good p) : OutGood p (@execPrtIsoGrpWrite a0 a1 a2) := by
  have anc : Anchor p := trivial
  unfold execPrtIsoGrpWrite
  grind (ematch := 40) (gen := 40) (splits := 24) (ring := false) (linarith := false) (lia := false) (ac := false) [PRT_ISO_GRP.GROUP_MASK]
grind_pattern execPrtIsoGrpWrite_good => OutGood p (@execPrtIsoGrpWrite a0 a1 a2)
theorem State.partReset_good (a0 : State) (a1 : ℕ) (h0 : a0.Good p) : State.Good p (@State.partReset a0 a1) := by
  have anc : Anchor p := trivial
  unfold State.partReset
  grind (ematch := 40) (gen := 40) (splits := 24) (ring := false) (linarith := false) (lia := false) (ac := false) [PRT_OUT_STATUS.SLOT_VALID]
grind_pattern State.partReset_good => State.Good p (@State.partReset a0 a1)
theorem execFlrVf_good (a0 : PartId) (a1 : State) (h1 : a1.Good p) : OutGood p (@execFlrVf a0 a1) := by
  have anc : Anchor p := trivial
  unfold execFlrVf
  grind (ematch := 40) (gen := 40) (splits := 24) (ring := false) (linarith := false) (lia := false) (ac := false)
grind_pattern execFlrVf_good => OutGood p (@execFlrVf a0 a1)
theorem State.setSnaps_good (a0 : State) (a1 : ℕ) (a2 : List Snap) (h0 : a0.Good p) : State.Good p (@State.setSnaps a0 a1 a2) := by
  have anc : Anchor p := trivial
  unfold State.setSnaps
  grind (ematch := 40) (gen := 40) (splits := 24) (ring := false) (linarith := false) (lia := false) (ac := false)
grind_pattern State.setSnaps_good => State.Good p (@State.setSnaps a0 a1 a2)
theorem State.putSnap_good (a0 : State) (a1 : ℕ) (a2 : Snap) (h0 : a0.Good p) : State.Good p (@State.putSnap a0 a1 a2) := by
  have anc : Anchor p := trivial
  unfold State.putSnap
  grind (ematch := 40) (gen := 40) (splits := 24) (ring := false) (linarith := false) (lia := false) (ac := false)
grind_pattern State.putSnap_good => State.Good p (@State.putSnap a0 a1 a2)
theorem execSnapshot_good (a0 : RingId) (a1 : State) (h1 : a1.Good p) : OutGood p (@execSnapshot a0 a1) := by
  have anc : Anchor p := trivial
  unfold execSnapshot
  grind (ematch := 40) (gen := 40) (splits := 24) (ring := false) (linarith := false) (lia := false) (ac := false)
grind_pattern execSnapshot_good => OutGood p (@execSnapshot a0 a1)
theorem State.endSnap_good (a0 : State) (a1 : ℕ) (a2 : Snap) (h0 : a0.Good p) : State.Good p (@State.endSnap a0 a1 a2) := by
  have anc : Anchor p := trivial
  unfold State.endSnap
  grind (ematch := 40) (gen := 40) (splits := 24) (ring := false) (linarith := false) (lia := false) (ac := false)
grind_pattern State.endSnap_good => State.Good p (@State.endSnap a0 a1 a2)
theorem State.snapOwn_good (a0 : State) (a1 : ℕ) (a2 : Snap) (a3 : ℕ) (h0 : a0.Good p) : State.Good p (@State.snapOwn a0 a1 a2 a3) := by
  have anc : Anchor p := trivial
  unfold State.snapOwn
  grind (ematch := 40) (gen := 40) (splits := 24) (ring := false) (linarith := false) (lia := false) (ac := false)
grind_pattern State.snapOwn_good => State.Good p (@State.snapOwn a0 a1 a2 a3)
theorem State.capture_good (a0 : State) (a1 : ℕ) (a2 : Snap) (h0 : a0.Good p) : State.Good p (@State.capture a0 a1 a2) := by
  have anc : Anchor p := trivial
  unfold State.capture
  grind (ematch := 40) (gen := 40) (splits := 24) (ring := false) (linarith := false) (lia := false) (ac := false)
grind_pattern State.capture_good => State.Good p (@State.capture a0 a1 a2)
theorem execSnapshotCapture_good (a0 : PartId) (a1 : State) (h1 : a1.Good p) : OutGood p (@execSnapshotCapture a0 a1) := by
  have anc : Anchor p := trivial
  unfold execSnapshotCapture
  grind (ematch := 40) (gen := 40) (splits := 24) (ring := false) (linarith := false) (lia := false) (ac := false)
grind_pattern execSnapshotCapture_good => OutGood p (@execSnapshotCapture a0 a1)
theorem execSnapshotCopyEnd_good (a0 : PartId) (a1 : State) (h1 : a1.Good p) : OutGood p (@execSnapshotCopyEnd a0 a1) := by
  have anc : Anchor p := trivial
  unfold execSnapshotCopyEnd
  grind (ematch := 40) (gen := 40) (splits := 24) (ring := false) (linarith := false) (lia := false) (ac := false)
grind_pattern execSnapshotCopyEnd_good => OutGood p (@execSnapshotCopyEnd a0 a1)
theorem State.snapReport_good (a0 : State) (a1 : ℕ) (a2 : ℕ) (a3 : ℕ) (a4 : ℕ) (h0 : a0.Good p) : State.Good p (@State.snapReport a0 a1 a2 a3 a4) := by
  have anc : Anchor p := trivial
  unfold State.snapReport
  grind (ematch := 40) (gen := 40) (splits := 24) (ring := false) (linarith := false) (lia := false) (ac := false)
grind_pattern State.snapReport_good => State.Good p (@State.snapReport a0 a1 a2 a3 a4)
theorem State.putMig_good (a0 : State) (a1 : MigOut) (h0 : a0.Good p) : State.Good p (@State.putMig a0 a1) := by
  have anc : Anchor p := trivial
  unfold State.putMig
  grind (ematch := 40) (gen := 40) (splits := 24) (ring := false) (linarith := false) (lia := false) (ac := false)
grind_pattern State.putMig_good => State.Good p (@State.putMig a0 a1)
theorem State.dropMig_good (a0 : State) (a1 : ℕ) (h0 : a0.Good p) : State.Good p (@State.dropMig a0 a1) := by
  have anc : Anchor p := trivial
  unfold State.dropMig
  grind (ematch := 40) (gen := 40) (splits := 24) (ring := false) (linarith := false) (lia := false) (ac := false)
grind_pattern State.dropMig_good => State.Good p (@State.dropMig a0 a1)
theorem State.modMigIn_good (a0 : State) (a1 : ℕ) (a2 : ℕ) (a3 : MigIn → MigIn) (h0 : a0.Good p) : State.Good p (@State.modMigIn a0 a1 a2 a3) := by
  have anc : Anchor p := trivial
  unfold State.modMigIn
  grind (ematch := 40) (gen := 40) (splits := 24) (ring := false) (linarith := false) (lia := false) (ac := false)
grind_pattern State.modMigIn_good => State.Good p (@State.modMigIn a0 a1 a2 a3)
theorem State.dropMigIn_good (a0 : State) (a1 : ℕ) (a2 : ℕ) (h0 : a0.Good p) : State.Good p (@State.dropMigIn a0 a1 a2) := by
  have anc : Anchor p := trivial
  unfold State.dropMigIn
  grind (ematch := 40) (gen := 40) (splits := 24) (ring := false) (linarith := false) (lia := false) (ac := false)
grind_pattern State.dropMigIn_good => State.Good p (@State.dropMigIn a0 a1 a2)
theorem execMigrate_good (a0 : RingId) (a1 : State) (h1 : a1.Good p) : OutGood p (@execMigrate a0 a1) := by
  have anc : Anchor p := trivial
  unfold execMigrate
  grind (ematch := 40) (gen := 40) (splits := 24) (ring := false) (linarith := false) (lia := false) (ac := false) [VF_CTX_STATUS.EPOCH]
grind_pattern execMigrate_good => OutGood p (@execMigrate a0 a1)
theorem State.tellSource_good (a0 : State) (a1 : ℕ) (a2 : ℕ) (a3 : ℕ) (a4 : Bool) (h0 : a0.Good p) : State.Good p (@State.tellSource a0 a1 a2 a3 a4) := by
  have anc : Anchor p := trivial
  unfold State.tellSource
  grind (ematch := 40) (gen := 40) (splits := 24) (ring := false) (linarith := false) (lia := false) (ac := false)
grind_pattern State.tellSource_good => State.Good p (@State.tellSource a0 a1 a2 a3 a4)
theorem State.takeMigrate_good (a0 : State) (a1 : ℕ) (a2 : ℕ) (a3 : ℕ) (a4 : ℕ) (a5 : ℕ) (a6 : ℕ) (a7 : ℕ) (a8 : ℕ) (h0 : a0.Good p) : State.Good p (@State.takeMigrate a0 a1 a2 a3 a4 a5 a6 a7 a8) := by
  have anc : Anchor p := trivial
  unfold State.takeMigrate
  grind (ematch := 40) (gen := 40) (splits := 24) (ring := false) (linarith := false) (lia := false) (ac := false) [ZXL_MIG_IN.DST_CTX]
grind_pattern State.takeMigrate_good => State.Good p (@State.takeMigrate a0 a1 a2 a3 a4 a5 a6 a7 a8)
theorem State.abandonMig_good (a0 : State) (a1 : MigOut) (a2 : ℕ) (h0 : a0.Good p) : State.Good p (@State.abandonMig a0 a1 a2) := by
  have anc : Anchor p := trivial
  unfold State.abandonMig
  grind (ematch := 40) (gen := 40) (splits := 24) (ring := false) (linarith := false) (lia := false) (ac := false)
grind_pattern State.abandonMig_good => State.Good p (@State.abandonMig a0 a1 a2)
theorem execMigrationTick_good (a0 : Fin 4096) (a1 : State) (h1 : a1.Good p) : OutGood p (@execMigrationTick a0 a1) := by
  have anc : Anchor p := trivial
  unfold execMigrationTick
  grind (ematch := 40) (gen := 40) (splits := 24) (ring := false) (linarith := false) (lia := false) (ac := false)
grind_pattern execMigrationTick_good => OutGood p (@execMigrationTick a0 a1)
theorem State.setEpoch_good (a0 : State) (a1 : ℕ) (a2 : ℕ) (h0 : a0.Good p) : State.Good p (@State.setEpoch a0 a1 a2) := by
  have anc : Anchor p := trivial
  unfold State.setEpoch
  grind (ematch := 40) (gen := 40) (splits := 24) (ring := false) (linarith := false) (lia := false) (ac := false) [VF_CTX_STATUS.EPOCH]
grind_pattern State.setEpoch_good => State.Good p (@State.setEpoch a0 a1 a2)
theorem State.stopSteps_good (a0 : State) (a1 : ℕ) (h0 : a0.Good p) : State.Good p (@State.stopSteps a0 a1) := by
  have anc : Anchor p := trivial
  unfold State.stopSteps
  grind (ematch := 40) (gen := 40) (splits := 24) (ring := false) (linarith := false) (lia := false) (ac := false)
grind_pattern State.stopSteps_good => State.Good p (@State.stopSteps a0 a1)
theorem State.tellSeq_good (a0 : State) (a1 : ℕ) (a2 : ℕ) (a3 : List Byte) (h0 : a0.Good p) : State.Good p (@State.tellSeq a0 a1 a2 a3) := by
  have anc : Anchor p := trivial
  unfold State.tellSeq
  grind (ematch := 40) (gen := 40) (splits := 24) (ring := false) (linarith := false) (lia := false) (ac := false)
grind_pattern State.tellSeq_good => State.Good p (@State.tellSeq a0 a1 a2 a3)
theorem State.endMig_good (a0 : State) (a1 : MigOut) (h0 : a0.Good p) : State.Good p (@State.endMig a0 a1) := by
  have anc : Anchor p := trivial
  unfold State.endMig
  grind (ematch := 40) (gen := 40) (splits := 24) (ring := false) (linarith := false) (lia := false) (ac := false)
grind_pattern State.endMig_good => State.Good p (@State.endMig a0 a1)
theorem State.migSourceB_good (a0 : State) (a1 : MigOut) (h0 : a0.Good p) : State.Good p (@State.migSourceB a0 a1) := by
  have anc : Anchor p := trivial
  unfold State.migSourceB
  grind (ematch := 40) (gen := 40) (splits := 24) (ring := false) (linarith := false) (lia := false) (ac := false) [VF_CTX_STATUS.EPOCH]
grind_pattern State.migSourceB_good => State.Good p (@State.migSourceB a0 a1)
theorem State.migPeerB_good (a0 : State) (a1 : MigIn) (h0 : a0.Good p) : State.Good p (@State.migPeerB a0 a1) := by
  have anc : Anchor p := trivial
  unfold State.migPeerB
  grind (ematch := 40) (gen := 40) (splits := 24) (ring := false) (linarith := false) (lia := false) (ac := false)
grind_pattern State.migPeerB_good => State.Good p (@State.migPeerB a0 a1)
theorem execMigrateBoundary_good (a0 : Fin 4096) (a1 : State) (h1 : a1.Good p) : OutGood p (@execMigrateBoundary a0 a1) := by
  have anc : Anchor p := trivial
  unfold execMigrateBoundary
  grind (ematch := 40) (gen := 40) (splits := 24) (ring := false) (linarith := false) (lia := false) (ac := false)
grind_pattern execMigrateBoundary_good => OutGood p (@execMigrateBoundary a0 a1)
theorem State.takeMigSeq_good (a0 : State) (a1 : ℕ) (a2 : ℕ) (a3 : MigSeq) (a4 : List Byte) (h0 : a0.Good p) : State.Good p (@State.takeMigSeq a0 a1 a2 a3 a4) := by
  have anc : Anchor p := trivial
  unfold State.takeMigSeq
  grind (ematch := 40) (gen := 40) (splits := 24) (ring := false) (linarith := false) (lia := false) (ac := false)
grind_pattern State.takeMigSeq_good => State.Good p (@State.takeMigSeq a0 a1 a2 a3 a4)
theorem State.takeMigTotal_good (a0 : State) (a1 : MigIn) (a2 : ℕ) (h0 : a0.Good p) : State.Good p (@State.takeMigTotal a0 a1 a2) := by
  have anc : Anchor p := trivial
  unfold State.takeMigTotal
  grind (ematch := 40) (gen := 40) (splits := 24) (ring := false) (linarith := false) (lia := false) (ac := false) [ZXL_MIG_MAP.DONE]
grind_pattern State.takeMigTotal_good => State.Good p (@State.takeMigTotal a0 a1 a2)
theorem State.takeMigAnswer_good (a0 : State) (a1 : MigOut) (a2 : ℕ) (a3 : Bool) (h0 : a0.Good p) : State.Good p (@State.takeMigAnswer a0 a1 a2 a3) := by
  have anc : Anchor p := trivial
  unfold State.takeMigAnswer
  grind (ematch := 40) (gen := 40) (splits := 24) (ring := false) (linarith := false) (lia := false) (ac := false)
grind_pattern State.takeMigAnswer_good => State.Good p (@State.takeMigAnswer a0 a1 a2 a3)
theorem State.takeMigDone_good (a0 : State) (a1 : ℕ) (a2 : ℕ) (a3 : ℕ) (a4 : Bool) (h0 : a0.Good p) : State.Good p (@State.takeMigDone a0 a1 a2 a3 a4) := by
  have anc : Anchor p := trivial
  unfold State.takeMigDone
  grind (ematch := 40) (gen := 40) (splits := 24) (ring := false) (linarith := false) (lia := false) (ac := false)
grind_pattern State.takeMigDone_good => State.Good p (@State.takeMigDone a0 a1 a2 a3 a4)
theorem State.landSeq_good (a0 : State) (a1 : MigIn) (a2 : MigSeq) (a3 : List Byte) (h0 : a0.Good p) : State.Good p (@State.landSeq a0 a1 a2 a3) := by
  have anc : Anchor p := trivial
  unfold State.landSeq
  grind (ematch := 40) (gen := 40) (splits := 24) (ring := false) (linarith := false) (lia := false) (ac := false) [ZXL_MIG_IN.POOL, ZXL_MIG_MAP.MAP_OVA, ZXL_MIG_MAP.DONE]
grind_pattern State.landSeq_good => State.Good p (@State.landSeq a0 a1 a2 a3)
theorem execMigrateSequenceLanded_good (a0 : Fin 4096) (a1 : Fin 262144) (a2 : State) (h2 : a2.Good p) : OutGood p (@execMigrateSequenceLanded a0 a1 a2) := by
  have anc : Anchor p := trivial
  unfold execMigrateSequenceLanded
  grind (ematch := 40) (gen := 40) (splits := 24) (ring := false) (linarith := false) (lia := false) (ac := false)
grind_pattern execMigrateSequenceLanded_good => OutGood p (@execMigrateSequenceLanded a0 a1 a2)

end Sys2Proof.Machine
end

