-- ==== Sys2Proof/Laws/GoodDevice.lean ====
section
/-! SUPPORT. The canonical form of a state: what links, memories, faults, security, power, host writes and thread instructions keep. -/

namespace Sys2Proof.Machine

-- One theorem at a time: each thread takes a stack of its own.
set_option Elab.async false

variable {p : List Instr}

theorem State.setLinkState_good (a0 : State) (a1 : ℕ) (a2 : ℕ) (h0 : a0.Good p) : State.Good p (@State.setLinkState a0 a1 a2) := by
  have anc : Anchor p := trivial
  unfold State.setLinkState
  grind (ematch := 40) (gen := 40) (splits := 24) (ring := false) (linarith := false) (lia := false) (ac := false) [ZXL_LNK_STATUS.STATE]
grind_pattern State.setLinkState_good => State.Good p (@State.setLinkState a0 a1 a2)
theorem State.linkDown_good (a0 : State) (a1 : ℕ) (a2 : ℕ) (h0 : a0.Good p) : State.Good p (@State.linkDown a0 a1 a2) := by
  have anc : Anchor p := trivial
  unfold State.linkDown
  grind (ematch := 40) (gen := 40) (splits := 24) (ring := false) (linarith := false) (lia := false) (ac := false) [ZXL_LNK_STATUS.WIDTH]
grind_pattern State.linkDown_good => State.Good p (@State.linkDown a0 a1 a2)
theorem State.linkBad_good (a0 : State) (a1 : ℕ) (a2 : ℕ) (h0 : a0.Good p) : State.Good p (@State.linkBad a0 a1 a2) := by
  have anc : Anchor p := trivial
  unfold State.linkBad
  grind (ematch := 40) (gen := 40) (splits := 24) (ring := false) (linarith := false) (lia := false) (ac := false)
grind_pattern State.linkBad_good => State.Good p (@State.linkBad a0 a1 a2)
theorem State.startRetrain_good (a0 : State) (a1 : ℕ) (h0 : a0.Good p) : State.Good p (@State.startRetrain a0 a1) := by
  have anc : Anchor p := trivial
  unfold State.startRetrain
  grind (ematch := 40) (gen := 40) (splits := 24) (ring := false) (linarith := false) (lia := false) (ac := false)
grind_pattern State.startRetrain_good => State.Good p (@State.startRetrain a0 a1)
theorem State.retireLane_good (a0 : State) (a1 : ℕ) (a2 : ℕ) (h0 : a0.Good p) : State.Good p (@State.retireLane a0 a1 a2) := by
  have anc : Anchor p := trivial
  unfold State.retireLane
  grind (ematch := 40) (gen := 40) (splits := 24) (ring := false) (linarith := false) (lia := false) (ac := false) [ZXL_LNK_STATUS.RETIRED, ZXL_LNK_STATUS.WIDTH, HUB_CAP_RES.ZX_LINKS]
grind_pattern State.retireLane_good => State.Good p (@State.retireLane a0 a1 a2)
theorem execLaneRetire_good (a0 : Fin 8) (a1 : Fin 9) (a2 : State) (h2 : a2.Good p) : OutGood p (@execLaneRetire a0 a1 a2) := by
  have anc : Anchor p := trivial
  unfold execLaneRetire
  grind (ematch := 40) (gen := 40) (splits := 24) (ring := false) (linarith := false) (lia := false) (ac := false)
grind_pattern execLaneRetire_good => OutGood p (@execLaneRetire a0 a1 a2)
theorem execLaneErrorRate_good (a0 : Fin 8) (a1 : Fin 9) (a2 : State) (h2 : a2.Good p) : OutGood p (@execLaneErrorRate a0 a1 a2) := by
  have anc : Anchor p := trivial
  unfold execLaneErrorRate
  grind (ematch := 40) (gen := 40) (splits := 24) (ring := false) (linarith := false) (lia := false) (ac := false)
grind_pattern execLaneErrorRate_good => OutGood p (@execLaneErrorRate a0 a1 a2)
theorem execRetrainTimeout_good (a0 : Fin 8) (a1 : State) (h1 : a1.Good p) : OutGood p (@execRetrainTimeout a0 a1) := by
  have anc : Anchor p := trivial
  unfold execRetrainTimeout
  grind (ematch := 40) (gen := 40) (splits := 24) (ring := false) (linarith := false) (lia := false) (ac := false)
grind_pattern execRetrainTimeout_good => OutGood p (@execRetrainTimeout a0 a1)
theorem State.enableLink_good (a0 : State) (a1 : ℕ) (a2 : Bool) (h0 : a0.Good p) : State.Good p (@State.enableLink a0 a1 a2) := by
  have anc : Anchor p := trivial
  unfold State.enableLink
  grind (ematch := 40) (gen := 40) (splits := 24) (ring := false) (linarith := false) (lia := false) (ac := false) [ZXL_LNK_CTL.EN]
grind_pattern State.enableLink_good => State.Good p (@State.enableLink a0 a1 a2)
theorem execLinkEnable_good (a0 : Fin 8) (a1 : Bool) (a2 : State) (h2 : a2.Good p) : OutGood p (@execLinkEnable a0 a1 a2) := by
  have anc : Anchor p := trivial
  unfold execLinkEnable
  grind (ematch := 40) (gen := 40) (splits := 24) (ring := false) (linarith := false) (lia := false) (ac := false)
grind_pattern execLinkEnable_good => OutGood p (@execLinkEnable a0 a1 a2)
theorem execPeerDetected_good (a0 : Fin 8) (a1 : State) (h1 : a1.Good p) : OutGood p (@execPeerDetected a0 a1) := by
  have anc : Anchor p := trivial
  unfold execPeerDetected
  grind (ematch := 40) (gen := 40) (splits := 24) (ring := false) (linarith := false) (lia := false) (ac := false) [ZXL_LNK_CTL.EN, ZXL_BOARD.ENUM_DONE]
grind_pattern execPeerDetected_good => OutGood p (@execPeerDetected a0 a1)
theorem execTrain_good (a0 : FrameIn) (a1 : LinkCaps) (a2 : State) (h2 : a2.Good p) : OutGood p (@execTrain a0 a1 a2) := by
  have anc : Anchor p := trivial
  unfold execTrain
  grind (ematch := 40) (gen := 40) (splits := 24) (ring := false) (linarith := false) (lia := false) (ac := false) [ZXL_LNK_STATUS.PEER_BOARD, ZXL_LNK_STATUS.PEER_BDID]
grind_pattern execTrain_good => OutGood p (@execTrain a0 a1 a2)
theorem State.resend_good (a0 : State) (a1 : ℕ) (h0 : a0.Good p) : State.Good p (@State.resend a0 a1) := by
  have anc : Anchor p := trivial
  unfold State.resend
  grind (ematch := 40) (gen := 40) (splits := 24) (ring := false) (linarith := false) (lia := false) (ac := false)
grind_pattern State.resend_good => State.Good p (@State.resend a0 a1)
theorem execLinkActive_good (a0 : Fin 8) (a1 : State) (h1 : a1.Good p) : OutGood p (@execLinkActive a0 a1) := by
  have anc : Anchor p := trivial
  unfold execLinkActive
  grind (ematch := 40) (gen := 40) (splits := 24) (ring := false) (linarith := false) (lia := false) (ac := false) [ZXL_CAP.ZXP_VERSIONS, ZXL_LNK_STATUS.RETIRED, ZXL_LNK_STATUS.WIDTH, ZXL_LNK_STATUS.ZXP_VER]
grind_pattern execLinkActive_good => OutGood p (@execLinkActive a0 a1)
theorem State.askReplay_good (a0 : State) (a1 : ℕ) (h0 : a0.Good p) : State.Good p (@State.askReplay a0 a1) := by
  have anc : Anchor p := trivial
  unfold State.askReplay
  grind (ematch := 40) (gen := 40) (splits := 24) (ring := false) (linarith := false) (lia := false) (ac := false)
grind_pattern State.askReplay_good => State.Good p (@State.askReplay a0 a1)
theorem State.fecFrame_good (a0 : State) (a1 : ℕ) (a2 : Bool) (h0 : a0.Good p) (_anc : Anchor p) : State.Good p (@State.fecFrame a0 a1 a2).2 := by
  have anc : Anchor p := trivial
  unfold State.fecFrame
  grind (ematch := 40) (gen := 40) (splits := 24) (ring := false) (linarith := false) (lia := false) (ac := false) [ZXL_LNK_CNT.FEC_CORR, ZXL_LNK_CNT.FEC_UNCORR]
grind_pattern State.fecFrame_good => State.Good p (@State.fecFrame a0 a1 a2).2
grind_pattern State.fecFrame_good => @State.fecFrame a0 a1 a2, Anchor p
theorem State.inSeq_good (a0 : State) (a1 : FrameIn) (a2 : State → State) (h0 : a0.Good p) (h2 : ∀ (b0 : State), b0.Good p → State.Good p (a2 b0)) : State.Good p (@State.inSeq a0 a1 a2) := by
  have anc : Anchor p := trivial
  unfold State.inSeq
  grind (ematch := 40) (gen := 40) (splits := 24) (ring := false) (linarith := false) (lia := false) (ac := false)
grind_pattern State.inSeq_good => State.Good p (@State.inSeq a0 a1 a2)
theorem State.linkLocal_good (a0 : State) (a1 : FrameIn) (a2 : State → State) (h0 : a0.Good p) (h2 : ∀ (b0 : State), b0.Good p → State.Good p (a2 b0)) : State.Good p (@State.linkLocal a0 a1 a2) := by
  have anc : Anchor p := trivial
  unfold State.linkLocal
  grind (ematch := 40) (gen := 40) (splits := 24) (ring := false) (linarith := false) (lia := false) (ac := false)
grind_pattern State.linkLocal_good => State.Good p (@State.linkLocal a0 a1 a2)
theorem execIdle_good (a0 : FrameIn) (a1 : State) (h1 : a1.Good p) : OutGood p (@execIdle a0 a1) := by
  have anc : Anchor p := trivial
  unfold execIdle
  grind (ematch := 40) (gen := 40) (splits := 24) (ring := false) (linarith := false) (lia := false) (ac := false)
grind_pattern execIdle_good => OutGood p (@execIdle a0 a1)
theorem execCredit_good (a0 : FrameIn) (a1 : State) (h1 : a1.Good p) : OutGood p (@execCredit a0 a1) := by
  have anc : Anchor p := trivial
  unfold execCredit
  grind (ematch := 40) (gen := 40) (splits := 24) (ring := false) (linarith := false) (lia := false) (ac := false)
grind_pattern execCredit_good => OutGood p (@execCredit a0 a1)
theorem execAck_good (a0 : FrameIn) (a1 : State) (h1 : a1.Good p) : OutGood p (@execAck a0 a1) := by
  have anc : Anchor p := trivial
  unfold execAck
  grind (ematch := 40) (gen := 40) (splits := 24) (ring := false) (linarith := false) (lia := false) (ac := false)
grind_pattern execAck_good => OutGood p (@execAck a0 a1)
theorem execNak_good (a0 : FrameIn) (a1 : State) (h1 : a1.Good p) : OutGood p (@execNak a0 a1) := by
  have anc : Anchor p := trivial
  unfold execNak
  grind (ematch := 40) (gen := 40) (splits := 24) (ring := false) (linarith := false) (lia := false) (ac := false) [ZXL_LNK_CNT.REPLAYS]
grind_pattern execNak_good => OutGood p (@execNak a0 a1)
theorem execFrameReservedType_good (a0 : FrameIn) (a1 : State) (h1 : a1.Good p) : OutGood p (@execFrameReservedType a0 a1) := by
  have anc : Anchor p := trivial
  unfold execFrameReservedType
  grind (ematch := 40) (gen := 40) (splits := 24) (ring := false) (linarith := false) (lia := false) (ac := false) [ZXL_LNK_CNT.FEC_UNCORR]
grind_pattern execFrameReservedType_good => OutGood p (@execFrameReservedType a0 a1)
theorem State.rxLand_good (a0 : State) (a1 : RxXfer) (a2 : ℕ) (a3 : ℕ) (a4 : ℕ) (h0 : a0.Good p) : State.Good p (@State.rxLand a0 a1 a2 a3 a4) := by
  have anc : Anchor p := trivial
  unfold State.rxLand
  grind (ematch := 40) (gen := 40) (splits := 24) (ring := false) (linarith := false) (lia := false) (ac := false)
grind_pattern State.rxLand_good => State.Good p (@State.rxLand a0 a1 a2 a3 a4)
theorem State.rxBlocks_good (a0 : State) (a1 : RxXfer) (a2 : ℕ) (a3 : ℕ) (a4 : ℕ) (a5 : List Byte) (h0 : a0.Good p) (_anc : Anchor p) : State.Good p (@State.rxBlocks a0 a1 a2 a3 a4 a5).2 := by
  have anc : Anchor p := trivial
  fun_induction State.rxBlocks a0 a1 a2 a3 a4 a5
  all_goals grind (ematch := 40) (gen := 40) (splits := 24) (ring := false) (linarith := false) (lia := false) (ac := false)
grind_pattern State.rxBlocks_good => State.Good p (@State.rxBlocks a0 a1 a2 a3 a4 a5).2
grind_pattern State.rxBlocks_good => @State.rxBlocks a0 a1 a2 a3 a4 a5, Anchor p
theorem State.rxLandOva_good (a0 : State) (a1 : RxXfer) (a2 : ℕ) (a3 : ℕ) (h0 : a0.Good p) (_anc : Anchor p) : State.Good p (@State.rxLandOva a0 a1 a2 a3).2 := by
  have anc : Anchor p := trivial
  unfold State.rxLandOva
  grind (ematch := 40) (gen := 40) (splits := 24) (ring := false) (linarith := false) (lia := false) (ac := false) [PRT_CNP_WIN.REFUSED]
grind_pattern State.rxLandOva_good => State.Good p (@State.rxLandOva a0 a1 a2 a3).2
grind_pattern State.rxLandOva_good => @State.rxLandOva a0 a1 a2 a3, Anchor p
theorem State.rxAdmit_good (a0 : State) (a1 : RxXfer) (a2 : ℕ) (a3 : ℕ) (h0 : a0.Good p) (_anc : Anchor p) : State.Good p (@State.rxAdmit a0 a1 a2 a3).2 := by
  have anc : Anchor p := trivial
  unfold State.rxAdmit
  grind (ematch := 40) (gen := 40) (splits := 24) (ring := false) (linarith := false) (lia := false) (ac := false)
grind_pattern State.rxAdmit_good => State.Good p (@State.rxAdmit a0 a1 a2 a3).2
grind_pattern State.rxAdmit_good => @State.rxAdmit a0 a1 a2 a3, Anchor p
theorem State.rxTrunk_good (a0 : State) (a1 : RxXfer) (h0 : a0.Good p) (_anc : Anchor p) (u) (e : @State.rxTrunk a0 a1 = some u) : State.Good p u.2 := by
  have anc : Anchor p := trivial
  unfold State.rxTrunk at e
  grind (ematch := 40) (gen := 40) (splits := 24) (ring := false) (linarith := false) (lia := false) (ac := false) [PRT_XL_STREAM.EPOCH_DROP]
grind_pattern State.rxTrunk_good => @State.rxTrunk a0 a1, Anchor p, some u
theorem State.rxWindow_good (a0 : State) (a1 : RxXfer) (h0 : a0.Good p) (_anc : Anchor p) : State.Good p (@State.rxWindow a0 a1).2 := by
  have anc : Anchor p := trivial
  unfold State.rxWindow
  grind (ematch := 40) (gen := 40) (splits := 24) (ring := false) (linarith := false) (lia := false) (ac := false) [PRT_XL_STREAM.EPOCH_DROP, PRT_CNP_WIN.REFUSED]
grind_pattern State.rxWindow_good => State.Good p (@State.rxWindow a0 a1).2
grind_pattern State.rxWindow_good => @State.rxWindow a0 a1, Anchor p
theorem State.rxEnd_good (a0 : State) (a1 : RxXfer) (h0 : a0.Good p) : State.Good p (@State.rxEnd a0 a1) := by
  have anc : Anchor p := trivial
  unfold State.rxEnd
  grind (ematch := 40) (gen := 40) (splits := 24) (ring := false) (linarith := false) (lia := false) (ac := false) [PRT_XL_MIG.MIG_WAITS]
grind_pattern State.rxEnd_good => State.Good p (@State.rxEnd a0 a1)
theorem State.rxRetry_good (a0 : State) (h0 : a0.Good p) : State.Good p (@State.rxRetry a0) := by
  have anc : Anchor p := trivial
  unfold State.rxRetry
  grind (ematch := 40) (gen := 40) (splits := 24) (ring := false) (linarith := false) (lia := false) (ac := false)
grind_pattern State.rxRetry_good => State.Good p (@State.rxRetry a0)
theorem State.rxFrame_good (a0 : State) (a1 : ℕ) (a2 : FrameIn) (a3 : ℕ) (h0 : a0.Good p) : State.Good p (@State.rxFrame a0 a1 a2 a3) := by
  have anc : Anchor p := trivial
  unfold State.rxFrame
  grind (ematch := 40) (gen := 40) (splits := 24) (ring := false) (linarith := false) (lia := false) (ac := false)
grind_pattern State.rxFrame_good => State.Good p (@State.rxFrame a0 a1 a2 a3)
theorem State.takeResp_good (a0 : State) (a1 : ℕ) (h0 : a0.Good p) : State.Good p (@State.takeResp a0 a1) := by
  have anc : Anchor p := trivial
  unfold State.takeResp
  grind (ematch := 40) (gen := 40) (splits := 24) (ring := false) (linarith := false) (lia := false) (ac := false) [ZXL_CNT.EPOCH_NAK]
grind_pattern State.takeResp_good => State.Good p (@State.takeResp a0 a1)
theorem State.takeTile_good (a0 : State) (a1 : ℕ) (a2 : FrameIn) (h0 : a0.Good p) : State.Good p (@State.takeTile a0 a1 a2) := by
  have anc : Anchor p := trivial
  unfold State.takeTile
  grind (ematch := 40) (gen := 40) (splits := 24) (ring := false) (linarith := false) (lia := false) (ac := false) [VF_CTX_STATUS.EPOCH, PRT_XL_STREAM.EPOCH_DROP]
grind_pattern State.takeTile_good => State.Good p (@State.takeTile a0 a1 a2)
theorem State.globalOp_good (a0 : State) (a1 : ℕ) (a2 : ℕ) (a3 : State → ℕ → State) (h0 : a0.Good p) (h3 : ∀ (b0 : State) (b1 : ℕ), b0.Good p → State.Good p (a3 b0 b1)) : State.Good p (@State.globalOp a0 a1 a2 a3) := by
  have anc : Anchor p := trivial
  unfold State.globalOp
  grind (ematch := 40) (gen := 40) (splits := 24) (ring := false) (linarith := false) (lia := false) (ac := false)
grind_pattern State.globalOp_good => State.Good p (@State.globalOp a0 a1 a2 a3)
theorem State.refuseStart_good (a0 : State) (a1 : StartInfo) (a2 : ℕ) (a3 : ℕ) (h0 : a0.Good p) : State.Good p (@State.refuseStart a0 a1 a2 a3) := by
  have anc : Anchor p := trivial
  unfold State.refuseStart
  grind (ematch := 40) (gen := 40) (splits := 24) (ring := false) (linarith := false) (lia := false) (ac := false)
grind_pattern State.refuseStart_good => State.Good p (@State.refuseStart a0 a1 a2 a3)
theorem State.takeStart_good (a0 : State) (a1 : BitVec 384) (a2 : ℕ) (a3 : ℕ) (a4 : ℕ) (a5 : ℕ) (a6 : StartInfo) (h0 : a0.Good p) : State.Good p (@State.takeStart a0 a1 a2 a3 a4 a5 a6) := by
  have anc : Anchor p := trivial
  unfold State.takeStart
  grind (ematch := 40) (gen := 40) (splits := 24) (ring := false) (linarith := false) (lia := false) (ac := false) [ZXL_CNT.SDID_CONFLICT, VF_CTX_STATUS.EPOCH]
grind_pattern State.takeStart_good => State.Good p (@State.takeStart a0 a1 a2 a3 a4 a5 a6)
theorem State.takeCtrl_good (a0 : State) (a1 : FrameIn) (a2 : CtrlMsg) (h0 : a0.Good p) : State.Good p (@State.takeCtrl a0 a1 a2) := by
  have anc : Anchor p := trivial
  unfold State.takeCtrl
  grind (ematch := 40) (gen := 40) (splits := 24) (ring := false) (linarith := false) (lia := false) (ac := false)
grind_pattern State.takeCtrl_good => State.Good p (@State.takeCtrl a0 a1 a2)
theorem State.breakCanopy_good (a0 : State) (a1 : ℕ) (a2 : ℕ) (a3 : ℕ) (h0 : a0.Good p) : State.Good p (@State.breakCanopy a0 a1 a2 a3) := by
  have anc : Anchor p := trivial
  unfold State.breakCanopy
  grind (ematch := 40) (gen := 40) (splits := 24) (ring := false) (linarith := false) (lia := false) (ac := false) [PRT_CNP_ECC.UE_CNT]
grind_pattern State.breakCanopy_good => State.Good p (@State.breakCanopy a0 a1 a2 a3)
theorem State.breakTrunk_good (a0 : State) (a1 : ℕ) (a2 : ℕ) (h0 : a0.Good p) : State.Good p (@State.breakTrunk a0 a1 a2) := by
  have anc : Anchor p := trivial
  unfold State.breakTrunk
  grind (ematch := 40) (gen := 40) (splits := 24) (ring := false) (linarith := false) (lia := false) (ac := false) [TRK_ECC.UE_CNT]
grind_pattern State.breakTrunk_good => State.Good p (@State.breakTrunk a0 a1 a2)
theorem State.breakXfer_good (a0 : State) (a1 : RxXfer) (h0 : a0.Good p) : State.Good p (@State.breakXfer a0 a1) := by
  have anc : Anchor p := trivial
  unfold State.breakXfer
  grind (ematch := 40) (gen := 40) (splits := 24) (ring := false) (linarith := false) (lia := false) (ac := false)
grind_pattern State.breakXfer_good => State.Good p (@State.breakXfer a0 a1)
theorem State.breakAll_good (a0 : State) (a1 : ℕ) (a2 : ℕ) (h0 : a0.Good p) : State.Good p (@State.breakAll a0 a1 a2) := by
  have anc : Anchor p := trivial
  unfold State.breakAll
  grind (ematch := 40) (gen := 40) (splits := 24) (ring := false) (linarith := false) (lia := false) (ac := false)
grind_pattern State.breakAll_good => State.Good p (@State.breakAll a0 a1 a2)
theorem State.takeFault_good (a0 : State) (a1 : FrameIn) (a2 : PeerFault) (h0 : a0.Good p) : State.Good p (@State.takeFault a0 a1 a2) := by
  have anc : Anchor p := trivial
  unfold State.takeFault
  grind (ematch := 40) (gen := 40) (splits := 24) (ring := false) (linarith := false) (lia := false) (ac := false)
grind_pattern State.takeFault_good => State.Good p (@State.takeFault a0 a1 a2)
theorem State.local_good (a0 : State) (a1 : FrameIn) (a2 : FrameBody) (h0 : a0.Good p) : State.Good p (@State.local_ a0 a1 a2) := by
  have anc : Anchor p := trivial
  unfold State.local_
  grind (ematch := 40) (gen := 40) (splits := 24) (ring := false) (linarith := false) (lia := false) (ac := false)
grind_pattern State.local_good => State.Good p (@State.local_ a0 a1 a2)
theorem State.accept_good (a0 : State) (a1 : FrameIn) (a2 : FrameBody) (h0 : a0.Good p) : State.Good p (@State.accept a0 a1 a2) := by
  have anc : Anchor p := trivial
  unfold State.accept
  grind (ematch := 40) (gen := 40) (splits := 24) (ring := false) (linarith := false) (lia := false) (ac := false) [ZXL_CNT.FWD_FRAMES]
grind_pattern State.accept_good => State.Good p (@State.accept a0 a1 a2)
theorem execTime_good (a0 : FrameIn) (a1 : TimeInfo) (a2 : State) (h2 : a2.Good p) : OutGood p (@execTime a0 a1 a2) := by
  have anc : Anchor p := trivial
  unfold execTime
  grind (ematch := 40) (gen := 40) (splits := 24) (ring := false) (linarith := false) (lia := false) (ac := false)
grind_pattern execTime_good => OutGood p (@execTime a0 a1 a2)
theorem execWrite_good (a0 : FrameIn) (a1 : State) (h1 : a1.Good p) : OutGood p (@execWrite a0 a1) := by
  have anc : Anchor p := trivial
  unfold execWrite
  grind (ematch := 40) (gen := 40) (splits := 24) (ring := false) (linarith := false) (lia := false) (ac := false)
grind_pattern execWrite_good => OutGood p (@execWrite a0 a1)
theorem execAddF_good (a0 : FrameIn) (a1 : State) (h1 : a1.Good p) : OutGood p (@execAddF a0 a1) := by
  have anc : Anchor p := trivial
  unfold execAddF
  grind (ematch := 40) (gen := 40) (splits := 24) (ring := false) (linarith := false) (lia := false) (ac := false)
grind_pattern execAddF_good => OutGood p (@execAddF a0 a1)
theorem execAddI_good (a0 : FrameIn) (a1 : State) (h1 : a1.Good p) : OutGood p (@execAddI a0 a1) := by
  have anc : Anchor p := trivial
  unfold execAddI
  grind (ematch := 40) (gen := 40) (splits := 24) (ring := false) (linarith := false) (lia := false) (ac := false)
grind_pattern execAddI_good => OutGood p (@execAddI a0 a1)
theorem execResp_good (a0 : FrameIn) (a1 : State) (h1 : a1.Good p) : OutGood p (@execResp a0 a1) := by
  have anc : Anchor p := trivial
  unfold execResp
  grind (ematch := 40) (gen := 40) (splits := 24) (ring := false) (linarith := false) (lia := false) (ac := false)
grind_pattern execResp_good => OutGood p (@execResp a0 a1)
theorem execTile_good (a0 : FrameIn) (a1 : State) (h1 : a1.Good p) : OutGood p (@execTile a0 a1) := by
  have anc : Anchor p := trivial
  unfold execTile
  grind (ematch := 40) (gen := 40) (splits := 24) (ring := false) (linarith := false) (lia := false) (ac := false)
grind_pattern execTile_good => OutGood p (@execTile a0 a1)
theorem execCtrl_good (a0 : FrameIn) (a1 : CtrlMsg) (a2 : State) (h2 : a2.Good p) : OutGood p (@execCtrl a0 a1 a2) := by
  have anc : Anchor p := trivial
  unfold execCtrl
  grind (ematch := 40) (gen := 40) (splits := 24) (ring := false) (linarith := false) (lia := false) (ac := false)
grind_pattern execCtrl_good => OutGood p (@execCtrl a0 a1 a2)
theorem execFault_good (a0 : FrameIn) (a1 : PeerFault) (a2 : State) (h2 : a2.Good p) : OutGood p (@execFault a0 a1 a2) := by
  have anc : Anchor p := trivial
  unfold execFault
  grind (ematch := 40) (gen := 40) (splits := 24) (ring := false) (linarith := false) (lia := false) (ac := false)
grind_pattern execFault_good => OutGood p (@execFault a0 a1 a2)
theorem execDynamicAddressAssignment_good (a0 : BitVec 7) (a1 : State) (h1 : a1.Good p) : OutGood p (@execDynamicAddressAssignment a0 a1) := by
  have anc : Anchor p := trivial
  unfold execDynamicAddressAssignment
  grind (ematch := 40) (gen := 40) (splits := 24) (ring := false) (linarith := false) (lia := false) (ac := false) [ZXL_BOARD.BDID, ZXL_BOARD.ENUM_DONE]
grind_pattern execDynamicAddressAssignment_good => OutGood p (@execDynamicAddressAssignment a0 a1)
theorem execZxlSpanWrite_good (a0 : Word) (a1 : State) (h1 : a1.Good p) : OutGood p (@execZxlSpanWrite a0 a1) := by
  have anc : Anchor p := trivial
  unfold execZxlSpanWrite
  grind (ematch := 40) (gen := 40) (splits := 24) (ring := false) (linarith := false) (lia := false) (ac := false) [ZXL_SPAN.VALID, ZXL_SPAN.SPAN_ID, ZXL_SPAN.SDID]
grind_pattern execZxlSpanWrite_good => OutGood p (@execZxlSpanWrite a0 a1)
theorem State.fecPacket_good (a0 : State) (a1 : ℕ) (h0 : a0.Good p) (_anc : Anchor p) : State.Good p (@State.fecPacket a0 a1).2 := by
  have anc : Anchor p := trivial
  unfold State.fecPacket
  grind (ematch := 40) (gen := 40) (splits := 24) (ring := false) (linarith := false) (lia := false) (ac := false) [ETH_QP_CFG.PORT, ETH_PORT_STATUS.FEC_UNCORR]
grind_pattern State.fecPacket_good => State.Good p (@State.fecPacket a0 a1).2
grind_pattern State.fecPacket_good => @State.fecPacket a0 a1, Anchor p
theorem State.qpNak_good (a0 : State) (a1 : ℕ) (a2 : ℕ) (h0 : a0.Good p) : State.Good p (@State.qpNak a0 a1 a2) := by
  have anc : Anchor p := trivial
  unfold State.qpNak
  grind (ematch := 40) (gen := 40) (splits := 24) (ring := false) (linarith := false) (lia := false) (ac := false) [ETH_PORT_STATUS.QP_NAKS, ETH_QP_CFG.PORT]
grind_pattern State.qpNak_good => State.Good p (@State.qpNak a0 a1 a2)
theorem State.ringHit_good (a0 : State) (a1 : ℕ) (a2 : ℕ) (a3 : ℕ) (h0 : a0.Good p) : State.Good p (@State.ringHit a0 a1 a2 a3) := by
  have anc : Anchor p := trivial
  unfold State.ringHit
  grind (ematch := 40) (gen := 40) (splits := 24) (ring := false) (linarith := false) (lia := false) (ac := false)
grind_pattern State.ringHit_good => State.Good p (@State.ringHit a0 a1 a2 a3)
theorem execRdmaWrite_good (a0 : Fin 8192) (a1 : BitVec 32) (a2 : ℕ) (a3 : List Byte) (a4 : State) (h4 : a4.Good p) : OutGood p (@execRdmaWrite a0 a1 a2 a3 a4) := by
  have anc : Anchor p := trivial
  unfold execRdmaWrite
  grind (ematch := 40) (gen := 40) (splits := 24) (ring := false) (linarith := false) (lia := false) (ac := false) [ETH_QP_CFG.VALID, ETH_QP_CFG.CTX, PRT_ISO_CNT.ISO_DROP, ETH_QP_CFG.KIND]
grind_pattern execRdmaWrite_good => OutGood p (@execRdmaWrite a0 a1 a2 a3 a4)
theorem execRdmaWriteWithImmediate_good (a0 : Fin 8192) (a1 : FrameIn) (a2 : FrameBody) (a3 : State) (h3 : a3.Good p) : OutGood p (@execRdmaWriteWithImmediate a0 a1 a2 a3) := by
  have anc : Anchor p := trivial
  unfold execRdmaWriteWithImmediate
  grind (ematch := 40) (gen := 40) (splits := 24) (ring := false) (linarith := false) (lia := false) (ac := false) [ETH_QP_CFG.VALID, ETH_QP_CFG.KIND]
grind_pattern execRdmaWriteWithImmediate_good => OutGood p (@execRdmaWriteWithImmediate a0 a1 a2 a3)
theorem execRoceAcknowledgement_good (a0 : Fin 8192) (a1 : BitVec 24) (a2 : State) (h2 : a2.Good p) : OutGood p (@execRoceAcknowledgement a0 a1 a2) := by
  have anc : Anchor p := trivial
  unfold execRoceAcknowledgement
  grind (ematch := 40) (gen := 40) (splits := 24) (ring := false) (linarith := false) (lia := false) (ac := false)
grind_pattern execRoceAcknowledgement_good => OutGood p (@execRoceAcknowledgement a0 a1 a2)
theorem execEthPortLinkChange_good (a0 : Fin 2) (a1 : BitVec 2) (a2 : State) (h2 : a2.Good p) : OutGood p (@execEthPortLinkChange a0 a1 a2) := by
  have anc : Anchor p := trivial
  unfold execEthPortLinkChange
  grind (ematch := 40) (gen := 40) (splits := 24) (ring := false) (linarith := false) (lia := false) (ac := false) [ETH_PORT_STATUS.MODE, ETH_PORT_STATUS.LINK_UP]
grind_pattern execEthPortLinkChange_good => OutGood p (@execEthPortLinkChange a0 a1 a2)
theorem State.chargeUnits_good (a0 : State) (a1 : ℕ) (a2 : ℕ) (a3 : ℕ) (h0 : a0.Good p) (_anc : Anchor p) (u) (e : @State.chargeUnits a0 a1 a2 a3 = some u) : State.Good p u := by
  have anc : Anchor p := trivial
  unfold State.chargeUnits at e
  grind (ematch := 40) (gen := 40) (splits := 24) (ring := false) (linarith := false) (lia := false) (ac := false)
grind_pattern State.chargeUnits_good => @State.chargeUnits a0 a1 a2 a3, Anchor p, some u
theorem State.grantBlock_good (a0 : State) (a1 : ℕ) (a2 : ℕ) (a3 : Option ℕ) (a4 : ℕ) (a5 : ℕ) (a6 : ℕ) (h0 : a0.Good p) (_anc : Anchor p) (u) (e : @State.grantBlock a0 a1 a2 a3 a4 a5 a6 = some u) : State.Good p u := by
  have anc : Anchor p := trivial
  unfold State.grantBlock at e
  grind (ematch := 40) (gen := 40) (splits := 24) (ring := false) (linarith := false) (lia := false) (ac := false)
grind_pattern State.grantBlock_good => @State.grantBlock a0 a1 a2 a3 a4 a5 a6, Anchor p, some u
theorem execRowRemapEnd_good (a0 : PartId) (a1 : State) (h1 : a1.Good p) : OutGood p (@execRowRemapEnd a0 a1) := by
  have anc : Anchor p := trivial
  unfold execRowRemapEnd
  grind (ematch := 40) (gen := 40) (splits := 24) (ring := false) (linarith := false) (lia := false) (ac := false)
grind_pattern execRowRemapEnd_good => OutGood p (@execRowRemapEnd a0 a1)
theorem State.performReq_good (a0 : State) (a1 : ℕ) (a2 : TrkReq) (h0 : a0.Good p) : State.Good p (@State.performReq a0 a1 a2) := by
  have anc : Anchor p := trivial
  unfold State.performReq
  grind (ematch := 40) (gen := 40) (splits := 24) (ring := false) (linarith := false) (lia := false) (ac := false)
grind_pattern State.performReq_good => State.Good p (@State.performReq a0 a1 a2)
theorem State.serveReq_good (a0 : State) (a1 : ℕ) (a2 : TrkReq) (h0 : a0.Good p) (_anc : Anchor p) (u) (e : @State.serveReq a0 a1 a2 = some u) : State.Good p u := by
  have anc : Anchor p := trivial
  unfold State.serveReq at e
  grind (ematch := 40) (gen := 40) (splits := 24) (ring := false) (linarith := false) (lia := false) (ac := false) [Option.map_eq_some_iff, → List.exists_of_findSome?_eq_some]
grind_pattern State.serveReq_good => @State.serveReq a0 a1 a2, Anchor p, some u
theorem State.takeReq_good (a0 : State) (a1 : ℕ) (a2 : TrkReq → Bool) (h0 : a0.Good p) (_anc : Anchor p) (u) (e : @State.takeReq a0 a1 a2 = some u) : State.Good p u := by
  have anc : Anchor p := trivial
  unfold State.takeReq at e
  grind (ematch := 40) (gen := 40) (splits := 24) (ring := false) (linarith := false) (lia := false) (ac := false) [Option.map_eq_some_iff, → List.exists_of_findSome?_eq_some]
grind_pattern State.takeReq_good => @State.takeReq a0 a1 a2, Anchor p, some u
theorem State.passReq_good (a0 : State) (a1 : ℕ) (a2 : ℕ) (a3 : ℕ) (h0 : a0.Good p) (_anc : Anchor p) (u) (e : @State.passReq a0 a1 a2 a3 = some u) : State.Good p u := by
  have anc : Anchor p := trivial
  unfold State.passReq at e
  grind (ematch := 40) (gen := 40) (splits := 24) (ring := false) (linarith := false) (lia := false) (ac := false) [TRK_REG.DEPTH, Option.map_eq_some_iff, → List.exists_of_findSome?_eq_some]
grind_pattern State.passReq_good => @State.passReq a0 a1 a2 a3, Anchor p, some u
theorem State.nextReq_good (a0 : State) (a1 : ℕ) (a2 : ℕ) (a3 : List ℕ) (h0 : a0.Good p) (_anc : Anchor p) (u) (e : @State.nextReq a0 a1 a2 a3 = some u) : State.Good p u.2 := by
  have anc : Anchor p := trivial
  unfold State.nextReq at e
  grind (ematch := 40) (gen := 40) (splits := 24) (ring := false) (linarith := false) (lia := false) (ac := false) [Option.map_eq_some_iff, → List.exists_of_findSome?_eq_some]
grind_pattern State.nextReq_good => @State.nextReq a0 a1 a2 a3, Anchor p, some u
theorem State.drainPass_good (a0 : State) (a1 : ℕ) (a2 : ℕ) (a3 : ℕ) (a4 : List ℕ) (h0 : a0.Good p) : State.Good p (@State.drainPass a0 a1 a2 a3 a4) := by
  have anc : Anchor p := trivial
  fun_induction State.drainPass a0 a1 a2 a3 a4
  all_goals grind (ematch := 40) (gen := 40) (splits := 24) (ring := false) (linarith := false) (lia := false) (ac := false)
grind_pattern State.drainPass_good => State.Good p (@State.drainPass a0 a1 a2 a3 a4)
theorem State.drainPrio_good (a0 : State) (a1 : ℕ) (a2 : ℕ) (a3 : List ℕ) (h0 : a0.Good p) : State.Good p (@State.drainPrio a0 a1 a2 a3) := by
  have anc : Anchor p := trivial
  fun_induction State.drainPrio a0 a1 a2 a3
  all_goals grind (ematch := 40) (gen := 40) (splits := 24) (ring := false) (linarith := false) (lia := false) (ac := false) [Option.map_eq_some_iff, → List.exists_of_findSome?_eq_some]
grind_pattern State.drainPrio_good => State.Good p (@State.drainPrio a0 a1 a2 a3)
theorem State.drainReqs_good (a0 : State) (a1 : ℕ) (h0 : a0.Good p) : State.Good p (@State.drainReqs a0 a1) := by
  have anc : Anchor p := trivial
  unfold State.drainReqs
  grind (ematch := 40) (gen := 40) (splits := 24) (ring := false) (linarith := false) (lia := false) (ac := false)
grind_pattern State.drainReqs_good => State.Good p (@State.drainReqs a0 a1)
theorem State.Good.getD {o : Option State} {t : State} (ho : ∀ u, o = some u → u.Good p) (ht : t.Good p) : (o.getD t).Good p := by
  cases o with
  | none => exact ht
  | some u => exact ho _ rfl
theorem State.newReq_good (a0 : State) (a1 : ℕ) (a2 : TrkReq) (h0 : a0.Good p) : State.Good p (@State.newReq a0 a1 a2) := by
  have h1 : State.Good p { a0 with arrivals := a0.arrivals + 1 } := ⟨h0.1, h0.2, h0.3, h0.4, h0.5, h0.6⟩
  unfold State.newReq
  exact State.Good.ite (State.modStack_good _ _ _ h1)
    (State.Good.getD (fun _ e => State.serveReq_good _ _ _ h1 trivial _ e) (State.modStack_good _ _ _ h1))
grind_pattern State.newReq_good => State.Good p (@State.newReq a0 a1 a2)
theorem execServiceWindow_good (a0 : PartId) (a1 : State) (h1 : a1.Good p) : OutGood p (@execServiceWindow a0 a1) := by
  have anc : Anchor p := trivial
  unfold execServiceWindow
  grind (ematch := 40) (gen := 40) (splits := 24) (ring := false) (linarith := false) (lia := false) (ac := false)
grind_pattern execServiceWindow_good => OutGood p (@execServiceWindow a0 a1)
theorem execTrunkRead_good (a0 : PartId) (a1 : ℕ) (a2 : Bool) (a3 : List Seen) (a4 : State) (h4 : a4.Good p) : OutGood p (@execTrunkRead a0 a1 a2 a3 a4) := by
  have anc : Anchor p := trivial
  unfold execTrunkRead
  grind (ematch := 40) (gen := 40) (splits := 24) (ring := false) (linarith := false) (lia := false) (ac := false)
grind_pattern execTrunkRead_good => OutGood p (@execTrunkRead a0 a1 a2 a3 a4)
theorem execTrunkWrite_good (a0 : PartId) (a1 : ℕ) (a2 : BitVec 256) (a3 : State) (h3 : a3.Good p) : OutGood p (@execTrunkWrite a0 a1 a2 a3) := by
  have anc : Anchor p := trivial
  unfold execTrunkWrite
  grind (ematch := 40) (gen := 40) (splits := 24) (ring := false) (linarith := false) (lia := false) (ac := false)
grind_pattern execTrunkWrite_good => OutGood p (@execTrunkWrite a0 a1 a2 a3)
theorem execRepairQueueRewrite_good (a0 : PartId) (a1 : State) (h1 : a1.Good p) : OutGood p (@execRepairQueueRewrite a0 a1) := by
  have anc : Anchor p := trivial
  unfold execRepairQueueRewrite
  grind (ematch := 40) (gen := 40) (splits := 24) (ring := false) (linarith := false) (lia := false) (ac := false)
grind_pattern execRepairQueueRewrite_good => OutGood p (@execRepairQueueRewrite a0 a1)
theorem execPatrolScrubPassEnd_good (a0 : PartId) (a1 : State) (h1 : a1.Good p) : OutGood p (@execPatrolScrubPassEnd a0 a1) := by
  have anc : Anchor p := trivial
  unfold execPatrolScrubPassEnd
  grind (ematch := 40) (gen := 40) (splits := 24) (ring := false) (linarith := false) (lia := false) (ac := false) [TRK_CTL.SCRUB_EN]
grind_pattern execPatrolScrubPassEnd_good => OutGood p (@execPatrolScrubPassEnd a0 a1)
theorem execRefreshDue_good (a0 : PartId) (a1 : Fin 64) (a2 : Fin 64) (a3 : Bool) (a4 : State) (h4 : a4.Good p) : OutGood p (@execRefreshDue a0 a1 a2 a3 a4) := by
  have anc : Anchor p := trivial
  unfold execRefreshDue
  grind (ematch := 40) (gen := 40) (splits := 24) (ring := false) (linarith := false) (lia := false) (ac := false) [TRK_REF.RFM_CNT, TRK_REF.SEG_SPLIT]
grind_pattern execRefreshDue_good => OutGood p (@execRefreshDue a0 a1 a2 a3 a4)
theorem execTemperatureReadout_good (a0 : PartId) (a1 : BitVec 8) (a2 : State) (h2 : a2.Good p) : OutGood p (@execTemperatureReadout a0 a1 a2) := by
  have anc : Anchor p := trivial
  unfold execTemperatureReadout
  grind (ematch := 40) (gen := 40) (splits := 24) (ring := false) (linarith := false) (lia := false) (ac := false) [TRK_STATUS.TEMP_C, TRK_STATUS.REF_2X]
grind_pattern execTemperatureReadout_good => OutGood p (@execTemperatureReadout a0 a1 a2)
theorem State.retirePc_good (a0 : State) (a1 : ℕ) (a2 : ℕ) (a3 : Bool) (h0 : a0.Good p) : State.Good p (@State.retirePc a0 a1 a2 a3) := by
  have anc : Anchor p := trivial
  unfold State.retirePc
  grind (ematch := 40) (gen := 40) (splits := 24) (ring := false) (linarith := false) (lia := false) (ac := false) [TRK_STATUS.PC_RETIRED, TRK_STATUS.RETIRED_PC, TRK_STATUS.DEGRADED, TRK_STATUS.STATE]
grind_pattern State.retirePc_good => State.Good p (@State.retirePc a0 a1 a2 a3)
theorem execTrkRetire_good (a0 : PartId) (a1 : Fin 64) (a2 : State) (h2 : a2.Good p) : OutGood p (@execTrkRetire a0 a1 a2) := by
  have anc : Anchor p := trivial
  unfold execTrkRetire
  grind (ematch := 40) (gen := 40) (splits := 24) (ring := false) (linarith := false) (lia := false) (ac := false)
grind_pattern execTrkRetire_good => OutGood p (@execTrkRetire a0 a1 a2)
theorem State.splitTop_good (a0 : State) (a1 : ℕ) (a2 : ℕ) (h0 : a0.Good p) : State.Good p (@State.splitTop a0 a1 a2) := by
  have anc : Anchor p := trivial
  unfold State.splitTop
  grind (ematch := 40) (gen := 40) (splits := 24) (ring := false) (linarith := false) (lia := false) (ac := false)
grind_pattern State.splitTop_good => State.Good p (@State.splitTop a0 a1 a2)
theorem State.evacuate_good (a0 : State) (a1 : ℕ) (a2 : ℕ) (h0 : a0.Good p) : State.Good p (@State.evacuate a0 a1 a2) := by
  have anc : Anchor p := trivial
  unfold State.evacuate
  grind (ematch := 40) (gen := 40) (splits := 24) (ring := false) (linarith := false) (lia := false) (ac := false) [PRT_XL_MIG.TILES_MOVED]
grind_pattern State.evacuate_good => State.Good p (@State.evacuate a0 a1 a2)
theorem execPcRetireEnd_good (a0 : PartId) (a1 : State) (h1 : a1.Good p) : OutGood p (@execPcRetireEnd a0 a1) := by
  have anc : Anchor p := trivial
  unfold execPcRetireEnd
  grind (ematch := 40) (gen := 40) (splits := 24) (ring := false) (linarith := false) (lia := false) (ac := false) [TRK_STATUS.RETIRED_PC, TRK_STATUS.STATE, TRK_STATUS.PC_RETIRED, HUB_CAP_RES.TRUNK_GIB]
grind_pattern execPcRetireEnd_good => OutGood p (@execPcRetireEnd a0 a1)
theorem execMaintEnter_good (a0 : PartId) (a1 : State) (h1 : a1.Good p) : OutGood p (@execMaintEnter a0 a1) := by
  have anc : Anchor p := trivial
  unfold execMaintEnter
  grind (ematch := 40) (gen := 40) (splits := 24) (ring := false) (linarith := false) (lia := false) (ac := false) [TRK_CTL.MAINT, TRK_STATUS.STATE]
grind_pattern execMaintEnter_good => OutGood p (@execMaintEnter a0 a1)
theorem State.clearStack_good (a0 : State) (a1 : ℕ) (h0 : a0.Good p) : State.Good p (@State.clearStack a0 a1) := by
  have anc : Anchor p := trivial
  unfold State.clearStack
  grind (ematch := 40) (gen := 40) (splits := 24) (ring := false) (linarith := false) (lia := false) (ac := false)
grind_pattern State.clearStack_good => State.Good p (@State.clearStack a0 a1)
theorem execMaintExit_good (a0 : PartId) (a1 : State) (h1 : a1.Good p) : OutGood p (@execMaintExit a0 a1) := by
  have anc : Anchor p := trivial
  unfold execMaintExit
  grind (ematch := 40) (gen := 40) (splits := 24) (ring := false) (linarith := false) (lia := false) (ac := false) [TRK_CTL.MAINT, TRK_BIST_STAT.BUSY]
grind_pattern execMaintExit_good => OutGood p (@execMaintExit a0 a1)
theorem State.startMount_good (a0 : State) (a1 : ℕ) (h0 : a0.Good p) : State.Good p (@State.startMount a0 a1) := by
  have anc : Anchor p := trivial
  unfold State.startMount
  grind (ematch := 40) (gen := 40) (splits := 24) (ring := false) (linarith := false) (lia := false) (ac := false) [RTF_STATUS.STATE]
grind_pattern State.startMount_good => State.Good p (@State.startMount a0 a1)
theorem execMaintExitEnd_good (a0 : PartId) (a1 : State) (h1 : a1.Good p) : OutGood p (@execMaintExitEnd a0 a1) := by
  have anc : Anchor p := trivial
  unfold execMaintExitEnd
  grind (ematch := 40) (gen := 40) (splits := 24) (ring := false) (linarith := false) (lia := false) (ac := false) [TRK_STATUS.STATE]
grind_pattern execMaintExitEnd_good => OutGood p (@execMaintExitEnd a0 a1)
theorem State.bistStart_good (a0 : State) (a1 : ℕ) (a2 : ℕ) (h0 : a0.Good p) : State.Good p (@State.bistStart a0 a1 a2) := by
  have anc : Anchor p := trivial
  unfold State.bistStart
  grind (ematch := 40) (gen := 40) (splits := 24) (ring := false) (linarith := false) (lia := false) (ac := false) [TRK_BIST_STAT.BUSY, TRK_BIST_CFG.PATTERN, TRK_BIST_STAT.ACCESSES, TRK_BIST_STAT.FAILS]
grind_pattern State.bistStart_good => State.Good p (@State.bistStart a0 a1 a2)
theorem execBistStart_good (a0 : PartId) (a1 : Fin 64) (a2 : State) (h2 : a2.Good p) : OutGood p (@execBistStart a0 a1 a2) := by
  have anc : Anchor p := trivial
  unfold execBistStart
  grind (ematch := 40) (gen := 40) (splits := 24) (ring := false) (linarith := false) (lia := false) (ac := false)
grind_pattern execBistStart_good => OutGood p (@execBistStart a0 a1 a2)
theorem State.bistStop_good (a0 : State) (a1 : ℕ) (a2 : ℕ) (h0 : a0.Good p) : State.Good p (@State.bistStop a0 a1 a2) := by
  have anc : Anchor p := trivial
  unfold State.bistStop
  grind (ematch := 40) (gen := 40) (splits := 24) (ring := false) (linarith := false) (lia := false) (ac := false) [TRK_BIST_STAT.BUSY]
grind_pattern State.bistStop_good => State.Good p (@State.bistStop a0 a1 a2)
theorem execBistStop_good (a0 : PartId) (a1 : Fin 64) (a2 : State) (h2 : a2.Good p) : OutGood p (@execBistStop a0 a1 a2) := by
  have anc : Anchor p := trivial
  unfold execBistStop
  grind (ematch := 40) (gen := 40) (splits := 24) (ring := false) (linarith := false) (lia := false) (ac := false)
grind_pattern execBistStop_good => OutGood p (@execBistStop a0 a1 a2)
theorem execBistRunEnd_good (s : PartId) (q : Fin 64) (accesses fails : Nat) (row : Fin 16384) (bank : Fin 64) (sector : Fin 32)
    (mask : BitVec 36) (st : State) (h : st.Good p) : OutGood p (execBistRunEnd s q accesses fails row bank sector mask st) := by
  refine OutGood.next ?_
  refine State.Good.ite h ?_
  extract_lets x
  have h1 : x.Good p := (h.setFld _ _ _ (by decide)).setFld _ _ _ (by decide)
  clear_value x
  refine State.Good.ite h1 (State.Good.ite (h1.incr _ _ _ (by decide)) ?_)
  refine State.Good.setFld (State.Good.setFld (State.Good.setFld (State.Good.setFld (h1.setFld _ _ _ ?_ |>.incr _ _ _ ?_) _ _ _ ?_) _ _ _ ?_) _ _ _ ?_) _ _ _ ?_ <;>
    decide
grind_pattern execBistRunEnd_good => OutGood p (@execBistRunEnd s q accesses fails row bank sector mask st)
theorem execTrkRegWrite_good (a0 : PartId) (a1 : PartId) (a2 : Word) (a3 : State) (h3 : a3.Good p) : OutGood p (@execTrkRegWrite a0 a1 a2 a3) := by
  have anc : Anchor p := trivial
  unfold execTrkRegWrite
  grind (ematch := 40) (gen := 40) (splits := 24) (ring := false) (linarith := false) (lia := false) (ac := false) [TRK_REG.SHARE, TRK_REG.DEPTH]
grind_pattern execTrkRegWrite_good => OutGood p (@execTrkRegWrite a0 a1 a2 a3)
theorem State.claspPerform_good (a0 : State) (a1 : Rec64) (a2 : ℕ) (a3 : ℕ) (h0 : a0.Good p) (_anc : Anchor p) : State.Good p (@State.claspPerform a0 a1 a2 a3).1 := by
  have anc : Anchor p := trivial
  unfold State.claspPerform
  grind (ematch := 40) (gen := 40) (splits := 24) (ring := false) (linarith := false) (lia := false) (ac := false)
grind_pattern State.claspPerform_good => State.Good p (@State.claspPerform a0 a1 a2 a3).1
grind_pattern State.claspPerform_good => @State.claspPerform a0 a1 a2 a3, Anchor p
theorem State.claspCharge_good (a0 : State) (a1 : ℕ) (a2 : ℕ) (a3 : ℕ) (h0 : a0.Good p) : State.Good p (@State.claspCharge a0 a1 a2 a3) := by
  have anc : Anchor p := trivial
  unfold State.claspCharge
  grind (ematch := 40) (gen := 40) (splits := 24) (ring := false) (linarith := false) (lia := false) (ac := false) [PRT_CLP_BUD.ACTS_USED]
grind_pattern State.claspCharge_good => State.Good p (@State.claspCharge a0 a1 a2 a3)
theorem State.claspMark_good (a0 : State) (a1 : ℕ) (a2 : ℕ) (a3 : Bool) (a4 : Bool) (h0 : a0.Good p) : State.Good p (@State.claspMark a0 a1 a2 a3 a4) := by
  have anc : Anchor p := trivial
  unfold State.claspMark
  grind (ematch := 40) (gen := 40) (splits := 24) (ring := false) (linarith := false) (lia := false) (ac := false)
grind_pattern State.claspMark_good => State.Good p (@State.claspMark a0 a1 a2 a3 a4)
theorem State.claspTry_good (a0 : State) (a1 : ℕ) (a2 : ℕ) (h0 : a0.Good p) : State.Good p (@State.claspTry a0 a1 a2) := by
  have anc : Anchor p := trivial
  unfold State.claspTry
  grind (ematch := 40) (gen := 40) (splits := 24) (ring := false) (linarith := false) (lia := false) (ac := false) [PRT_CLP_BUD.BUDGET, PRT_CLP_WAIT.BUDGET_WAITS, PRT_CLP_STATUS.CLASP_MODE]
grind_pattern State.claspTry_good => State.Good p (@State.claspTry a0 a1 a2)
theorem State.claspStart_good (a0 : State) (a1 : ℕ) (h0 : a0.Good p) : State.Good p (@State.claspStart a0 a1) := by
  have anc : Anchor p := trivial
  unfold State.claspStart
  grind (ematch := 40) (gen := 40) (splits := 24) (ring := false) (linarith := false) (lia := false) (ac := false)
grind_pattern State.claspStart_good => State.Good p (@State.claspStart a0 a1)
theorem State.claspDrvEnd_good (a0 : State) (a1 : ℕ) (a2 : ℕ) (h0 : a0.Good p) : State.Good p (@State.claspDrvEnd a0 a1 a2) := by
  have anc : Anchor p := trivial
  unfold State.claspDrvEnd
  grind (ematch := 40) (gen := 40) (splits := 24) (ring := false) (linarith := false) (lia := false) (ac := false) [PRT_CLP_DRV.TAG_DONE, PRT_CLP_DRV.BUSY]
grind_pattern State.claspDrvEnd_good => State.Good p (@State.claspDrvEnd a0 a1 a2)
theorem State.claspNext_good (a0 : State) (a1 : ℕ) (a2 : ℕ) (a3 : ClaspRec) (h0 : a0.Good p) : State.Good p (@State.claspNext a0 a1 a2 a3) := by
  have anc : Anchor p := trivial
  unfold State.claspNext
  grind (ematch := 40) (gen := 40) (splits := 24) (ring := false) (linarith := false) (lia := false) (ac := false) [PRT_CLP_OPS.UNIT_OPS, PRT_CLP_OPS.RECORDS, PRT_CLP_STATUS.CLASP_MODE]
grind_pattern State.claspNext_good => State.Good p (@State.claspNext a0 a1 a2 a3)
theorem State.claspSubstitute_good (a0 : State) (a1 : ℕ) (a2 : ℕ) (a3 : ClaspRec) (h0 : a0.Good p) : State.Good p (@State.claspSubstitute a0 a1 a2 a3) := by
  have anc : Anchor p := trivial
  unfold State.claspSubstitute
  grind (ematch := 40) (gen := 40) (splits := 24) (ring := false) (linarith := false) (lia := false) (ac := false) [PRT_CLP_ERR.POISON_WR, PRT_CLP_ERR.SUBST_OPS]
grind_pattern State.claspSubstitute_good => State.Good p (@State.claspSubstitute a0 a1 a2 a3)
theorem State.claspAccept_good (a0 : State) (a1 : ℕ) (a2 : ℕ) (a3 : Bool) (a4 : Rec64) (h0 : a0.Good p) : State.Good p (@State.claspAccept a0 a1 a2 a3 a4) := by
  have anc : Anchor p := trivial
  unfold State.claspAccept
  grind (ematch := 40) (gen := 40) (splits := 24) (ring := false) (linarith := false) (lia := false) (ac := false)
grind_pattern State.claspAccept_good => State.Good p (@State.claspAccept a0 a1 a2 a3 a4)
theorem State.claspInject_good (a0 : State) (a1 : ℕ) (a2 : ℕ) (a3 : ℕ) (h0 : a0.Good p) (_anc : Anchor p) : State.Good p (@State.claspInject a0 a1 a2 a3).2 := by
  have anc : Anchor p := trivial
  unfold State.claspInject
  grind (ematch := 40) (gen := 40) (splits := 24) (ring := false) (linarith := false) (lia := false) (ac := false)
grind_pattern State.claspInject_good => State.Good p (@State.claspInject a0 a1 a2 a3).2
grind_pattern State.claspInject_good => @State.claspInject a0 a1 a2 a3, Anchor p
theorem execClaspRecord_good (a0 : PartId) (a1 : PartId) (a2 : Rec64) (a3 : State) (h3 : a3.Good p) : OutGood p (@execClaspRecord a0 a1 a2 a3) := by
  have anc : Anchor p := trivial
  unfold execClaspRecord
  grind (ematch := 40) (gen := 40) (splits := 24) (ring := false) (linarith := false) (lia := false) (ac := false) [PRT_CLP_ERR.REC_REJ]
grind_pattern execClaspRecord_good => OutGood p (@execClaspRecord a0 a1 a2 a3)
theorem State.claspGo_good (a0 : State) (a1 : ℕ) (h0 : a0.Good p) : State.Good p (@State.claspGo a0 a1) := by
  have anc : Anchor p := trivial
  unfold State.claspGo
  grind (ematch := 40) (gen := 40) (splits := 24) (ring := false) (linarith := false) (lia := false) (ac := false) [PRT_CLP_DRV.BUSY, PRT_CLP_DRV.REJ_CODE, PRT_CLP_ERR.REC_REJ, PRT_CLP_DRV.TAG_DONE]
grind_pattern State.claspGo_good => State.Good p (@State.claspGo a0 a1)
theorem execClaspDrvGo_good (a0 : PartId) (a1 : State) (h1 : a1.Good p) : OutGood p (@execClaspDrvGo a0 a1) := by
  have anc : Anchor p := trivial
  unfold execClaspDrvGo
  grind (ematch := 40) (gen := 40) (splits := 24) (ring := false) (linarith := false) (lia := false) (ac := false)
grind_pattern execClaspDrvGo_good => OutGood p (@execClaspDrvGo a0 a1)
theorem execClaspUnitOpEnd_good (a0 : PartId) (a1 : ClaspStatus) (a2 : State) (h2 : a2.Good p) : OutGood p (@execClaspUnitOpEnd a0 a1 a2) := by
  have anc : Anchor p := trivial
  unfold execClaspUnitOpEnd
  grind (ematch := 40) (gen := 40) (splits := 24) (ring := false) (linarith := false) (lia := false) (ac := false) [PRT_CLP_ERR.POISON_WR, PRT_CLP_ERR.CORR_OPS]
grind_pattern execClaspUnitOpEnd_good => OutGood p (@execClaspUnitOpEnd a0 a1 a2)
theorem execClaspBudgetResume_good (a0 : PartId) (a1 : State) (h1 : a1.Good p) : OutGood p (@execClaspBudgetResume a0 a1) := by
  have anc : Anchor p := trivial
  unfold execClaspBudgetResume
  grind (ematch := 40) (gen := 40) (splits := 24) (ring := false) (linarith := false) (lia := false) (ac := false)
grind_pattern execClaspBudgetResume_good => OutGood p (@execClaspBudgetResume a0 a1)
theorem execDedBurstEnd_good (a0 : PartId) (a1 : State) (h1 : a1.Good p) : OutGood p (@execDedBurstEnd a0 a1) := by
  have anc : Anchor p := trivial
  unfold execDedBurstEnd
  grind (ematch := 40) (gen := 40) (splits := 24) (ring := false) (linarith := false) (lia := false) (ac := false) [PRT_CLP_STATUS.CLASP_MODE]
grind_pattern execDedBurstEnd_good => OutGood p (@execDedBurstEnd a0 a1)
theorem State.writeBudget_good (a0 : State) (a1 : ℕ) (a2 : ℕ) (a3 : ℕ) (h0 : a0.Good p) : State.Good p (@State.writeBudget a0 a1 a2 a3) := by
  have anc : Anchor p := trivial
  unfold State.writeBudget
  grind (ematch := 40) (gen := 40) (splits := 24) (ring := false) (linarith := false) (lia := false) (ac := false) [PRT_CLP_BUD.BUDGET]
grind_pattern State.writeBudget_good => State.Good p (@State.writeBudget a0 a1 a2 a3)
theorem execPrtClpBudWrite_good (a0 : PartId) (a1 : PartId) (a2 : Word) (a3 : State) (h3 : a3.Good p) : OutGood p (@execPrtClpBudWrite a0 a1 a2 a3) := by
  have anc : Anchor p := trivial
  unfold execPrtClpBudWrite
  grind (ematch := 40) (gen := 40) (splits := 24) (ring := false) (linarith := false) (lia := false) (ac := false) [PRT_CLP_BUD.BUDGET]
grind_pattern execPrtClpBudWrite_good => OutGood p (@execPrtClpBudWrite a0 a1 a2 a3)
theorem execRelocationEnd_good (a0 : PartId) (a1 : ℕ) (a2 : State) (h2 : a2.Good p) : OutGood p (@execRelocationEnd a0 a1 a2) := by
  have anc : Anchor p := trivial
  unfold execRelocationEnd
  grind (ematch := 40) (gen := 40) (splits := 24) (ring := false) (linarith := false) (lia := false) (ac := false) [RTF_CFG.RD_THRESH, RTF_RELOC.RELOCS]
grind_pattern execRelocationEnd_good => OutGood p (@execRelocationEnd a0 a1 a2)
theorem State.retireDies_good (a0 : State) (a1 : ℕ) (a2 : List ℕ) (h0 : a0.Good p) : State.Good p (@State.retireDies a0 a1 a2) := by
  have anc : Anchor p := trivial
  unfold State.retireDies
  grind (ematch := 40) (gen := 40) (splits := 24) (ring := false) (linarith := false) (lia := false) (ac := false) [RTF_STATUS.STATE, RTF_STATUS.DIES_RETIRED, RTF_STATUS.DIE_PRESENT]
grind_pattern State.retireDies_good => State.Good p (@State.retireDies a0 a1 a2)
theorem execRootDieRetire_good (a0 : PartId) (a1 : Fin 16) (a2 : State) (h2 : a2.Good p) : OutGood p (@execRootDieRetire a0 a1 a2) := by
  have anc : Anchor p := trivial
  unfold execRootDieRetire
  grind (ematch := 40) (gen := 40) (splits := 24) (ring := false) (linarith := false) (lia := false) (ac := false)
grind_pattern execRootDieRetire_good => OutGood p (@execRootDieRetire a0 a1 a2)
theorem execRootChannelRetire_good (a0 : PartId) (a1 : Fin 8) (a2 : State) (h2 : a2.Good p) : OutGood p (@execRootChannelRetire a0 a1 a2) := by
  have anc : Anchor p := trivial
  unfold execRootChannelRetire
  grind (ematch := 40) (gen := 40) (splits := 24) (ring := false) (linarith := false) (lia := false) (ac := false)
grind_pattern execRootChannelRetire_good => OutGood p (@execRootChannelRetire a0 a1 a2)
theorem execRebuildEnd_good (r : PartId) (s : State)  (h0 : s.Good p) : OutGood p (execRebuildEnd r s) := by
  refine OutGood.next ?_
  refine State.Good.ite h0 ?_
  have h1 : s.draw.2.Good p := State.draw_good _ h0 trivial
  dsimp only
  have h2 := State.wear_good (s.draw.2.incr RTF_RETRY.RECON r (Config.freeChoice s.draw.1 % (rootTiles - (s.draw.2.tiles r).count + 1))) r (Config.freeChoice s.draw.1 % (rootTiles - (s.draw.2.tiles r).count + 1)) true (h1.incr _ _ _ (by decide))
  refine State.Good.ite (h2.setFld _ _ _ (by decide)) ?_
  exact State.afterRetire_good _ _ (State.raise_good _ _ (h2.setFld _ _ _ (by decide)))
grind_pattern execRebuildEnd_good => OutGood p (@execRebuildEnd r s)
theorem State.tileLost_good (a0 : State) (a1 : ℕ) (a2 : ℕ) (a3 : ℕ) (a4 : Bool) (h0 : a0.Good p) : State.Good p (@State.tileLost a0 a1 a2 a3 a4) := by
  have anc : Anchor p := trivial
  unfold State.tileLost
  grind (ematch := 40) (gen := 40) (splits := 24) (ring := false) (linarith := false) (lia := false) (ac := false) [RTF_RETRY.UE_TILES]
grind_pattern State.tileLost_good => State.Good p (@State.tileLost a0 a1 a2 a3 a4)
theorem State.dieError_good (a0 : State) (a1 : ℕ) (a2 : ℕ) (a3 : Bool) (h0 : a0.Good p) : State.Good p (@State.dieError a0 a1 a2 a3) := by
  have anc : Anchor p := trivial
  unfold State.dieError
  grind (ematch := 40) (gen := 40) (splits := 24) (ring := false) (linarith := false) (lia := false) (ac := false)
grind_pattern State.dieError_good => State.Good p (@State.dieError a0 a1 a2 a3)
theorem State.senseTile_good (a0 : State) (a1 : ℕ) (a2 : TileReq) (h0 : a0.Good p) : State.Good p (@State.senseTile a0 a1 a2) := by
  have anc : Anchor p := trivial
  unfold State.senseTile
  grind (ematch := 40) (gen := 40) (splits := 24) (ring := false) (linarith := false) (lia := false) (ac := false) [RTF_READ.LAT_MAX_US, RTF_READ.TILE_READS, RTF_RETRY.RETRY_SOFT, RTF_RETRY.RETRY_HARD, RTF_RETRY.RECON]
grind_pattern State.senseTile_good => State.Good p (@State.senseTile a0 a1 a2)
theorem State.readTile_good (a0 : State) (a1 : ℕ) (a2 : TileReq) (h0 : a0.Good p) : State.Good p (@State.readTile a0 a1 a2) := by
  have anc : Anchor p := trivial
  unfold State.readTile
  grind (ematch := 40) (gen := 40) (splits := 24) (ring := false) (linarith := false) (lia := false) (ac := false)
grind_pattern State.readTile_good => State.Good p (@State.readTile a0 a1 a2)
theorem State.passTile_good (a0 : State) (a1 : ℕ) (a2 : ℕ) (a3 : Bool) (h0 : a0.Good p) (_anc : Anchor p) (u) (e : @State.passTile a0 a1 a2 a3 = some u) : State.Good p u := by
  have anc : Anchor p := trivial
  unfold State.passTile at e
  grind (ematch := 40) (gen := 40) (splits := 24) (ring := false) (linarith := false) (lia := false) (ac := false) [Option.map_eq_some_iff, → List.exists_of_findSome?_eq_some]
grind_pattern State.passTile_good => @State.passTile a0 a1 a2 a3, Anchor p, some u
theorem State.drainTiles_good (a0 : State) (a1 : ℕ) (a2 : Bool) (a3 : ℕ) (a4 : List ℕ) (h0 : a0.Good p) : State.Good p (@State.drainTiles a0 a1 a2 a3 a4) := by
  have anc : Anchor p := trivial
  fun_induction State.drainTiles a0 a1 a2 a3 a4
  all_goals grind (ematch := 40) (gen := 40) (splits := 24) (ring := false) (linarith := false) (lia := false) (ac := false) [Option.map_eq_some_iff, → List.exists_of_findSome?_eq_some]
grind_pattern State.drainTiles_good => State.Good p (@State.drainTiles a0 a1 a2 a3 a4)
theorem State.grantTiles_good (a0 : State) (a1 : ℕ) (h0 : a0.Good p) : State.Good p (@State.grantTiles a0 a1) := by
  have anc : Anchor p := trivial
  unfold State.grantTiles
  grind (ematch := 40) (gen := 40) (splits := 24) (ring := false) (linarith := false) (lia := false) (ac := false)
grind_pattern State.grantTiles_good => State.Good p (@State.grantTiles a0 a1)
theorem execRootReadWindow_good (a0 : PartId) (a1 : State) (h1 : a1.Good p) : OutGood p (@execRootReadWindow a0 a1) := by
  have anc : Anchor p := trivial
  unfold execRootReadWindow
  grind (ematch := 40) (gen := 40) (splits := 24) (ring := false) (linarith := false) (lia := false) (ac := false)
grind_pattern execRootReadWindow_good => OutGood p (@execRootReadWindow a0 a1)
theorem execRootTileRead_good (a0 : PartId) (a1 : PartId) (a2 : ℕ) (a3 : TileOutcome) (a4 : ℕ) (a5 : State) (h5 : a5.Good p) : OutGood p (@execRootTileRead a0 a1 a2 a3 a4 a5) := by
  have anc : Anchor p := trivial
  unfold execRootTileRead
  grind (ematch := 40) (gen := 40) (splits := 24) (ring := false) (linarith := false) (lia := false) (ac := false)
grind_pattern execRootTileRead_good => OutGood p (@execRootTileRead a0 a1 a2 a3 a4 a5)
theorem State.ackTile_good (a0 : State) (a1 : ℕ) (a2 : ℕ) (a3 : List Byte) (h0 : a0.Good p) : State.Good p (@State.ackTile a0 a1 a2 a3) := by
  have anc : Anchor p := trivial
  unfold State.ackTile
  grind (ematch := 40) (gen := 40) (splits := 24) (ring := false) (linarith := false) (lia := false) (ac := false) [RTF_STATUS.BUF_TILES]
grind_pattern State.ackTile_good => State.Good p (@State.ackTile a0 a1 a2 a3)
theorem State.takeWrites_good (a0 : State) (a1 : ℕ) (a2 : ℕ) (h0 : a0.Good p) : State.Good p (@State.takeWrites a0 a1 a2) := by
  have anc : Anchor p := trivial
  fun_induction State.takeWrites a0 a1 a2
  all_goals grind (ematch := 40) (gen := 40) (splits := 24) (ring := false) (linarith := false) (lia := false) (ac := false)
grind_pattern State.takeWrites_good => State.Good p (@State.takeWrites a0 a1 a2)
theorem execRootTileWrite_good (a0 : PartId) (a1 : ℕ) (a2 : List Byte) (a3 : State) (h3 : a3.Good p) : OutGood p (@execRootTileWrite a0 a1 a2 a3) := by
  have anc : Anchor p := trivial
  unfold execRootTileWrite
  grind (ematch := 40) (gen := 40) (splits := 24) (ring := false) (linarith := false) (lia := false) (ac := false) [RTF_RELOC.BUF_WAITS]
grind_pattern execRootTileWrite_good => OutGood p (@execRootTileWrite a0 a1 a2 a3)
theorem execRootBufferProgram_good (a0 : PartId) (a1 : State) (h1 : a1.Good p) : OutGood p (@execRootBufferProgram a0 a1) := by
  have anc : Anchor p := trivial
  unfold execRootBufferProgram
  grind (ematch := 40) (gen := 40) (splits := 24) (ring := false) (linarith := false) (lia := false) (ac := false) [RTF_STATUS.BUF_TILES]
grind_pattern execRootBufferProgram_good => OutGood p (@execRootBufferProgram a0 a1)
theorem execMount_good (a0 : PartId) (a1 : State) (h1 : a1.Good p) : OutGood p (@execMount a0 a1) := by
  have anc : Anchor p := trivial
  unfold execMount
  grind (ematch := 40) (gen := 40) (splits := 24) (ring := false) (linarith := false) (lia := false) (ac := false)
grind_pattern execMount_good => OutGood p (@execMount a0 a1)
theorem State.endMount_good (a0 : State) (a1 : ℕ) (a2 : ℕ) (a3 : ℕ) (a4 : ℕ) (h0 : a0.Good p) : State.Good p (@State.endMount a0 a1 a2 a3 a4) := by
  have anc : Anchor p := trivial
  unfold State.endMount
  grind (ematch := 40) (gen := 40) (splits := 24) (ring := false) (linarith := false) (lia := false) (ac := false) [RTF_STATUS.STATE, RTF_STATUS.MOUNT_KIND, RTF_STATUS.DIE_PRESENT, RTF_WEAR.WEAR_PCT, RTF_CFG.RD_THRESH]
grind_pattern State.endMount_good => State.Good p (@State.endMount a0 a1 a2 a3 a4)
theorem State.mounted_good (a0 : State) (a1 : ℕ) (a2 : ℕ) (a3 : ℕ) (a4 : ℕ) (h0 : a0.Good p) : State.Good p (@State.mounted a0 a1 a2 a3 a4) := by
  have anc : Anchor p := trivial
  unfold State.mounted
  grind (ematch := 40) (gen := 40) (splits := 24) (ring := false) (linarith := false) (lia := false) (ac := false)
grind_pattern State.mounted_good => State.Good p (@State.mounted a0 a1 a2 a3 a4)
theorem execMountEnd_good (a0 : PartId) (a1 : Fin 4) (a2 : ℕ) (a3 : ℕ) (a4 : State) (h4 : a4.Good p) : OutGood p (@execMountEnd a0 a1 a2 a3 a4) := by
  have anc : Anchor p := trivial
  unfold execMountEnd
  grind (ematch := 40) (gen := 40) (splits := 24) (ring := false) (linarith := false) (lia := false) (ac := false)
grind_pattern execMountEnd_good => OutGood p (@execMountEnd a0 a1 a2 a3 a4)
theorem State.startUnmount_good (a0 : State) (a1 : ℕ) (h0 : a0.Good p) : State.Good p (@State.startUnmount a0 a1) := by
  have anc : Anchor p := trivial
  unfold State.startUnmount
  grind (ematch := 40) (gen := 40) (splits := 24) (ring := false) (linarith := false) (lia := false) (ac := false)
grind_pattern State.startUnmount_good => State.Good p (@State.startUnmount a0 a1)
theorem execUnmount_good (a0 : PartId) (a1 : State) (h1 : a1.Good p) : OutGood p (@execUnmount a0 a1) := by
  have anc : Anchor p := trivial
  unfold execUnmount
  grind (ematch := 40) (gen := 40) (splits := 24) (ring := false) (linarith := false) (lia := false) (ac := false)
grind_pattern execUnmount_good => OutGood p (@execUnmount a0 a1)
theorem State.endUnmount_good (a0 : State) (a1 : ℕ) (h0 : a0.Good p) : State.Good p (@State.endUnmount a0 a1) := by
  have anc : Anchor p := trivial
  unfold State.endUnmount
  grind (ematch := 40) (gen := 40) (splits := 24) (ring := false) (linarith := false) (lia := false) (ac := false) [RTF_STATUS.BUF_TILES, RTF_STATUS.STATE]
grind_pattern State.endUnmount_good => State.Good p (@State.endUnmount a0 a1)
theorem execUnmountEnd_good (a0 : PartId) (a1 : State) (h1 : a1.Good p) : OutGood p (@execUnmountEnd a0 a1) := by
  have anc : Anchor p := trivial
  unfold execUnmountEnd
  grind (ematch := 40) (gen := 40) (splits := 24) (ring := false) (linarith := false) (lia := false) (ac := false)
grind_pattern execUnmountEnd_good => OutGood p (@execUnmountEnd a0 a1)
theorem execRootMapReloadEnd_good (a0 : PartId) (a1 : State) (h1 : a1.Good p) : OutGood p (@execRootMapReloadEnd a0 a1) := by
  have anc : Anchor p := trivial
  unfold execRootMapReloadEnd
  grind (ematch := 40) (gen := 40) (splits := 24) (ring := false) (linarith := false) (lia := false) (ac := false)
grind_pattern execRootMapReloadEnd_good => OutGood p (@execRootMapReloadEnd a0 a1)
theorem State.writeSlots_good (a0 : State) (a1 : ℕ) (a2 : ℕ) (a3 : ℕ) (h0 : a0.Good p) : State.Good p (@State.writeSlots a0 a1 a2 a3) := by
  have anc : Anchor p := trivial
  unfold State.writeSlots
  grind (ematch := 40) (gen := 40) (splits := 24) (ring := false) (linarith := false) (lia := false) (ac := false) [RTF_SLOT.SLOTS, PWR_STATUS.PROFILE]
grind_pattern State.writeSlots_good => State.Good p (@State.writeSlots a0 a1 a2 a3)
theorem execRtfSlotWrite_good (a0 : PartId) (a1 : PartId) (a2 : Word) (a3 : State) (h3 : a3.Good p) : OutGood p (@execRtfSlotWrite a0 a1 a2 a3) := by
  have anc : Anchor p := trivial
  unfold execRtfSlotWrite
  grind (ematch := 40) (gen := 40) (splits := 24) (ring := false) (linarith := false) (lia := false) (ac := false) [RTF_SLOT.SLOTS]
grind_pattern execRtfSlotWrite_good => OutGood p (@execRtfSlotWrite a0 a1 a2 a3)
theorem execCanopyScrubRead_good (a0 : Lcid) (a1 : Fin 262144) (a2 : Seen) (a3 : State) (h3 : a3.Good p) : OutGood p (@execCanopyScrubRead a0 a1 a2 a3) := by
  have anc : Anchor p := trivial
  unfold execCanopyScrubRead
  grind (ematch := 40) (gen := 40) (splits := 24) (ring := false) (linarith := false) (lia := false) (ac := false) [PRT_CANOPY_CFG.SCRUB_EN]
grind_pattern execCanopyScrubRead_good => OutGood p (@execCanopyScrubRead a0 a1 a2 a3)
theorem execCanopyScrubPassEnd_good (a0 : Lcid) (a1 : State) (h1 : a1.Good p) : OutGood p (@execCanopyScrubPassEnd a0 a1) := by
  have anc : Anchor p := trivial
  unfold execCanopyScrubPassEnd
  grind (ematch := 40) (gen := 40) (splits := 24) (ring := false) (linarith := false) (lia := false) (ac := false) [PRT_CANOPY_CFG.SCRUB_EN]
grind_pattern execCanopyScrubPassEnd_good => OutGood p (@execCanopyScrubPassEnd a0 a1)
theorem execGoldenCopyRestore_good (a0 : PartId) (a1 : State) (h1 : a1.Good p) : OutGood p (@execGoldenCopyRestore a0 a1) := by
  have anc : Anchor p := trivial
  unfold execGoldenCopyRestore
  grind (ematch := 40) (gen := 40) (splits := 24) (ring := false) (linarith := false) (lia := false) (ac := false) [FLT_CNT.GOLDEN_FETCH]
grind_pattern execGoldenCopyRestore_good => OutGood p (@execGoldenCopyRestore a0 a1)
theorem execLeakyBucketDecay_good (a0 : ℕ) (a1 : State) (h1 : a1.Good p) : OutGood p (@execLeakyBucketDecay a0 a1) := by
  have anc : Anchor p := trivial
  unfold execLeakyBucketDecay
  grind (ematch := 40) (gen := 40) (splits := 24) (ring := false) (linarith := false) (lia := false) (ac := false)
grind_pattern execLeakyBucketDecay_good => OutGood p (@execLeakyBucketDecay a0 a1)
theorem State.settlePin_good (a0 : State) (h0 : a0.Good p) : State.Good p (@State.settlePin a0) := by
  have anc : Anchor p := trivial
  unfold State.settlePin
  grind (ematch := 40) (gen := 40) (splits := 24) (ring := false) (linarith := false) (lia := false) (ac := false) [FLT_PIN_CTL.PULSE, FLT_PIN_CTL.LEVEL]
grind_pattern State.settlePin_good => State.Good p (@State.settlePin a0)
theorem execFaultNPulseEnd_good (a0 : State) (h0 : a0.Good p) : OutGood p (@execFaultNPulseEnd a0) := by
  have anc : Anchor p := trivial
  unfold execFaultNPulseEnd
  grind (ematch := 40) (gen := 40) (splits := 24) (ring := false) (linarith := false) (lia := false) (ac := false) [FLT_PIN_CTL.PULSE]
grind_pattern execFaultNPulseEnd_good => OutGood p (@execFaultNPulseEnd a0)
theorem State.armInjection_good (a0 : State) (h0 : a0.Good p) : State.Good p (@State.armInjection a0) := by
  have anc : Anchor p := trivial
  unfold State.armInjection
  grind (ematch := 40) (gen := 40) (splits := 24) (ring := false) (linarith := false) (lia := false) (ac := false) [FLT_INJ_TGT.COUNT, FLT_INJ_CTL.ACTIVE, FLT_INJ_TGT.SOURCE, FLT_INJ_TGT.MODE, FLT_INJ_TGT.LEAK, FLT_INJ_ADDR.ADDR, FLT_INJ_MASK.MASK, FLT_INJ_CTL.REMAIN]
grind_pattern State.armInjection_good => State.Good p (@State.armInjection a0)
theorem execFltInjGo_good (a0 : State) (h0 : a0.Good p) : OutGood p (@execFltInjGo a0) := by
  have anc : Anchor p := trivial
  unfold execFltInjGo
  grind (ematch := 40) (gen := 40) (splits := 24) (ring := false) (linarith := false) (lia := false) (ac := false)
grind_pattern execFltInjGo_good => OutGood p (@execFltInjGo a0)
theorem execUcieFlitCrcError_good (a0 : BitVec 8) (a1 : ℕ) (a2 : Bool) (a3 : State) (h3 : a3.Good p) : OutGood p (@execUcieFlitCrcError a0 a1 a2 a3) := by
  have anc : Anchor p := trivial
  unfold execUcieFlitCrcError
  grind (ematch := 40) (gen := 40) (splits := 24) (ring := false) (linarith := false) (lia := false) (ac := false)
grind_pattern execUcieFlitCrcError_good => OutGood p (@execUcieFlitCrcError a0 a1 a2 a3)
theorem State.writeSeverity_good (a0 : State) (a1 : ℕ) (h0 : a0.Good p) : State.Good p (@State.writeSeverity a0 a1) := by
  have anc : Anchor p := trivial
  unfold State.writeSeverity
  grind (ematch := 40) (gen := 40) (splits := 24) (ring := false) (linarith := false) (lia := false) (ac := false) [FLT_SEV_SEL.EVT, FLT_SEV_SEL.SCLASS, FLT_SEV_CFG.SEV]
grind_pattern State.writeSeverity_good => State.Good p (@State.writeSeverity a0 a1)
theorem execFltSevCfgWrite_good (a0 : Word) (a1 : State) (h1 : a1.Good p) : OutGood p (@execFltSevCfgWrite a0 a1) := by
  have anc : Anchor p := trivial
  unfold execFltSevCfgWrite
  grind (ematch := 40) (gen := 40) (splits := 24) (ring := false) (linarith := false) (lia := false) (ac := false) [FLT_SEV_CFG.SEV]
grind_pattern execFltSevCfgWrite_good => OutGood p (@execFltSevCfgWrite a0 a1)
theorem execNop_good (a0 : Lcid) (a1 : TSlot) (a2 : State) (h2 : a2.Good p) : OutGood p (@execNop a0 a1 a2) := by
  have anc : Anchor p := trivial
  unfold execNop
  grind (ematch := 40) (gen := 40) (splits := 24) (ring := false) (linarith := false) (lia := false) (ac := false)
grind_pattern execNop_good => OutGood p (@execNop a0 a1 a2)
theorem execJmp_good (a0 : Lcid) (a1 : TSlot) (a2 : State) (h2 : a2.Good p) : OutGood p (@execJmp a0 a1 a2) := by
  have anc : Anchor p := trivial
  unfold execJmp
  grind (ematch := 40) (gen := 40) (splits := 24) (ring := false) (linarith := false) (lia := false) (ac := false)
grind_pattern execJmp_good => OutGood p (@execJmp a0 a1 a2)
theorem execBrc_good (a0 : Lcid) (a1 : TSlot) (a2 : State) (h2 : a2.Good p) : OutGood p (@execBrc a0 a1 a2) := by
  have anc : Anchor p := trivial
  unfold execBrc
  grind (ematch := 40) (gen := 40) (splits := 24) (ring := false) (linarith := false) (lia := false) (ac := false)
grind_pattern execBrc_good => OutGood p (@execBrc a0 a1 a2)
theorem execLoop_good (a0 : Lcid) (a1 : TSlot) (a2 : State) (h2 : a2.Good p) : OutGood p (@execLoop a0 a1 a2) := by
  have anc : Anchor p := trivial
  unfold execLoop
  grind (ematch := 40) (gen := 40) (splits := 24) (ring := false) (linarith := false) (lia := false) (ac := false)
grind_pattern execLoop_good => OutGood p (@execLoop a0 a1 a2)
theorem execEndl_good (a0 : Lcid) (a1 : TSlot) (a2 : State) (h2 : a2.Good p) : OutGood p (@execEndl a0 a1 a2) := by
  have anc : Anchor p := trivial
  unfold execEndl
  grind (ematch := 40) (gen := 40) (splits := 24) (ring := false) (linarith := false) (lia := false) (ac := false)
grind_pattern execEndl_good => OutGood p (@execEndl a0 a1 a2)
theorem execWtick_good (a0 : Lcid) (a1 : TSlot) (a2 : State) (h2 : a2.Good p) : OutGood p (@execWtick a0 a1 a2) := by
  have anc : Anchor p := trivial
  unfold execWtick
  grind (ematch := 40) (gen := 40) (splits := 24) (ring := false) (linarith := false) (lia := false) (ac := false)
grind_pattern execWtick_good => OutGood p (@execWtick a0 a1 a2)
theorem execHalt_good (a0 : Lcid) (a1 : TSlot) (a2 : State) (h2 : a2.Good p) : OutGood p (@execHalt a0 a1 a2) := by
  have anc : Anchor p := trivial
  unfold execHalt
  grind (ematch := 40) (gen := 40) (splits := 24) (ring := false) (linarith := false) (lia := false) (ac := false)
grind_pattern execHalt_good => OutGood p (@execHalt a0 a1 a2)
theorem execTrap_good (a0 : Lcid) (a1 : TSlot) (a2 : State) (h2 : a2.Good p) : OutGood p (@execTrap a0 a1 a2) := by
  have anc : Anchor p := trivial
  unfold execTrap
  grind (ematch := 40) (gen := 40) (splits := 24) (ring := false) (linarith := false) (lia := false) (ac := false)
grind_pattern execTrap_good => OutGood p (@execTrap a0 a1 a2)
theorem execFence_good (a0 : Lcid) (a1 : TSlot) (a2 : State) (h2 : a2.Good p) : OutGood p (@execFence a0 a1 a2) := by
  have anc : Anchor p := trivial
  unfold execFence
  grind (ematch := 40) (gen := 40) (splits := 24) (ring := false) (linarith := false) (lia := false) (ac := false)
grind_pattern execFence_good => OutGood p (@execFence a0 a1 a2)
theorem execFenceRelease_good (a0 : Lcid) (a1 : TSlot) (a2 : State) (h2 : a2.Good p) : OutGood p (@execFenceRelease a0 a1 a2) := by
  have anc : Anchor p := trivial
  unfold execFenceRelease
  grind (ematch := 40) (gen := 40) (splits := 24) (ring := false) (linarith := false) (lia := false) (ac := false)
grind_pattern execFenceRelease_good => OutGood p (@execFenceRelease a0 a1 a2)
theorem execWtickWake_good (a0 : Lcid) (a1 : TSlot) (a2 : State) (h2 : a2.Good p) : OutGood p (@execWtickWake a0 a1 a2) := by
  have anc : Anchor p := trivial
  unfold execWtickWake
  grind (ematch := 40) (gen := 40) (splits := 24) (ring := false) (linarith := false) (lia := false) (ac := false)
grind_pattern execWtickWake_good => OutGood p (@execWtickWake a0 a1 a2)
theorem State.eraseStart_good (a0 : State) (h0 : a0.Good p) : State.Good p (@State.eraseStart a0) := by
  have anc : Anchor p := trivial
  unfold State.eraseStart
  grind (ematch := 40) (gen := 40) (splits := 24) (ring := false) (linarith := false) (lia := false) (ac := false)
grind_pattern State.eraseStart_good => State.Good p (@State.eraseStart a0)
theorem State.pendAll_good (a0 : State) (a1 : ℕ) (h0 : a0.Good p) : State.Good p (@State.pendAll a0 a1) := by
  have anc : Anchor p := trivial
  unfold State.pendAll
  grind (ematch := 40) (gen := 40) (splits := 24) (ring := false) (linarith := false) (lia := false) (ac := false)
grind_pattern State.pendAll_good => State.Good p (@State.pendAll a0 a1)
theorem State.eraseStores_good (a0 : State) (h0 : a0.Good p) : State.Good p (@State.eraseStores a0) := by
  have anc : Anchor p := trivial
  unfold State.eraseStores
  grind (ematch := 40) (gen := 40) (splits := 24) (ring := false) (linarith := false) (lia := false) (ac := false) [RTF_STATUS.BUF_TILES]
grind_pattern State.eraseStores_good => State.Good p (@State.eraseStores a0)
theorem execDebugRequest_good (a0 : DebugToken) (a1 : State) (h1 : a1.Good p) : OutGood p (@execDebugRequest a0 a1) := by
  have anc : Anchor p := trivial
  unfold execDebugRequest
  grind (ematch := 40) (gen := 40) (splits := 24) (ring := false) (linarith := false) (lia := false) (ac := false) [SEC_DBG.DEBUG_STATE, SEC_DBG.DBG_REFUSED]
grind_pattern execDebugRequest_good => OutGood p (@execDebugRequest a0 a1)
theorem execDebugOpen_good (a0 : State) (h0 : a0.Good p) : OutGood p (@execDebugOpen a0) := by
  have anc : Anchor p := trivial
  unfold execDebugOpen
  grind (ematch := 40) (gen := 40) (splits := 24) (ring := false) (linarith := false) (lia := false) (ac := false) [SEC_DBG.DEBUG_STATE]
grind_pattern execDebugOpen_good => OutGood p (@execDebugOpen a0)
theorem execLifecycleChange_good (a0 : BitVec 4) (a1 : State) (h1 : a1.Good p) : OutGood p (@execLifecycleChange a0 a1) := by
  have anc : Anchor p := trivial
  unfold execLifecycleChange
  grind (ematch := 40) (gen := 40) (splits := 24) (ring := false) (linarith := false) (lia := false) (ac := false) [SEC_LC.STATE]
grind_pattern execLifecycleChange_good => OutGood p (@execLifecycleChange a0 a1)
theorem execSpdmGetMeasurements_good (a0 : BitVec 8) (a1 : State) (h1 : a1.Good p) : OutGood p (@execSpdmGetMeasurements a0 a1) := by
  have anc : Anchor p := trivial
  unfold execSpdmGetMeasurements
  grind (ematch := 40) (gen := 40) (splits := 24) (ring := false) (linarith := false) (lia := false) (ac := false)
grind_pattern execSpdmGetMeasurements_good => OutGood p (@execSpdmGetMeasurements a0 a1)
theorem execPldmFirmwareUpdate_good (a0 : FwImage) (a1 : State) (h1 : a1.Good p) : OutGood p (@execPldmFirmwareUpdate a0 a1) := by
  have anc : Anchor p := trivial
  unfold execPldmFirmwareUpdate
  grind (ematch := 40) (gen := 40) (splits := 24) (ring := false) (linarith := false) (lia := false) (ac := false) [SEC_BOOT.ROLLBACK]
grind_pattern execPldmFirmwareUpdate_good => OutGood p (@execPldmFirmwareUpdate a0 a1)
theorem State.rehost_good (a0 : State) (h0 : a0.Good p) : State.Good p (@State.rehost a0) := by
  have anc : Anchor p := trivial
  unfold State.rehost
  grind (ematch := 40) (gen := 40) (splits := 24) (ring := false) (linarith := false) (lia := false) (ac := false) [RTF_STATUS.STATE]
grind_pattern State.rehost_good => State.Good p (@State.rehost a0)
theorem get_filter_of {α : Type} (d : α) (f : Nat × α → Bool) (m : SMap α) (k : Nat) (hk : ∀ v, f (k, v) = true) :
    SMap.get d (m.filter f) k = SMap.get d m k := by
  induction m with
  | nil => rfl
  | cons a m ih =>
    obtain ⟨j, v⟩ := a
    rw [List.filter_cons]
    by_cases e : j = k
    · subst e
      rw [if_pos (hk v)]
      simp [SMap.get]
    · split <;> simp [SMap.get, e, ih]
theorem get_absent {α : Type} (d : α) (m : SMap α) (k : Nat) (hk : ∀ e ∈ m, e.1 ≠ k) : SMap.get d m k = d := by
  induction m with
  | nil => rfl
  | cons a m ih =>
    obtain ⟨j, v⟩ := a
    have h1 : j ≠ k := hk _ List.mem_cons_self
    rw [SMap.get, if_neg h1]
    exact ih fun e he => hk e (List.mem_cons_of_mem _ he)
theorem State.keptRegs_good {s : State} (h : s.Good p) (cold : Bool) : GoodRegs (s.keptRegs cold) := by
  unfold State.keptRegs
  extract_lets whole fields kept part
  have hp : ∀ e ∈ part, e.1 ≠ 0 := by
    have gen : ∀ (l : List (Nat × Word)) (m : SMap Word), (∀ e ∈ m, e.1 ≠ 0) → ∀ e ∈ l.foldl (fun (m : SMap Word) (e : Nat × Word) =>
        let mine := fields.filter fun f => f.reg.num = e.1 % 256
        match mine.head? with
        | none => m
        | some f0 =>
          let r := regReset f0.reg (e.1 / 256)
          m.set r e.1 (mine.foldl (fun w f => f.put w (f.of e.2)) r)) m, e.1 ≠ 0 := by
      intro l
      induction l with
      | nil => exact fun m h => h
      | cons a l ih =>
        intro m hm
        refine ih _ ?_
        dsimp only
        split
        · exact hm
        · rename_i f0 e0
          have hf := List.mem_filter.mp (List.mem_of_head? e0)
          have h1 : a.1 ≠ 0 := by
            intro e1
            have h2 : ∀ f ∈ fields, f.reg.num ≠ 0 := by
              cases cold <;> decide
            have h3 := of_decide_eq_true hf.2
            rw [e1] at h3
            exact h2 f0 hf.1 h3
          intro e he
          unfold SMap.set at he
          split at he
          · exact hm e (SMap.mem_erase he)
          · rcases SMap.mem_insert he with rfl | he
            · exact h1
            · exact hm e he
    exact gen _ _ (by simp)
  have step : ∀ (l : List (Nat × Word)) (m : SMap Word), (∀ e ∈ l, e.1 ≠ 0) → GoodRegs m → GoodRegs (l.foldl (fun (m : SMap Word) (e : Nat × Word) => m.insert e.1 e.2) m) := by
    intro l
    induction l with
    | nil => exact fun m _ h => h
    | cons a l ih =>
      intro m hl hm
      refine ih _ (fun e he => hl e (List.mem_cons_of_mem _ he)) ⟨SMap.sorted_insert _ _ hm.1, fun f hf => ?_⟩
      rw [SMap.get_insert_ne]
      · exact hm.2 f hf
      · exact fun e => hl a List.mem_cons_self e.symm
  refine step _ _ hp ⟨SMap.sorted_filter _ h.2.1, fun f hf => ?_⟩
  cases cold with
  | false =>
    have e : SMap.get (regReset .HUB_ID 0) kept (regKey .HUB_ID 0) = s.regs.get (regReset .HUB_ID 0) (regKey .HUB_ID 0) :=
      get_filter_of _ _ _ _ (fun _ => by
        show decide (regKey .HUB_ID 0 % 256 ∈ warmWhole.map RegId.num) = true
        decide)
    rw [e]
    exact h.2.2 f hf
  | true =>
    have e : SMap.get (regReset .HUB_ID 0) kept (regKey .HUB_ID 0) = regReset .HUB_ID 0 := by
      refine get_absent _ _ _ (fun e he q => ?_)
      have := (List.mem_filter.mp he).2
      rw [q] at this
      revert this
      decide
    rw [e]
    fin_cases hf <;> decide
theorem State.countedCores_good (s : State) : GoodCores s.countedCores :=
  GoodCores.foldl GoodCores.nil (fun m e hm => by refine hm.set ?_ _; exact GoodMem.nil)
grind_pattern State.countedCores_good => s.countedCores
theorem State.wipe_good (s : State) (cold) (h : s.Good p) : State.Good p (s.wipe cold) := by
  unfold State.wipe
  refine ⟨h.1, State.keptRegs_good h cold, ?_, rfl, h.5.filter _, h.6⟩
  show GoodCores (if cold = true then [] else _)
  split
  · exact GoodCores.nil
  · exact GoodCores.foldl GoodCores.nil (fun m e hm => by refine hm.set ?_ _; exact GoodMem.nil)
grind_pattern State.wipe_good => State.Good p (@State.wipe s cold)
theorem State.countClears_good (a0 : State) (h0 : a0.Good p) : State.Good p (@State.countClears a0) := by
  have anc : Anchor p := trivial
  unfold State.countClears
  grind (ematch := 40) (gen := 40) (splits := 24) (ring := false) (linarith := false) (lia := false) (ac := false) [PRT_CNP_STATUS.CLEAR_CNT]
grind_pattern State.countClears_good => State.Good p (@State.countClears a0)
theorem State.afterRepair_good (a0 : State) (a1 : State) (h0 : a0.Good p) (_h1 : a1.Good p) : State.Good p (@State.afterRepair a0 a1) := by
  have anc : Anchor p := trivial
  unfold State.afterRepair
  grind (ematch := 40) (gen := 40) (splits := 24) (ring := false) (linarith := false) (lia := false) (ac := false) [TRK_REPAIR.PPR_CNT]
grind_pattern State.afterRepair_good => State.Good p (@State.afterRepair a0 a1)
theorem State.resetAll_good (a0 : State) (a1 : Bool) (h0 : a0.Good p) : State.Good p (@State.resetAll a0 a1) := by
  have anc : Anchor p := trivial
  unfold State.resetAll
  grind (ematch := 40) (gen := 40) (splits := 24) (ring := false) (linarith := false) (lia := false) (ac := false) [PWR_STATUS.THROT_LEVEL]
grind_pattern State.resetAll_good => State.Good p (@State.resetAll a0 a1)
theorem State.endStage_good (a0 : State) (a1 : ℕ) (h0 : a0.Good p) : State.Good p (@State.endStage a0 a1) := by
  have anc : Anchor p := trivial
  unfold State.endStage
  grind (ematch := 40) (gen := 40) (splits := 24) (ring := false) (linarith := false) (lia := false) (ac := false)
grind_pattern State.endStage_good => State.Good p (@State.endStage a0 a1)
theorem State.startTrain_good (a0 : State) (h0 : a0.Good p) : State.Good p (@State.startTrain a0) := by
  have anc : Anchor p := trivial
  unfold State.startTrain
  grind (ematch := 40) (gen := 40) (splits := 24) (ring := false) (linarith := false) (lia := false) (ac := false) [TRK_STATUS.STATE]
grind_pattern State.startTrain_good => State.Good p (@State.startTrain a0)
theorem State.bringUp_good (a0 : State) (a1 : ℕ) (h0 : a0.Good p) : State.Good p (@State.bringUp a0 a1) := by
  have anc : Anchor p := trivial
  unfold State.bringUp
  grind (ematch := 40) (gen := 40) (splits := 24) (ring := false) (linarith := false) (lia := false) (ac := false) [TRK_STATUS.STATE]
grind_pattern State.bringUp_good => State.Good p (@State.bringUp a0 a1)
theorem State.mapLcids_good (a0 : State) (a1 : List ℕ) (h0 : a0.Good p) : State.Good p (@State.mapLcids a0 a1) := by
  have anc : Anchor p := trivial
  unfold State.mapLcids
  grind (ematch := 40) (gen := 40) (splits := 24) (ring := false) (linarith := false) (lia := false) (ac := false)
grind_pattern State.mapLcids_good => State.Good p (@State.mapLcids a0 a1)
theorem State.firstMount_good (a0 : State) (a1 : ℕ) (h0 : a0.Good p) : State.Good p (@State.firstMount a0 a1) := by
  have anc : Anchor p := trivial
  unfold State.firstMount
  grind (ematch := 40) (gen := 40) (splits := 24) (ring := false) (linarith := false) (lia := false) (ac := false) [RTF_STATUS.STATE]
grind_pattern State.firstMount_good => State.Good p (@State.firstMount a0 a1)
theorem State.endTraining_good (a0 : State) (a1 : ℕ) (h0 : a0.Good p) : State.Good p (@State.endTraining a0 a1) := by
  have anc : Anchor p := trivial
  unfold State.endTraining
  grind (ematch := 40) (gen := 40) (splits := 24) (ring := false) (linarith := false) (lia := false) (ac := false) [TRK_STATUS.STATE]
grind_pattern State.endTraining_good => State.Good p (@State.endTraining a0 a1)
theorem State.endMounts_good (a0 : State) (a1 : ℕ) (h0 : a0.Good p) : State.Good p (@State.endMounts a0 a1) := by
  have anc : Anchor p := trivial
  unfold State.endMounts
  grind (ematch := 40) (gen := 40) (splits := 24) (ring := false) (linarith := false) (lia := false) (ac := false) [RTF_STATUS.STATE]
grind_pattern State.endMounts_good => State.Good p (@State.endMounts a0 a1)
theorem State.Good.setFw {s : State} (h : s.Good p) (f : Fld) (v : Nat) (hf : f = HUB_ID.FW_MAJOR ∨ f = HUB_ID.FW_MINOR) : (s.setFld f 0 v).Good p := by
  have key : ∀ g ∈ [HUB_ID.PART, HUB_ID.STEP_MAJOR, HUB_ID.STEP_MINOR, HUB_ID.MAGIC], (s.setFld f 0 v).fld g 0 = s.fld g 0 := by
    intro g hg
    fin_cases hg <;> rcases hf with rfl | rfl <;> (apply fld_setFld_apart <;> decide)
  have e : f.reg = .HUB_ID := by rcases hf with rfl | rfl <;> rfl
  refine ⟨h.1, ?_, h.3, h.4, h.5, h.6⟩
  show GoodRegs (s.regs.set (regReset f.reg 0) (regKey f.reg 0) (f.put (s.reg f.reg 0) v))
  rw [e]
  refine h.2.set' 0 _ (fun _ g hg => ?_)
  have k := key g hg
  have er : g.reg = .HUB_ID := by fin_cases hg <;> rfl
  simp only [State.fld, er] at k
  rw [← State.reg, ← k]
  simp only [State.setFld, e]
  rw [reg_setReg_same]
theorem State.verify_good (a0 : State) (a1 : Bool) (h0 : State.Good p a0) : State.Good p (a0.verify a1) := by
  unfold State.verify
  split
  · refine State.endStage_good _ _ (State.Good.setFw (State.Good.setFw ?_ _ _ (.inl rfl)) _ _ (.inr rfl))
    exact (h0.setFld _ _ _ (by decide)).setFld _ _ _ (by decide)
  · exact h0.setFld _ _ _ (by decide)
grind_pattern State.verify_good => State.Good p (@State.verify a0 a1)
theorem State.becomeReady_good (a0 : State) (h0 : a0.Good p) : State.Good p (@State.becomeReady a0) := by
  have anc : Anchor p := trivial
  unfold State.becomeReady
  grind (ematch := 40) (gen := 40) (splits := 24) (ring := false) (linarith := false) (lia := false) (ac := false) [HIF_STATUS.READY, SEC_BOOT.ROLLBACK]
grind_pattern State.becomeReady_good => State.Good p (@State.becomeReady a0)
theorem execStartStageEnd_good (a0 : Fin 12) (a1 : Bool) (a2 : BitVec 16) (a3 : State) (h3 : a3.Good p) : OutGood p (@execStartStageEnd a0 a1 a2 a3) := by
  have anc : Anchor p := trivial
  unfold execStartStageEnd
  grind (ematch := 40) (gen := 40) (splits := 24) (ring := false) (linarith := false) (lia := false) (ac := false) [ZXL_LNK_CTL.EN, PWR_STATUS.VHOLD_OK]
grind_pattern execStartStageEnd_good => OutGood p (@execStartStageEnd a0 a1 a2 a3)
theorem execProfSample_good (a0 : BitVec 2) (a1 : State) (h1 : a1.Good p) : OutGood p (@execProfSample a0 a1) := by
  have anc : Anchor p := trivial
  unfold execProfSample
  grind (ematch := 40) (gen := 40) (splits := 24) (ring := false) (linarith := false) (lia := false) (ac := false) [PWR_STATUS.PROF_PINS, PWR_STATUS.PROFILE]
grind_pattern execProfSample_good => OutGood p (@execProfSample a0 a1)
theorem execVin48Good_good (a0 : BitVec 8) (a1 : State) (h1 : a1.Good p) : OutGood p (@execVin48Good a0 a1) := by
  have anc : Anchor p := trivial
  unfold execVin48Good
  grind (ematch := 40) (gen := 40) (splits := 24) (ring := false) (linarith := false) (lia := false) (ac := false) [PWR_STATUS.VIN48_Q]
grind_pattern execVin48Good_good => OutGood p (@execVin48Good a0 a1)
theorem execVin48Low_good (a0 : BitVec 8) (a1 : State) (h1 : a1.Good p) : OutGood p (@execVin48Low a0 a1) := by
  have anc : Anchor p := trivial
  unfold execVin48Low
  grind (ematch := 40) (gen := 40) (splits := 24) (ring := false) (linarith := false) (lia := false) (ac := false) [PWR_STATUS.VIN48_Q]
grind_pattern execVin48Low_good => OutGood p (@execVin48Low a0 a1)
theorem execVholdOkRise_good (a0 : BitVec 8) (a1 : State) (h1 : a1.Good p) : OutGood p (@execVholdOkRise a0 a1) := by
  have anc : Anchor p := trivial
  unfold execVholdOkRise
  grind (ematch := 40) (gen := 40) (splits := 24) (ring := false) (linarith := false) (lia := false) (ac := false) [PWR_STATUS.VHOLD_Q, PWR_STATUS.VHOLD_OK]
grind_pattern execVholdOkRise_good => OutGood p (@execVholdOkRise a0 a1)
theorem execVholdOkFall_good (a0 : BitVec 8) (a1 : State) (h1 : a1.Good p) : OutGood p (@execVholdOkFall a0 a1) := by
  have anc : Anchor p := trivial
  unfold execVholdOkFall
  grind (ematch := 40) (gen := 40) (splits := 24) (ring := false) (linarith := false) (lia := false) (ac := false) [PWR_STATUS.VHOLD_Q, PWR_STATUS.VHOLD_OK, PWR_CNT.VHOLD_LOSS]
grind_pattern execVholdOkFall_good => OutGood p (@execVholdOkFall a0 a1)
theorem execPerstNDeassert_good (a0 : ℕ) (a1 : ℕ) (a2 : State) (h2 : a2.Good p) : OutGood p (@execPerstNDeassert a0 a1 a2) := by
  have anc : Anchor p := trivial
  unfold execPerstNDeassert
  grind (ematch := 40) (gen := 40) (splits := 24) (ring := false) (linarith := false) (lia := false) (ac := false) [HIF_STATUS.LINK_WIDTH, HIF_STATUS.LINK_RATE]
grind_pattern execPerstNDeassert_good => OutGood p (@execPerstNDeassert a0 a1 a2)
theorem State.warmAll_good (a0 : State) (h0 : a0.Good p) : State.Good p (@State.warmAll a0) := by
  have anc : Anchor p := trivial
  unfold State.warmAll
  grind (ematch := 40) (gen := 40) (splits := 24) (ring := false) (linarith := false) (lia := false) (ac := false)
grind_pattern State.warmAll_good => State.Good p (@State.warmAll a0)
theorem State.restart_good (a0 : State) (a1 : ℕ) (h0 : a0.Good p) : State.Good p (@State.restart a0 a1) := by
  have anc : Anchor p := trivial
  unfold State.restart
  grind (ematch := 40) (gen := 40) (splits := 24) (ring := false) (linarith := false) (lia := false) (ac := false) [PWR_STATUS.RESET_CAUSE]
grind_pattern State.restart_good => State.Good p (@State.restart a0 a1)
theorem State.leaveWatch_good (a0 : State) (a1 : ℕ) (h0 : a0.Good p) : State.Good p (@State.leaveWatch a0 a1) := by
  have anc : Anchor p := trivial
  unfold State.leaveWatch
  grind (ematch := 40) (gen := 40) (splits := 24) (ring := false) (linarith := false) (lia := false) (ac := false) [PWR_STATUS.PROFILE, PWR_STATUS.RESET_CAUSE]
grind_pattern State.leaveWatch_good => State.Good p (@State.leaveWatch a0 a1)
theorem execWarmReset_good (a0 : Fin 3) (a1 : State) (h1 : a1.Good p) : OutGood p (@execWarmReset a0 a1) := by
  have anc : Anchor p := trivial
  unfold execWarmReset
  grind (ematch := 40) (gen := 40) (splits := 24) (ring := false) (linarith := false) (lia := false) (ac := false)
grind_pattern execWarmReset_good => OutGood p (@execWarmReset a0 a1)
theorem execBufferedStoreTimeout_good (a0 : State) (h0 : a0.Good p) : OutGood p (@execBufferedStoreTimeout a0) := by
  have anc : Anchor p := trivial
  unfold execBufferedStoreTimeout
  grind (ematch := 40) (gen := 40) (splits := 24) (ring := false) (linarith := false) (lia := false) (ac := false)
grind_pattern execBufferedStoreTimeout_good => OutGood p (@execBufferedStoreTimeout a0)
theorem execFlrPf0_good (a0 : State) (h0 : a0.Good p) : OutGood p (@execFlrPf0 a0) := by
  have anc : Anchor p := trivial
  unfold execFlrPf0
  grind (ematch := 40) (gen := 40) (splits := 24) (ring := false) (linarith := false) (lia := false) (ac := false)
grind_pattern execFlrPf0_good => OutGood p (@execFlrPf0 a0)
theorem State.darken_good (a0 : State) (a1 : ℕ) (h0 : a0.Good p) : State.Good p (@State.darken a0 a1) := by
  have anc : Anchor p := trivial
  unfold State.darken
  grind (ematch := 40) (gen := 40) (splits := 24) (ring := false) (linarith := false) (lia := false) (ac := false)
grind_pattern State.darken_good => State.Good p (@State.darken a0 a1)
theorem State.stackOff_good (a0 : State) (a1 : ℕ) (h0 : a0.Good p) : State.Good p (@State.stackOff a0 a1) := by
  have anc : Anchor p := trivial
  unfold State.stackOff
  grind (ematch := 40) (gen := 40) (splits := 24) (ring := false) (linarith := false) (lia := false) (ac := false) [TRK_STATUS.STATE]
grind_pattern State.stackOff_good => State.Good p (@State.stackOff a0 a1)
theorem State.goDark_good (a0 : State) (a1 : ℕ) (h0 : a0.Good p) : State.Good p (@State.goDark a0 a1) := by
  have anc : Anchor p := trivial
  unfold State.goDark
  grind (ematch := 40) (gen := 40) (splits := 24) (ring := false) (linarith := false) (lia := false) (ac := false) [TRK_STATUS.STATE]
grind_pattern State.goDark_good => State.Good p (@State.goDark a0 a1)
theorem State.enterWatch_good (a0 : State) (h0 : a0.Good p) : State.Good p (@State.enterWatch a0) := by
  have anc : Anchor p := trivial
  unfold State.enterWatch
  grind (ematch := 40) (gen := 40) (splits := 24) (ring := false) (linarith := false) (lia := false) (ac := false) [PWR_STATUS.PROFILE]
grind_pattern State.enterWatch_good => State.Good p (@State.enterWatch a0)
theorem State.goWatch_good (a0 : State) (a1 : ProfJob) (h0 : a0.Good p) : State.Good p (@State.goWatch a0 a1) := by
  have anc : Anchor p := trivial
  unfold State.goWatch
  grind (ematch := 40) (gen := 40) (splits := 24) (ring := false) (linarith := false) (lia := false) (ac := false)
grind_pattern State.goWatch_good => State.Good p (@State.goWatch a0 a1)
theorem State.profileStep_good (a0 : State) (h0 : a0.Good p) : State.Good p (@State.profileStep a0) := by
  have anc : Anchor p := trivial
  unfold State.profileStep
  grind (ematch := 40) (gen := 40) (splits := 24) (ring := false) (linarith := false) (lia := false) (ac := false)
grind_pattern State.profileStep_good => State.Good p (@State.profileStep a0)
theorem State.startProfile_good (a0 : State) (a1 : Later) (a2 : ℕ) (h0 : a0.Good p) : State.Good p (@State.startProfile a0 a1 a2) := by
  have anc : Anchor p := trivial
  unfold State.startProfile
  grind (ematch := 40) (gen := 40) (splits := 24) (ring := false) (linarith := false) (lia := false) (ac := false)
grind_pattern State.startProfile_good => State.Good p (@State.startProfile a0 a1 a2)
theorem execProfileSet_good (a0 : RingId) (a1 : State) (h1 : a1.Good p) : OutGood p (@execProfileSet a0 a1) := by
  have anc : Anchor p := trivial
  unfold execProfileSet
  grind (ematch := 40) (gen := 40) (splits := 24) (ring := false) (linarith := false) (lia := false) (ac := false)
grind_pattern execProfileSet_good => OutGood p (@execProfileSet a0 a1)
theorem State.endProfile_good (a0 : State) (a1 : ProfJob) (h0 : a0.Good p) : State.Good p (@State.endProfile a0 a1) := by
  have anc : Anchor p := trivial
  unfold State.endProfile
  grind (ematch := 40) (gen := 40) (splits := 24) (ring := false) (linarith := false) (lia := false) (ac := false) [PWR_STATUS.PROFILE]
grind_pattern State.endProfile_good => State.Good p (@State.endProfile a0 a1)
theorem execProfileChangeEnd_good (a0 : State) (h0 : a0.Good p) : OutGood p (@execProfileChangeEnd a0) := by
  have anc : Anchor p := trivial
  unfold execProfileChangeEnd
  grind (ematch := 40) (gen := 40) (splits := 24) (ring := false) (linarith := false) (lia := false) (ac := false)
grind_pattern execProfileChangeEnd_good => OutGood p (@execProfileChangeEnd a0)
theorem execWatchEnter_good (a0 : RingId) (a1 : State) (h1 : a1.Good p) : OutGood p (@execWatchEnter a0 a1) := by
  have anc : Anchor p := trivial
  unfold execWatchEnter
  grind (ematch := 40) (gen := 40) (splits := 24) (ring := false) (linarith := false) (lia := false) (ac := false)
grind_pattern execWatchEnter_good => OutGood p (@execWatchEnter a0 a1)
theorem execWatchExit_good (a0 : Option (Fin 4)) (a1 : State) (h1 : a1.Good p) : OutGood p (@execWatchExit a0 a1) := by
  have anc : Anchor p := trivial
  unfold execWatchExit
  grind (ematch := 40) (gen := 40) (splits := 24) (ring := false) (linarith := false) (lia := false) (ac := false)
grind_pattern execWatchExit_good => OutGood p (@execWatchExit a0 a1)
theorem State.readSensor_good (a0 : State) (a1 : ℕ) (a2 : ℕ) (h0 : a0.Good p) : State.Good p (@State.readSensor a0 a1 a2) := by
  have anc : Anchor p := trivial
  unfold State.readSensor
  grind (ematch := 40) (gen := 40) (splits := 24) (ring := false) (linarith := false) (lia := false) (ac := false) [PWR_STATUS.THERM, PWR_STATUS.THROT_LEVEL]
grind_pattern State.readSensor_good => State.Good p (@State.readSensor a0 a1 a2)
theorem State.showSensor_good (a0 : State) (h0 : a0.Good p) : State.Good p (@State.showSensor a0) := by
  have anc : Anchor p := trivial
  unfold State.showSensor
  grind (ematch := 40) (gen := 40) (splits := 24) (ring := false) (linarith := false) (lia := false) (ac := false) [PWR_SENS_SEL.INSTANCE, PWR_SENS.TEMP_C, PWR_SENS.THROTTLE_C, PWR_SENS.SHUTDOWN_C, PWR_SENS.LEVEL, PWR_SENS.POWER_DW]
grind_pattern State.showSensor_good => State.Good p (@State.showSensor a0)
theorem State.setLevel_good (a0 : State) (a1 : ℕ) (a2 : ℕ) (h0 : a0.Good p) : State.Good p (@State.setLevel a0 a1 a2) := by
  have anc : Anchor p := trivial
  unfold State.setLevel
  grind (ematch := 40) (gen := 40) (splits := 24) (ring := false) (linarith := false) (lia := false) (ac := false)
grind_pattern State.setLevel_good => State.Good p (@State.setLevel a0 a1 a2)
theorem execThrottleRise_good (a0 : BitVec 8) (a1 : BitVec 8) (a2 : State) (h2 : a2.Good p) : OutGood p (@execThrottleRise a0 a1 a2) := by
  have anc : Anchor p := trivial
  unfold execThrottleRise
  grind (ematch := 40) (gen := 40) (splits := 24) (ring := false) (linarith := false) (lia := false) (ac := false) [PWR_CNT.THROT_ENTRIES]
grind_pattern execThrottleRise_good => OutGood p (@execThrottleRise a0 a1 a2)
theorem execThrottleFall_good (a0 : BitVec 8) (a1 : BitVec 8) (a2 : State) (h2 : a2.Good p) : OutGood p (@execThrottleFall a0 a1 a2) := by
  have anc : Anchor p := trivial
  unfold execThrottleFall
  grind (ematch := 40) (gen := 40) (splits := 24) (ring := false) (linarith := false) (lia := false) (ac := false)
grind_pattern execThrottleFall_good => OutGood p (@execThrottleFall a0 a1 a2)
theorem State.startSave_good (a0 : State) (a1 : ℕ) (h0 : a0.Good p) : State.Good p (@State.startSave a0 a1) := by
  have anc : Anchor p := trivial
  unfold State.startSave
  grind (ematch := 40) (gen := 40) (splits := 24) (ring := false) (linarith := false) (lia := false) (ac := false)
grind_pattern State.startSave_good => State.Good p (@State.startSave a0 a1)
theorem execSupplySag_good (a0 : State) (h0 : a0.Good p) : OutGood p (@execSupplySag a0) := by
  have anc : Anchor p := trivial
  unfold execSupplySag
  grind (ematch := 40) (gen := 40) (splits := 24) (ring := false) (linarith := false) (lia := false) (ac := false) [PWR_STATUS.VIN48_Q]
grind_pattern execSupplySag_good => OutGood p (@execSupplySag a0)
theorem execThermalShutdown_good (a0 : BitVec 8) (a1 : BitVec 8) (a2 : State) (h2 : a2.Good p) : OutGood p (@execThermalShutdown a0 a1 a2) := by
  have anc : Anchor p := trivial
  unfold execThermalShutdown
  grind (ematch := 40) (gen := 40) (splits := 24) (ring := false) (linarith := false) (lia := false) (ac := false)
grind_pattern execThermalShutdown_good => OutGood p (@execThermalShutdown a0 a1 a2)
theorem execSagSaveEnd_good (us mj : Nat) (s : State) (h : s.Good p) : OutGood p (execSagSaveEnd us mj s) := by
  refine OutGood.next ?_
  split
  · exact h
  extract_lets s1 s2 s3 fl s4 s5
  have h1 : s1.Good p := State.Good.ite (h.inc _ _ (by decide)) (h.inc _ _ (by decide))
  clear_value s1
  have h2 : s2.Good p := (h1.setFld _ _ _ (by decide)).setFld _ _ _ (by decide)
  clear_value s2
  have h3 : s3.Good p := (h2.setFld _ _ _ (by decide)).setFld _ _ _ (by decide)
  clear_value s3
  have h4 : s4.Good p := ⟨h3.1, h3.2, h3.3, h3.4, h3.5, h3.6⟩
  clear_value s4
  have h5 : s5.Good p := State.modPower_good _ _ h4
  clear_value s5
  split
  · exact State.enterWatch_good _ h5
  rename_i s6 _
  have h6 : s6.Good p := State.resetAll_good _ _ h5
  clear_value s6
  exact State.Good.ite (State.modPower_good _ _ h6) h6
grind_pattern execSagSaveEnd_good => OutGood p (@execSagSaveEnd us mj s)
theorem State.idleTick_good (a0 : State) (h0 : a0.Good p) : State.Good p (@State.idleTick a0) := by
  have anc : Anchor p := trivial
  unfold State.idleTick
  grind (ematch := 40) (gen := 40) (splits := 24) (ring := false) (linarith := false) (lia := false) (ac := false)
grind_pattern State.idleTick_good => State.Good p (@State.idleTick a0)
theorem rows_hub (v w : Word) (take : FldRow → Bool) :
    RegId.HUB_ID.rows.foldl (fun (w : Word) (row : FldRow) =>
      let f : Fld := ⟨.HUB_ID, row.hi, row.lo⟩
      match row.acc with
      | .rw | .rwl => if take row && !reservedEnc .HUB_ID row.lo (f.of v) then f.put w (f.of v) else w
      | .rw1c => if f.of v = 1 then f.put w 0 else w
      | .rw1s => if f.of v = 1 then f.put w 1 else w
      | _ => w) w = w := rfl
theorem State.Good.setRegSame {s : State} (h : s.Good p) (i : Nat) : (s.setReg .HUB_ID i (s.reg .HUB_ID i)).Good p :=
  ⟨h.1, h.2.set' i _ (fun e f _ => by subst e; rfl), h.3, h.4, h.5, h.6⟩
theorem State.storeFields_good (a0 : State) (a1 : RegId) (a2 : ℕ) (a3) (a4) (h0 : a0.Good p) : State.Good p (a0.storeFields a1 a2 a3 a4) := by
  unfold State.storeFields
  by_cases q : a1 = .HUB_ID
  · subst q
    exact (congrArg (fun w => State.Good p (a0.setReg .HUB_ID a2 w)) (rows_hub a3 (a0.reg .HUB_ID a2) a4)).mpr (h0.setRegSame a2)
  · exact h0.setReg _ _ _ q
grind_pattern State.storeFields_good => State.Good p (@State.storeFields a0 a1 a2 a3 a4)
theorem State.hostRead_good (a0 : State) (a1 : Fn) (a2 : ℕ) (a3 : ℕ) (a4 : ℕ) (h0 : a0.Good p) (_anc : Anchor p) : State.Good p (@State.hostRead a0 a1 a2 a3 a4).2 := by
  have anc : Anchor p := trivial
  unfold State.hostRead
  grind (ematch := 40) (gen := 40) (splits := 24) (ring := false) (linarith := false) (lia := false) (ac := false) [HIF_STATUS.READY, HIF_STATUS.BAD_ACCESS]
grind_pattern State.hostRead_good => State.Good p (@State.hostRead a0 a1 a2 a3 a4).2
grind_pattern State.hostRead_good => @State.hostRead a0 a1 a2 a3 a4, Anchor p
theorem State.readOut_good (a0 : Word × State) (h0 : a0.2.Good p) : State.Good p (@State.readOut a0) := State.send_good _ _ h0
grind_pattern State.readOut_good => State.Good p (@State.readOut a0)
theorem execNtuTimeLoRead_good (a0 : State) (h0 : a0.Good p) : OutGood p (@execNtuTimeLoRead a0) := by
  have anc : Anchor p := trivial
  unfold execNtuTimeLoRead
  grind (ematch := 40) (gen := 40) (splits := 24) (ring := false) (linarith := false) (lia := false) (ac := false)
grind_pattern execNtuTimeLoRead_good => OutGood p (@execNtuTimeLoRead a0)
theorem execPrtXlPteRead_good (a0 : PartId) (a1 : State) (h1 : a1.Good p) : OutGood p (@execPrtXlPteRead a0 a1) := by
  have anc : Anchor p := trivial
  unfold execPrtXlPteRead
  grind (ematch := 40) (gen := 40) (splits := 24) (ring := false) (linarith := false) (lia := false) (ac := false)
grind_pattern execPrtXlPteRead_good => OutGood p (@execPrtXlPteRead a0 a1)
theorem State.writeBounds_good (a0 : State) (a1 : ℕ) (a2 : ℕ) (a3 : Bool) (a4 : Word) (h0 : a0.Good p) : State.Good p (@State.writeBounds a0 a1 a2 a3 a4) := by
  have anc : Anchor p := trivial
  unfold State.writeBounds
  grind (ematch := 40) (gen := 40) (splits := 24) (ring := false) (linarith := false) (lia := false) (ac := false) [PRT_TBB_C.CBASE, PRT_TBB_C.CBOUND, PRT_TBB_I.IBASE, PRT_TBB_I.IBOUND]
grind_pattern State.writeBounds_good => State.Good p (@State.writeBounds a0 a1 a2 a3 a4)
theorem execPrtTbbWrite_good (a0 : Lcid) (a1 : TSlot) (a2 : Bool) (a3 : Word) (a4 : State) (h4 : a4.Good p) : OutGood p (@execPrtTbbWrite a0 a1 a2 a3 a4) := by
  have anc : Anchor p := trivial
  unfold execPrtTbbWrite
  grind (ematch := 40) (gen := 40) (splits := 24) (ring := false) (linarith := false) (lia := false) (ac := false)
grind_pattern execPrtTbbWrite_good => OutGood p (@execPrtTbbWrite a0 a1 a2 a3 a4)
theorem State.writeBucket_good (a0 : State) (a1 : ℕ) (a2 : ℕ) (a3 : Word) (h0 : a0.Good p) : State.Good p (@State.writeBucket a0 a1 a2 a3) := by
  have anc : Anchor p := trivial
  unfold State.writeBucket
  grind (ematch := 40) (gen := 40) (splits := 24) (ring := false) (linarith := false) (lia := false) (ac := false) [PRT_KV_BKT.CAP, PRT_KV_BKT.BOUND, PRT_KV_CFG.BKT_COUNT]
grind_pattern State.writeBucket_good => State.Good p (@State.writeBucket a0 a1 a2 a3)
theorem execPrtKvBktWrite_good (a0 : PartId) (a1 : Fin 16) (a2 : Word) (a3 : State) (h3 : a3.Good p) : OutGood p (@execPrtKvBktWrite a0 a1 a2 a3) := by
  have anc : Anchor p := trivial
  unfold execPrtKvBktWrite
  grind (ematch := 40) (gen := 40) (splits := 24) (ring := false) (linarith := false) (lia := false) (ac := false)
grind_pattern execPrtKvBktWrite_good => OutGood p (@execPrtKvBktWrite a0 a1 a2 a3)
theorem State.writeBucketCount_good (a0 : State) (a1 : ℕ) (a2 : Word) (h0 : a0.Good p) : State.Good p (@State.writeBucketCount a0 a1 a2) := by
  have anc : Anchor p := trivial
  unfold State.writeBucketCount
  grind (ematch := 40) (gen := 40) (splits := 24) (ring := false) (linarith := false) (lia := false) (ac := false) [PRT_KV_CFG.BKT_COUNT]
grind_pattern State.writeBucketCount_good => State.Good p (@State.writeBucketCount a0 a1 a2)
theorem State.writeStage_good (a0 : State) (a1 : ℕ) (a2 : Word) (h0 : a0.Good p) : State.Good p (@State.writeStage a0 a1 a2) := by
  have anc : Anchor p := trivial
  unfold State.writeStage
  grind (ematch := 40) (gen := 40) (splits := 24) (ring := false) (linarith := false) (lia := false) (ac := false) [PRT_XL_CFG.STAGE_MIB]
grind_pattern State.writeStage_good => State.Good p (@State.writeStage a0 a1 a2)
theorem execPrtXlCfgWrite_good (a0 : PartId) (a1 : Word) (a2 : State) (h2 : a2.Good p) : OutGood p (@execPrtXlCfgWrite a0 a1 a2) := by
  have anc : Anchor p := trivial
  unfold execPrtXlCfgWrite
  grind (ematch := 40) (gen := 40) (splits := 24) (ring := false) (linarith := false) (lia := false) (ac := false)
grind_pattern execPrtXlCfgWrite_good => OutGood p (@execPrtXlCfgWrite a0 a1 a2)
theorem outcomeState_good (s : State) (o) (ho : OutGood p o) (h : s.Good p): State.Good p (outcomeState s o) := by
  unfold outcomeState
  split
  · exact ho _ rfl
  · exact h
grind_pattern outcomeState_good => State.Good p (@outcomeState s o)
theorem State.writeTrkCtl_good (a0 : State) (a1 : PartId) (a2 : Word) (h0 : a0.Good p) : State.Good p (@State.writeTrkCtl a0 a1 a2) := by
  have anc : Anchor p := trivial
  unfold State.writeTrkCtl
  grind (ematch := 40) (gen := 40) (splits := 24) (ring := false) (linarith := false) (lia := false) (ac := false) [TRK_CTL.SCRUB_EN, TRK_CTL.MAINT, TRK_CTL.RETIRE_GO, TRK_CTL.RETIRE_PC]
grind_pattern State.writeTrkCtl_good => State.Good p (@State.writeTrkCtl a0 a1 a2)
theorem State.writeBist_good (a0 : State) (a1 : ℕ) (a2 : ℕ) (a3 : Word) (h0 : a0.Good p) : State.Good p (@State.writeBist a0 a1 a2 a3) := by
  have anc : Anchor p := trivial
  unfold State.writeBist
  grind (ematch := 40) (gen := 40) (splits := 24) (ring := false) (linarith := false) (lia := false) (ac := false) [TRK_BIST_CFG.STOP, TRK_BIST_CFG.START]
grind_pattern State.writeBist_good => State.Good p (@State.writeBist a0 a1 a2 a3)
theorem State.writeRtfCtl_good (a0 : State) (a1 : ℕ) (a2 : Word) (h0 : a0.Good p) : State.Good p (@State.writeRtfCtl a0 a1 a2) := by
  have anc : Anchor p := trivial
  unfold State.writeRtfCtl
  grind (ematch := 40) (gen := 40) (splits := 24) (ring := false) (linarith := false) (lia := false) (ac := false) [RTF_CTL.RETIRE_IDX, RTF_CTL.RETIRE_CH, RTF_CTL.RETIRE_GO, RTF_CTL.UNMOUNT, RTF_CTL.MOUNT]
grind_pattern State.writeRtfCtl_good => State.Good p (@State.writeRtfCtl a0 a1 a2)
theorem State.writeSetup_good (a0 : State) (a1 : RegId) (a2 : ℕ) (a3 : Word) (h0 : a0.Good p) : State.Good p (@State.writeSetup a0 a1 a2 a3) := by
  have anc : Anchor p := trivial
  unfold State.writeSetup
  grind (ematch := 40) (gen := 40) (splits := 24) (ring := false) (linarith := false) (lia := false) (ac := false) [VF_CTX_CFG.VERSION]
grind_pattern State.writeSetup_good => State.Good p (@State.writeSetup a0 a1 a2 a3)
theorem State.ctxCommand_good (a0 : State) (a1 : PartId) (a2 : Word) (h0 : a0.Good p) : State.Good p (@State.ctxCommand a0 a1 a2) := by
  have anc : Anchor p := trivial
  unfold State.ctxCommand
  grind (ematch := 40) (gen := 40) (splits := 24) (ring := false) (linarith := false) (lia := false) (ac := false) [VF_CTX_CMD.CMD]
grind_pattern State.ctxCommand_good => State.Good p (@State.ctxCommand a0 a1 a2)
theorem State.admCommand_good (a0 : State) (a1 : Word) (h0 : a0.Good p) : State.Good p (@State.admCommand a0 a1) := by
  have anc : Anchor p := trivial
  unfold State.admCommand
  grind (ematch := 40) (gen := 40) (splits := 24) (ring := false) (linarith := false) (lia := false) (ac := false) [HIF_ADM_CTL.CMD]
grind_pattern State.admCommand_good => State.Good p (@State.admCommand a0 a1)
theorem State.writeLinkCtl_good (a0 : State) (a1 : ℕ) (a2 : Word) (h0 : a0.Good p) : State.Good p (@State.writeLinkCtl a0 a1 a2) := by
  have anc : Anchor p := trivial
  unfold State.writeLinkCtl
  grind (ematch := 40) (gen := 40) (splits := 24) (ring := false) (linarith := false) (lia := false) (ac := false) [ZXL_LNK_CTL.EN, ZXL_LNK_CTL.RETIRE_GO, ZXL_LNK_CTL.RETIRE_LANE]
grind_pattern State.writeLinkCtl_good => State.Good p (@State.writeLinkCtl a0 a1 a2)
theorem State.writeQp_good (a0 : State) (a1 : ℕ) (a2 : Word) (h0 : a0.Good p) : State.Good p (@State.writeQp a0 a1 a2) := by
  have anc : Anchor p := trivial
  unfold State.writeQp
  grind (ematch := 40) (gen := 40) (splits := 24) (ring := false) (linarith := false) (lia := false) (ac := false) [ETH_QP_CFG.VALID]
grind_pattern State.writeQp_good => State.Good p (@State.writeQp a0 a1 a2)
theorem State.writeReg_good (a0 : State) (a1 : Fn) (a2 : RegId) (a3 : ℕ) (a4 : Word) (a5 : FldRow → Bool) (h0 : a0.Good p) : State.Good p (@State.writeReg a0 a1 a2 a3 a4 a5) := by
  have anc : Anchor p := trivial
  unfold State.writeReg
  grind (ematch := 40) (gen := 40) (splits := 24) (ring := false) (linarith := false) (lia := false) (ac := false) [NTU_CTL.MARGIN_RST, PRT_CLP_DRV.BUSY, PRT_CLP_DRV.GO, PRT_CLP_BUD.BUDGET, PRT_ISO_CTX.CTX_LOCAL, PRT_ISO_CTX.KILL, FLT_SEV_CFG.SEV, FLT_INJ_CTL.GO]
grind_pattern State.writeReg_good => State.Good p (@State.writeReg a0 a1 a2 a3 a4 a5)
theorem State.doorbell_good (a0 : State) (a1 : RingId) (a2 : ℕ) (a3 : BitVec 32) (h0 : a0.Good p) : State.Good p (@State.doorbell a0 a1 a2 a3) := by
  have anc : Anchor p := trivial
  unfold State.doorbell
  grind (ematch := 40) (gen := 40) (splits := 24) (ring := false) (linarith := false) (lia := false) (ac := false)
grind_pattern State.doorbell_good => State.Good p (@State.doorbell a0 a1 a2 a3)
theorem State.hostWrite_good (a0 : State) (a1 : Fn) (a2 : ℕ) (a3 : ℕ) (a4 : ℕ) (a5 : Word) (h0 : a0.Good p) : State.Good p (@State.hostWrite a0 a1 a2 a3 a4 a5) := by
  have anc : Anchor p := trivial
  unfold State.hostWrite
  grind (ematch := 40) (gen := 40) (splits := 24) (ring := false) (linarith := false) (lia := false) (ac := false) [HIF_STATUS.READY, HIF_STATUS.BAD_ACCESS]
grind_pattern State.hostWrite_good => State.Good p (@State.hostWrite a0 a1 a2 a3 a4 a5)
theorem execRegWrite_good (a0 : Fn) (a1 : Fin 6) (a2 : ℕ) (a3 : ℕ) (a4 : Word) (a5 : State) (h5 : a5.Good p) : OutGood p (@execRegWrite a0 a1 a2 a3 a4 a5) := by
  have anc : Anchor p := trivial
  unfold execRegWrite
  grind (ematch := 40) (gen := 40) (splits := 24) (ring := false) (linarith := false) (lia := false) (ac := false)
grind_pattern execRegWrite_good => OutGood p (@execRegWrite a0 a1 a2 a3 a4 a5)
theorem State.scalarOp_good (a0 : State) (a1 : ℕ) (a2 : ℕ) (a3 : ℕ) (a4 : Word → Word → Word → Word) (h0 : a0.Good p) : State.Good p (@State.scalarOp a0 a1 a2 a3 a4) := by
  have anc : Anchor p := trivial
  unfold State.scalarOp
  grind (ematch := 40) (gen := 40) (splits := 24) (ring := false) (linarith := false) (lia := false) (ac := false)
grind_pattern State.scalarOp_good => State.Good p (@State.scalarOp a0 a1 a2 a3 a4)
theorem execSadd_good (a0 : Lcid) (a1 : TSlot) (a2 : State) (h2 : a2.Good p) : OutGood p (@execSadd a0 a1 a2) := by
  have anc : Anchor p := trivial
  unfold execSadd
  grind (ematch := 40) (gen := 40) (splits := 24) (ring := false) (linarith := false) (lia := false) (ac := false)
grind_pattern execSadd_good => OutGood p (@execSadd a0 a1 a2)
theorem execSsub_good (a0 : Lcid) (a1 : TSlot) (a2 : State) (h2 : a2.Good p) : OutGood p (@execSsub a0 a1 a2) := by
  have anc : Anchor p := trivial
  unfold execSsub
  grind (ematch := 40) (gen := 40) (splits := 24) (ring := false) (linarith := false) (lia := false) (ac := false)
grind_pattern execSsub_good => OutGood p (@execSsub a0 a1 a2)
theorem execSmul_good (a0 : Lcid) (a1 : TSlot) (a2 : State) (h2 : a2.Good p) : OutGood p (@execSmul a0 a1 a2) := by
  have anc : Anchor p := trivial
  unfold execSmul
  grind (ematch := 40) (gen := 40) (splits := 24) (ring := false) (linarith := false) (lia := false) (ac := false)
grind_pattern execSmul_good => OutGood p (@execSmul a0 a1 a2)
theorem execSand_good (a0 : Lcid) (a1 : TSlot) (a2 : State) (h2 : a2.Good p) : OutGood p (@execSand a0 a1 a2) := by
  have anc : Anchor p := trivial
  unfold execSand
  grind (ematch := 40) (gen := 40) (splits := 24) (ring := false) (linarith := false) (lia := false) (ac := false)
grind_pattern execSand_good => OutGood p (@execSand a0 a1 a2)
theorem execSor_good (a0 : Lcid) (a1 : TSlot) (a2 : State) (h2 : a2.Good p) : OutGood p (@execSor a0 a1 a2) := by
  have anc : Anchor p := trivial
  unfold execSor
  grind (ematch := 40) (gen := 40) (splits := 24) (ring := false) (linarith := false) (lia := false) (ac := false)
grind_pattern execSor_good => OutGood p (@execSor a0 a1 a2)
theorem execSxor_good (a0 : Lcid) (a1 : TSlot) (a2 : State) (h2 : a2.Good p) : OutGood p (@execSxor a0 a1 a2) := by
  have anc : Anchor p := trivial
  unfold execSxor
  grind (ematch := 40) (gen := 40) (splits := 24) (ring := false) (linarith := false) (lia := false) (ac := false)
grind_pattern execSxor_good => OutGood p (@execSxor a0 a1 a2)
theorem execSshl_good (a0 : Lcid) (a1 : TSlot) (a2 : State) (h2 : a2.Good p) : OutGood p (@execSshl a0 a1 a2) := by
  have anc : Anchor p := trivial
  unfold execSshl
  grind (ematch := 40) (gen := 40) (splits := 24) (ring := false) (linarith := false) (lia := false) (ac := false)
grind_pattern execSshl_good => OutGood p (@execSshl a0 a1 a2)
theorem execSshr_good (a0 : Lcid) (a1 : TSlot) (a2 : State) (h2 : a2.Good p) : OutGood p (@execSshr a0 a1 a2) := by
  have anc : Anchor p := trivial
  unfold execSshr
  grind (ematch := 40) (gen := 40) (splits := 24) (ring := false) (linarith := false) (lia := false) (ac := false)
grind_pattern execSshr_good => OutGood p (@execSshr a0 a1 a2)
theorem execSli_good (a0 : Lcid) (a1 : TSlot) (a2 : State) (h2 : a2.Good p) : OutGood p (@execSli a0 a1 a2) := by
  have anc : Anchor p := trivial
  unfold execSli
  grind (ematch := 40) (gen := 40) (splits := 24) (ring := false) (linarith := false) (lia := false) (ac := false)
grind_pattern execSli_good => OutGood p (@execSli a0 a1 a2)
theorem execScmp_good (a0 : Lcid) (a1 : TSlot) (a2 : State) (h2 : a2.Good p) : OutGood p (@execScmp a0 a1 a2) := by
  have anc : Anchor p := trivial
  unfold execScmp
  grind (ematch := 40) (gen := 40) (splits := 24) (ring := false) (linarith := false) (lia := false) (ac := false)
grind_pattern execScmp_good => OutGood p (@execScmp a0 a1 a2)
theorem execSld_good (a0 : Lcid) (a1 : TSlot) (a2 : State) (h2 : a2.Good p) : OutGood p (@execSld a0 a1 a2) := by
  have anc : Anchor p := trivial
  unfold execSld
  grind (ematch := 40) (gen := 40) (splits := 24) (ring := false) (linarith := false) (lia := false) (ac := false)
grind_pattern execSld_good => OutGood p (@execSld a0 a1 a2)
theorem execSst_good (a0 : Lcid) (a1 : TSlot) (a2 : State) (h2 : a2.Good p) : OutGood p (@execSst a0 a1 a2) := by
  have anc : Anchor p := trivial
  unfold execSst
  grind (ematch := 40) (gen := 40) (splits := 24) (ring := false) (linarith := false) (lia := false) (ac := false)
grind_pattern execSst_good => OutGood p (@execSst a0 a1 a2)
theorem execRoute_good (a0 : Lcid) (a1 : TSlot) (a2 : State) (h2 : a2.Good p) : OutGood p (@execRoute a0 a1 a2) := by
  have anc : Anchor p := trivial
  unfold execRoute
  grind (ematch := 40) (gen := 40) (splits := 24) (ring := false) (linarith := false) (lia := false) (ac := false)
grind_pattern execRoute_good => OutGood p (@execRoute a0 a1 a2)
theorem execSample_good (a0 : Lcid) (a1 : TSlot) (a2 : State) (h2 : a2.Good p) : OutGood p (@execSample a0 a1 a2) := by
  have anc : Anchor p := trivial
  unfold execSample
  grind (ematch := 40) (gen := 40) (splits := 24) (ring := false) (linarith := false) (lia := false) (ac := false)
grind_pattern execSample_good => OutGood p (@execSample a0 a1 a2)
theorem execAccept_good (a0 : Lcid) (a1 : TSlot) (a2 : State) (h2 : a2.Good p) : OutGood p (@execAccept a0 a1 a2) := by
  have anc : Anchor p := trivial
  unfold execAccept
  grind (ematch := 40) (gen := 40) (splits := 24) (ring := false) (linarith := false) (lia := false) (ac := false)
grind_pattern execAccept_good => OutGood p (@execAccept a0 a1 a2)
theorem rejFail_good (a0 : State) (a1 : ℕ) (a2 : Op) (h0 : a0.Good p) : State.Good p (@rejFail a0 a1 a2) := by
  have anc : Anchor p := trivial
  unfold rejFail
  grind (ematch := 40) (gen := 40) (splits := 24) (ring := false) (linarith := false) (lia := false) (ac := false) [PRT_DS_ERR.REQ_REJ]
grind_pattern rejFail_good => State.Good p (@rejFail a0 a1 a2)
theorem State.sampleRun_good (a0 : State) (a1 : ℕ) (a2 : Op) (h0 : a0.Good p) : State.Good p (@State.sampleRun a0 a1 a2) := by
  have anc : Anchor p := trivial
  unfold State.sampleRun
  grind (ematch := 40) (gen := 40) (splits := 24) (ring := false) (linarith := false) (lia := false) (ac := false) [PRT_DS_SMP.SAMPLES, PRT_DS_SMP.LOGIT_NONFIN]
grind_pattern State.sampleRun_good => State.Good p (@State.sampleRun a0 a1 a2)
theorem State.walk_good (a0 : State) (a1 : ℕ) (a2 : Op) (a3 : SeqRec) (a4 : ℕ) (a5 : ℕ) (a6 : ℕ) (a7 : ℕ) (a8 : ℕ) (a9 : List ℕ) (h0 : a0.Good p) (_anc : Anchor p) : State.Good p (@State.walk a0 a1 a2 a3 a4 a5 a6 a7 a8 a9).2 := by
  have anc : Anchor p := trivial
  fun_induction State.walk a0 a1 a2 a3 a4 a5 a6 a7 a8 a9
  all_goals grind (ematch := 40) (gen := 40) (splits := 24) (ring := false) (linarith := false) (lia := false) (ac := false)
grind_pattern State.walk_good => State.Good p (@State.walk a0 a1 a2 a3 a4 a5 a6 a7 a8 a9).2
grind_pattern State.walk_good => @State.walk a0 a1 a2 a3 a4 a5 a6 a7 a8 a9, Anchor p
theorem State.acceptRun_good (a0 : State) (a1 : ℕ) (a2 : Op) (h0 : a0.Good p) : State.Good p (@State.acceptRun a0 a1 a2) := by
  have anc : Anchor p := trivial
  unfold State.acceptRun
  grind (ematch := 40) (gen := 40) (splits := 24) (ring := false) (linarith := false) (lia := false) (ac := false) [PRT_DS_ACC.NODES_PROPOSED, PRT_DS_ACC.NODES_ACCEPTED, PRT_DS_SEQ.ACCEPTS, PRT_DS_SEQ.STOPS, PRT_DS_SEQ.RESID_ZERO, PRT_DS_SMP.NOCAND]
grind_pattern State.acceptRun_good => State.Good p (@State.acceptRun a0 a1 a2)
theorem State.routeRun_good (a0 : State) (a1 : ℕ) (a2 : Op) (h0 : a0.Good p) : State.Good p (@State.routeRun a0 a1 a2) := by
  have anc : Anchor p := trivial
  unfold State.routeRun
  grind (ematch := 40) (gen := 40) (splits := 24) (ring := false) (linarith := false) (lia := false) (ac := false) [PRT_DS_RTE.ROUTED_ROWS, PRT_DS_RTE.SCORE_NONFIN, PRT_DS_RTE.TIE_CNT]
grind_pattern State.routeRun_good => State.Good p (@State.routeRun a0 a1 a2)
theorem execServiceRequestEnd_good (a0 : Lcid) (a1 : ℕ) (a2 : State) (h2 : a2.Good p) : OutGood p (@execServiceRequestEnd a0 a1 a2) := by
  have anc : Anchor p := trivial
  unfold execServiceRequestEnd
  grind (ematch := 40) (gen := 40) (splits := 24) (ring := false) (linarith := false) (lia := false) (ac := false)
grind_pattern execServiceRequestEnd_good => OutGood p (@execServiceRequestEnd a0 a1 a2)
theorem State.writeVec_good (a0 : State) (a1 : ℕ) (a2 : ℕ) (a3 : Word) (a4 : ℕ) (a5 : VReg) (h0 : a0.Good p) : State.Good p (@State.writeVec a0 a1 a2 a3 a4 a5) := by
  have anc : Anchor p := trivial
  unfold State.writeVec
  grind (ematch := 40) (gen := 40) (splits := 24) (ring := false) (linarith := false) (lia := false) (ac := false)
grind_pattern State.writeVec_good => State.Good p (@State.writeVec a0 a1 a2 a3 a4 a5)
theorem State.readWords_good (a0 : State) (a1 : ℕ) (a2 : List ℕ) (h0 : a0.Good p) (_anc : Anchor p) : State.Good p (@State.readWords a0 a1 a2).2 := by
  have anc : Anchor p := trivial
  fun_induction State.readWords a0 a1 a2
  all_goals grind (ematch := 40) (gen := 40) (splits := 24) (ring := false) (linarith := false) (lia := false) (ac := false)
grind_pattern State.readWords_good => State.Good p (@State.readWords a0 a1 a2).2
grind_pattern State.readWords_good => @State.readWords a0 a1 a2, Anchor p
theorem State.loadVec_good (a0 : State) (a1 : ℕ) (a2 : ℕ) (a3 : Word) (a4 : List ℕ) (h0 : a0.Good p) : State.Good p (@State.loadVec a0 a1 a2 a3 a4) := by
  have anc : Anchor p := trivial
  unfold State.loadVec
  grind (ematch := 40) (gen := 40) (splits := 24) (ring := false) (linarith := false) (lia := false) (ac := false)
grind_pattern State.loadVec_good => State.Good p (@State.loadVec a0 a1 a2 a3 a4)
theorem State.storeVec_good (a0 : State) (a1 : ℕ) (a2 : ℕ) (a3 : Word) (a4 : List ℕ) (h0 : a0.Good p) : State.Good p (@State.storeVec a0 a1 a2 a3 a4) := by
  have anc : Anchor p := trivial
  unfold State.storeVec
  grind (ematch := 40) (gen := 40) (splits := 24) (ring := false) (linarith := false) (lia := false) (ac := false)
grind_pattern State.storeVec_good => State.Good p (@State.storeVec a0 a1 a2 a3 a4)
theorem State.vecMove_good (a0 : State) (a1 : ℕ) (a2 : ℕ) (a3 : Word) (a4 : List ℕ → State → State) (h0 : a0.Good p) (h4 : ∀ (b0 : List ℕ) (b1 : State), b1.Good p → State.Good p (a4 b0 b1)) : State.Good p (@State.vecMove a0 a1 a2 a3 a4) := by
  have anc : Anchor p := trivial
  unfold State.vecMove
  grind (ematch := 40) (gen := 40) (splits := 24) (ring := false) (linarith := false) (lia := false) (ac := false)
grind_pattern State.vecMove_good => State.Good p (@State.vecMove a0 a1 a2 a3 a4)
theorem State.sheetMove_good (a0 : State) (a1 : ℕ) (a2 : ℕ) (a3 : Word) (a4 : List ℕ → State → State) (h0 : a0.Good p) (h4 : ∀ (b0 : List ℕ) (b1 : State), b1.Good p → State.Good p (a4 b0 b1)) : State.Good p (@State.sheetMove a0 a1 a2 a3 a4) := by
  have anc : Anchor p := trivial
  unfold State.sheetMove
  grind (ematch := 40) (gen := 40) (splits := 24) (ring := false) (linarith := false) (lia := false) (ac := false)
grind_pattern State.sheetMove_good => State.Good p (@State.sheetMove a0 a1 a2 a3 a4)
theorem execSread_good (a0 : Lcid) (a1 : TSlot) (a2 : State) (h2 : a2.Good p) : OutGood p (@execSread a0 a1 a2) := by
  have anc : Anchor p := trivial
  unfold execSread
  grind (ematch := 40) (gen := 40) (splits := 24) (ring := false) (linarith := false) (lia := false) (ac := false)
grind_pattern execSread_good => OutGood p (@execSread a0 a1 a2)
theorem execSwrite_good (a0 : Lcid) (a1 : TSlot) (a2 : State) (h2 : a2.Good p) : OutGood p (@execSwrite a0 a1 a2) := by
  have anc : Anchor p := trivial
  unfold execSwrite
  grind (ematch := 40) (gen := 40) (splits := 24) (ring := false) (linarith := false) (lia := false) (ac := false)
grind_pattern execSwrite_good => OutGood p (@execSwrite a0 a1 a2)
theorem execVld_good (a0 : Lcid) (a1 : TSlot) (a2 : State) (h2 : a2.Good p) : OutGood p (@execVld a0 a1 a2) := by
  have anc : Anchor p := trivial
  unfold execVld
  grind (ematch := 40) (gen := 40) (splits := 24) (ring := false) (linarith := false) (lia := false) (ac := false)
grind_pattern execVld_good => OutGood p (@execVld a0 a1 a2)
theorem execVst_good (a0 : Lcid) (a1 : TSlot) (a2 : State) (h2 : a2.Good p) : OutGood p (@execVst a0 a1 a2) := by
  have anc : Anchor p := trivial
  unfold execVst
  grind (ematch := 40) (gen := 40) (splits := 24) (ring := false) (linarith := false) (lia := false) (ac := false)
grind_pattern execVst_good => OutGood p (@execVst a0 a1 a2)
theorem State.vecOp_good (a0 : State) (a1 : ℕ) (a2 : ℕ) (a3 : ℕ) (a4 : Word → ℕ → Lane → Lane → Lane → Lane) (h0 : a0.Good p) : State.Good p (@State.vecOp a0 a1 a2 a3 a4) := by
  have anc : Anchor p := trivial
  unfold State.vecOp
  grind (ematch := 40) (gen := 40) (splits := 24) (ring := false) (linarith := false) (lia := false) (ac := false)
grind_pattern State.vecOp_good => State.Good p (@State.vecOp a0 a1 a2 a3 a4)
theorem execVadd_good (a0 : Lcid) (a1 : TSlot) (a2 : State) (h2 : a2.Good p) : OutGood p (@execVadd a0 a1 a2) := by
  have anc : Anchor p := trivial
  unfold execVadd
  grind (ematch := 40) (gen := 40) (splits := 24) (ring := false) (linarith := false) (lia := false) (ac := false)
grind_pattern execVadd_good => OutGood p (@execVadd a0 a1 a2)
theorem execVmul_good (a0 : Lcid) (a1 : TSlot) (a2 : State) (h2 : a2.Good p) : OutGood p (@execVmul a0 a1 a2) := by
  have anc : Anchor p := trivial
  unfold execVmul
  grind (ematch := 40) (gen := 40) (splits := 24) (ring := false) (linarith := false) (lia := false) (ac := false)
grind_pattern execVmul_good => OutGood p (@execVmul a0 a1 a2)
theorem execVfma_good (a0 : Lcid) (a1 : TSlot) (a2 : State) (h2 : a2.Good p) : OutGood p (@execVfma a0 a1 a2) := by
  have anc : Anchor p := trivial
  unfold execVfma
  grind (ematch := 40) (gen := 40) (splits := 24) (ring := false) (linarith := false) (lia := false) (ac := false)
grind_pattern execVfma_good => OutGood p (@execVfma a0 a1 a2)
theorem execVmax_good (a0 : Lcid) (a1 : TSlot) (a2 : State) (h2 : a2.Good p) : OutGood p (@execVmax a0 a1 a2) := by
  have anc : Anchor p := trivial
  unfold execVmax
  grind (ematch := 40) (gen := 40) (splits := 24) (ring := false) (linarith := false) (lia := false) (ac := false)
grind_pattern execVmax_good => OutGood p (@execVmax a0 a1 a2)
theorem execVmin_good (a0 : Lcid) (a1 : TSlot) (a2 : State) (h2 : a2.Good p) : OutGood p (@execVmin a0 a1 a2) := by
  have anc : Anchor p := trivial
  unfold execVmin
  grind (ematch := 40) (gen := 40) (splits := 24) (ring := false) (linarith := false) (lia := false) (ac := false)
grind_pattern execVmin_good => OutGood p (@execVmin a0 a1 a2)
theorem execVexp2_good (a0 : Lcid) (a1 : TSlot) (a2 : State) (h2 : a2.Good p) : OutGood p (@execVexp2 a0 a1 a2) := by
  have anc : Anchor p := trivial
  unfold execVexp2
  grind (ematch := 40) (gen := 40) (splits := 24) (ring := false) (linarith := false) (lia := false) (ac := false)
grind_pattern execVexp2_good => OutGood p (@execVexp2 a0 a1 a2)
theorem execVrsq_good (a0 : Lcid) (a1 : TSlot) (a2 : State) (h2 : a2.Good p) : OutGood p (@execVrsq a0 a1 a2) := by
  have anc : Anchor p := trivial
  unfold execVrsq
  grind (ematch := 40) (gen := 40) (splits := 24) (ring := false) (linarith := false) (lia := false) (ac := false)
grind_pattern execVrsq_good => OutGood p (@execVrsq a0 a1 a2)
theorem execVrcp_good (a0 : Lcid) (a1 : TSlot) (a2 : State) (h2 : a2.Good p) : OutGood p (@execVrcp a0 a1 a2) := by
  have anc : Anchor p := trivial
  unfold execVrcp
  grind (ematch := 40) (gen := 40) (splits := 24) (ring := false) (linarith := false) (lia := false) (ac := false)
grind_pattern execVrcp_good => OutGood p (@execVrcp a0 a1 a2)
theorem execVcvt_good (a0 : Lcid) (a1 : TSlot) (a2 : State) (h2 : a2.Good p) : OutGood p (@execVcvt a0 a1 a2) := by
  have anc : Anchor p := trivial
  unfold execVcvt
  grind (ematch := 40) (gen := 40) (splits := 24) (ring := false) (linarith := false) (lia := false) (ac := false)
grind_pattern execVcvt_good => OutGood p (@execVcvt a0 a1 a2)
theorem execVsel_good (a0 : Lcid) (a1 : TSlot) (a2 : State) (h2 : a2.Good p) : OutGood p (@execVsel a0 a1 a2) := by
  have anc : Anchor p := trivial
  unfold execVsel
  grind (ematch := 40) (gen := 40) (splits := 24) (ring := false) (linarith := false) (lia := false) (ac := false)
grind_pattern execVsel_good => OutGood p (@execVsel a0 a1 a2)
theorem execVred_good (a0 : Lcid) (a1 : TSlot) (a2 : State) (h2 : a2.Good p) : OutGood p (@execVred a0 a1 a2) := by
  have anc : Anchor p := trivial
  unfold execVred
  grind (ematch := 40) (gen := 40) (splits := 24) (ring := false) (linarith := false) (lia := false) (ac := false)
grind_pattern execVred_good => OutGood p (@execVred a0 a1 a2)
theorem execVstat_good (a0 : Lcid) (a1 : TSlot) (a2 : State) (h2 : a2.Good p) : OutGood p (@execVstat a0 a1 a2) := by
  have anc : Anchor p := trivial
  unfold execVstat
  grind (ematch := 40) (gen := 40) (splits := 24) (ring := false) (linarith := false) (lia := false) (ac := false)
grind_pattern execVstat_good => OutGood p (@execVstat a0 a1 a2)

end Sys2Proof.Machine
end

