-- ==== Sys2Proof/WellFormed.lean ====
section
/-! DEFINITION. Well-formed commands: the limits the spec sets on what can come from outside the device. -/

namespace Sys2Proof

/-- A frame carries 0 to 8 units of 64 bytes (R387). -/
def FrameIn.wf (f : FrameIn) : Bool := decide (f.payload.length ≤ 512)

/-- Addresses of host stores are 64-bit (R361). -/
def hostWf (m : HostStores) : Bool := m.all fun e => decide (e.1 < 2 ^ 64)

/-- Nanoseconds of an 80-bit counter's seconds (R28). -/
def timeWf (t : Int) : Bool := decide (t.natAbs < 2 ^ 82)

/-- The limits of R359 (sizes of BARs), R294 (whole sectors), R323 (tiles), R387 (frames), R394 (RDMA). -/
def Instr.wf : Instr → Bool
  | .regWrite _ _ offset size _ => decide (1 ≤ size) && decide (offset + size ≤ 2 ^ 26)
  | .sqTail _ _ mem => hostWf mem
  | .create _ mem => hostWf mem
  | .rebase _ mem => hostWf mem
  | .adminContextCreate mem => hostWf mem
  | .ptpSync _ _ _ t1 corr t2 => timeWf t1 && timeWf corr && timeWf t2
  | .ptpFollowUp _ _ t1 corr => timeWf t1 && timeWf corr
  | .ptpDelayResp _ _ t3 t4 corr => timeWf t3 && timeWf t4 && timeWf corr
  | .time f t => f.wf && timeWf t.t1 && timeWf t.t2 && timeWf t.t3 && timeWf t.t4
  | .idle f => f.wf
  | .credit f => f.wf
  | .ack f => f.wf
  | .nak f => f.wf
  | .write f => f.wf
  | .addF f => f.wf
  | .addI f => f.wf
  | .resp f => f.wf
  | .tile f => f.wf
  | .ctrl f _ => f.wf
  | .fault f _ => f.wf
  | .train f _ => f.wf
  | .frameReservedType f => f.wf
  | .rdmaWrite _ _ va data => decide (va + data.length ≤ 2 ^ 64)
  | .rdmaWriteWithImmediate _ f _ => f.wf
  | .trunkRead _ dpa _ seen => decide (dpa % 32 = 0) && decide (seen.length ≤ 4)
  | .trunkWrite _ dpa _ => decide (dpa % 32 = 0)
  | .rootTileWrite _ _ data => decide (data.length = 65536)
  | _ => true

end Sys2Proof
end

