-- ==== Sys2Proof/Laws/PerInstr.lean ====
section
/-! SUPPORT. A statement about every command as syntax: the frame a well-formed command carries has at most 8 units of 64
bytes (R387). -/

namespace Sys2Proof

/-- The Zapiex frame that a command carries. -/
def Instr.frame? : Instr → Option FrameIn
  | .time f _ => some f
  | .idle f => some f
  | .credit f => some f
  | .ack f => some f
  | .nak f => some f
  | .write f => some f
  | .addF f => some f
  | .addI f => some f
  | .resp f => some f
  | .tile f => some f
  | .ctrl f _ => some f
  | .fault f _ => some f
  | .train f _ => some f
  | .frameReservedType f => some f
  | .rdmaWriteWithImmediate _ f _ => some f
  | _ => none

/-- Units of 64 bytes in a frame of a well-formed command (R387). -/
def Laws.PayloadLimit.Statement (i : Instr) : Prop :=
  i.wf = true → ∀ f, i.frame? = some f → f.payload.length ≤ 8 * 64

namespace Laws.PayloadLimit

-- One theorem at a time: each thread takes a stack of its own.
set_option Elab.async false

theorem nop a b : Statement (.nop a b) := fun _ _ e => nomatch e
theorem jmp a b : Statement (.jmp a b) := fun _ _ e => nomatch e
theorem brc a b : Statement (.brc a b) := fun _ _ e => nomatch e
theorem loop a b : Statement (.loop a b) := fun _ _ e => nomatch e
theorem endl a b : Statement (.endl a b) := fun _ _ e => nomatch e
theorem wtick a b : Statement (.wtick a b) := fun _ _ e => nomatch e
theorem halt a b : Statement (.halt a b) := fun _ _ e => nomatch e
theorem trap a b : Statement (.trap a b) := fun _ _ e => nomatch e
theorem fence a b : Statement (.fence a b) := fun _ _ e => nomatch e
theorem sadd a b : Statement (.sadd a b) := fun _ _ e => nomatch e
theorem ssub a b : Statement (.ssub a b) := fun _ _ e => nomatch e
theorem smul a b : Statement (.smul a b) := fun _ _ e => nomatch e
theorem sand a b : Statement (.sand a b) := fun _ _ e => nomatch e
theorem sor a b : Statement (.sor a b) := fun _ _ e => nomatch e
theorem sxor a b : Statement (.sxor a b) := fun _ _ e => nomatch e
theorem sshl a b : Statement (.sshl a b) := fun _ _ e => nomatch e
theorem sshr a b : Statement (.sshr a b) := fun _ _ e => nomatch e
theorem sli a b : Statement (.sli a b) := fun _ _ e => nomatch e
theorem sld a b : Statement (.sld a b) := fun _ _ e => nomatch e
theorem sst a b : Statement (.sst a b) := fun _ _ e => nomatch e
theorem scmp a b : Statement (.scmp a b) := fun _ _ e => nomatch e
theorem take a b : Statement (.take a b) := fun _ _ e => nomatch e
theorem put a b : Statement (.put a b) := fun _ _ e => nomatch e
theorem peek a b : Statement (.peek a b) := fun _ _ e => nomatch e
theorem cset a b : Statement (.cset a b) := fun _ _ e => nomatch e
theorem cclr a b : Statement (.cclr a b) := fun _ _ e => nomatch e
theorem wopen a b : Statement (.wopen a b) := fun _ _ e => nomatch e
theorem wclose a b : Statement (.wclose a b) := fun _ _ e => nomatch e
theorem tload a b : Statement (.tload a b) := fun _ _ e => nomatch e
theorem tstore a b : Statement (.tstore a b) := fun _ _ e => nomatch e
theorem tscat a b : Statement (.tscat a b) := fun _ _ e => nomatch e
theorem tgath a b : Statement (.tgath a b) := fun _ _ e => nomatch e
theorem rput a b : Statement (.rput a b) := fun _ _ e => nomatch e
theorem radd a b : Statement (.radd a b) := fun _ _ e => nomatch e
theorem sread a b : Statement (.sread a b) := fun _ _ e => nomatch e
theorem swrite a b : Statement (.swrite a b) := fun _ _ e => nomatch e
theorem lcfg a b : Statement (.lcfg a b) := fun _ _ e => nomatch e
theorem lmac a b : Statement (.lmac a b) := fun _ _ e => nomatch e
theorem ldrain a b : Statement (.ldrain a b) := fun _ _ e => nomatch e
theorem ocfg a b : Statement (.ocfg a b) := fun _ _ e => nomatch e
theorem vld a b : Statement (.vld a b) := fun _ _ e => nomatch e
theorem vst a b : Statement (.vst a b) := fun _ _ e => nomatch e
theorem vadd a b : Statement (.vadd a b) := fun _ _ e => nomatch e
theorem vmul a b : Statement (.vmul a b) := fun _ _ e => nomatch e
theorem vfma a b : Statement (.vfma a b) := fun _ _ e => nomatch e
theorem vmax a b : Statement (.vmax a b) := fun _ _ e => nomatch e
theorem vmin a b : Statement (.vmin a b) := fun _ _ e => nomatch e
theorem vexp2 a b : Statement (.vexp2 a b) := fun _ _ e => nomatch e
theorem vrsq a b : Statement (.vrsq a b) := fun _ _ e => nomatch e
theorem vrcp a b : Statement (.vrcp a b) := fun _ _ e => nomatch e
theorem vcvt a b : Statement (.vcvt a b) := fun _ _ e => nomatch e
theorem vred a b : Statement (.vred a b) := fun _ _ e => nomatch e
theorem vstat a b : Statement (.vstat a b) := fun _ _ e => nomatch e
theorem vsel a b : Statement (.vsel a b) := fun _ _ e => nomatch e
theorem apage a b : Statement (.apage a b) := fun _ _ e => nomatch e
theorem afin a b : Statement (.afin a b) := fun _ _ e => nomatch e
theorem arev a b : Statement (.arev a b) := fun _ _ e => nomatch e
theorem route a b : Statement (.route a b) := fun _ _ e => nomatch e
theorem sample a b : Statement (.sample a b) := fun _ _ e => nomatch e
theorem accept a b : Statement (.accept a b) := fun _ _ e => nomatch e
theorem tagWaitResume a b : Statement (.tagWaitResume a b) := fun _ _ e => nomatch e
theorem queueEntryFree a b : Statement (.queueEntryFree a b) := fun _ _ e => nomatch e
theorem wtickWake a b : Statement (.wtickWake a b) := fun _ _ e => nomatch e
theorem fenceRelease a b : Statement (.fenceRelease a b) := fun _ _ e => nomatch e
theorem starve a b c : Statement (.starve a b c) := fun _ _ e => nomatch e
theorem lcfgApply a : Statement (.lcfgApply a) := fun _ _ e => nomatch e
theorem ocfgApply a : Statement (.ocfgApply a) := fun _ _ e => nomatch e
theorem lmacStart a : Statement (.lmacStart a) := fun _ _ e => nomatch e
theorem lmacEnd a : Statement (.lmacEnd a) := fun _ _ e => nomatch e
theorem ldrainStart a : Statement (.ldrainStart a) := fun _ _ e => nomatch e
theorem ldrainEnd a : Statement (.ldrainEnd a) := fun _ _ e => nomatch e
theorem engineClaimGrant a b : Statement (.engineClaimGrant a b) := fun _ _ e => nomatch e
theorem transferComplete a b : Statement (.transferComplete a b) := fun _ _ e => nomatch e
theorem engineFaultReport a : Statement (.engineFaultReport a) := fun _ _ e => nomatch e
theorem remoteAccessArrive a b c : Statement (.remoteAccessArrive a b c) := fun _ _ e => nomatch e
theorem gatherFlush a b : Statement (.gatherFlush a b) := fun _ _ e => nomatch e
theorem apageEngineStart a : Statement (.apageEngineStart a) := fun _ _ e => nomatch e
theorem apageEnd a b : Statement (.apageEnd a b) := fun _ _ e => nomatch e
theorem serviceRequestEnd a b : Statement (.serviceRequestEnd a b) := fun _ _ e => nomatch e
theorem slotEndCheck a b : Statement (.slotEndCheck a b) := fun _ _ e => nomatch e
theorem slipApply a : Statement (.slipApply a) := fun _ _ e => nomatch e
theorem admittingBoundary a : Statement (.admittingBoundary a) := fun _ _ e => nomatch e
theorem heartbeatTimeout a b : Statement (.heartbeatTimeout a b) := fun _ _ e => nomatch e
theorem gateStream a b : Statement (.gateStream a b) := fun _ _ e => nomatch e
theorem gateClaspDed a b : Statement (.gateClaspDed a b) := fun _ _ e => nomatch e
theorem gateTickPut a b : Statement (.gateTickPut a b) := fun _ _ e => nomatch e
theorem xdevEvent a b : Statement (.xdevEvent a b) := fun _ _ e => nomatch e
theorem slotOpen a b : Statement (.slotOpen a b) := fun _ _ e => nomatch e
theorem subslotOpen a b c : Statement (.subslotOpen a b c) := fun _ _ e => nomatch e
theorem trailRun a : Statement (.trailRun a) := fun _ _ e => nomatch e
theorem stopBoundary a : Statement (.stopBoundary a) := fun _ _ e => nomatch e
theorem takeover a : Statement (.takeover a) := fun _ _ e => nomatch e
theorem coreRetire a : Statement (.coreRetire a) := fun _ _ e => nomatch e
theorem kvPrepare a : Statement (.kvPrepare a) := fun _ _ e => nomatch e
theorem kvCommit a : Statement (.kvCommit a) := fun _ _ e => nomatch e
theorem kvImportCopyEnd a : Statement (.kvImportCopyEnd a) := fun _ _ e => nomatch e
theorem kvExportEnd a : Statement (.kvExportEnd a) := fun _ _ e => nomatch e
theorem step a : Statement (.step a) := fun _ _ e => nomatch e
theorem adapterStep a : Statement (.adapterStep a) := fun _ _ e => nomatch e
theorem seqOpen a : Statement (.seqOpen a) := fun _ _ e => nomatch e
theorem seqClose a : Statement (.seqClose a) := fun _ _ e => nomatch e
theorem kvImport a : Statement (.kvImport a) := fun _ _ e => nomatch e
theorem kvExport a : Statement (.kvExport a) := fun _ _ e => nomatch e
theorem objMap a : Statement (.objMap a) := fun _ _ e => nomatch e
theorem objMapShare a : Statement (.objMapShare a) := fun _ _ e => nomatch e
theorem objMapAdopt a : Statement (.objMapAdopt a) := fun _ _ e => nomatch e
theorem objPlace a : Statement (.objPlace a) := fun _ _ e => nomatch e
theorem objPlaceArrange a : Statement (.objPlaceArrange a) := fun _ _ e => nomatch e
theorem objUnmap a : Statement (.objUnmap a) := fun _ _ e => nomatch e
theorem migrationTileSwitch a : Statement (.migrationTileSwitch a) := fun _ _ e => nomatch e
theorem trailLoad a : Statement (.trailLoad a) := fun _ _ e => nomatch e
theorem trailStart a : Statement (.trailStart a) := fun _ _ e => nomatch e
theorem trailStop a : Statement (.trailStop a) := fun _ _ e => nomatch e
theorem quotaSet a : Statement (.quotaSet a) := fun _ _ e => nomatch e
theorem snapshot a : Statement (.snapshot a) := fun _ _ e => nomatch e
theorem snapshotCapture a : Statement (.snapshotCapture a) := fun _ _ e => nomatch e
theorem snapshotCopyEnd a : Statement (.snapshotCopyEnd a) := fun _ _ e => nomatch e
theorem migrate a : Statement (.migrate a) := fun _ _ e => nomatch e
theorem migrateBoundary a : Statement (.migrateBoundary a) := fun _ _ e => nomatch e
theorem migrateSequenceLanded a b : Statement (.migrateSequenceLanded a b) := fun _ _ e => nomatch e
theorem fenceDescriptor a : Statement (.fenceDescriptor a) := fun _ _ e => nomatch e
theorem nopDescriptor a : Statement (.nopDescriptor a) := fun _ _ e => nomatch e
theorem profileSet a : Statement (.profileSet a) := fun _ _ e => nomatch e
theorem profileChangeEnd : Statement .profileChangeEnd := fun _ _ e => nomatch e
theorem watchEnter a : Statement (.watchEnter a) := fun _ _ e => nomatch e
theorem watchExit a : Statement (.watchExit a) := fun _ _ e => nomatch e
theorem sqTail a b c : Statement (.sqTail a b c) := fun _ _ e => nomatch e
theorem cqHead a b : Statement (.cqHead a b) := fun _ _ e => nomatch e
theorem eqHead a b : Statement (.eqHead a b) := fun _ _ e => nomatch e
theorem ringHeaderDoorbell a : Statement (.ringHeaderDoorbell a) := fun _ _ e => nomatch e
theorem descriptorFetch a : Statement (.descriptorFetch a) := fun _ _ e => nomatch e
theorem cqSpaceResume a : Statement (.cqSpaceResume a) := fun _ _ e => nomatch e
theorem modTicksExpiry a : Statement (.modTicksExpiry a) := fun _ _ e => nomatch e
theorem create a b : Statement (.create a b) := fun _ _ e => nomatch e
theorem destroy a : Statement (.destroy a) := fun _ _ e => nomatch e
theorem rebase a b : Statement (.rebase a b) := fun _ _ e => nomatch e
theorem rebaseApply a : Statement (.rebaseApply a) := fun _ _ e => nomatch e
theorem adminContextCreate a : Statement (.adminContextCreate a) := fun _ _ e => nomatch e
theorem adminContextDestroy : Statement .adminContextDestroy := fun _ _ e => nomatch e
theorem kill a : Statement (.kill a) := fun _ _ e => nomatch e
theorem keyErasure a : Statement (.keyErasure a) := fun _ _ e => nomatch e
theorem contextRelease a : Statement (.contextRelease a) := fun _ _ e => nomatch e
theorem clearEnd a : Statement (.clearEnd a) := fun _ _ e => nomatch e
theorem prtIsoBindWrite a b : Statement (.prtIsoBindWrite a b) := fun _ _ e => nomatch e
theorem bindEffect a : Statement (.bindEffect a) := fun _ _ e => nomatch e
theorem prtIsoGrpWrite a b : Statement (.prtIsoGrpWrite a b) := fun _ _ e => nomatch e
theorem prtTbbWrite a b c d : Statement (.prtTbbWrite a b c d) := fun _ _ e => nomatch e
theorem prtKvBktWrite a b c : Statement (.prtKvBktWrite a b c) := fun _ _ e => nomatch e
theorem prtXlCfgWrite a b : Statement (.prtXlCfgWrite a b) := fun _ _ e => nomatch e
theorem prtXlPteRead a : Statement (.prtXlPteRead a) := fun _ _ e => nomatch e
theorem ntuTimeLoRead : Statement .ntuTimeLoRead := fun _ _ e => nomatch e
theorem marginRst : Statement .marginRst := fun _ _ e => nomatch e
theorem ntuLeadWrite a : Statement (.ntuLeadWrite a) := fun _ _ e => nomatch e
theorem ntuGuardWrite a : Statement (.ntuGuardWrite a) := fun _ _ e => nomatch e
theorem trkRegWrite a b c : Statement (.trkRegWrite a b c) := fun _ _ e => nomatch e
theorem rtfSlotWrite a b c : Statement (.rtfSlotWrite a b c) := fun _ _ e => nomatch e
theorem prtClpBudWrite a b c : Statement (.prtClpBudWrite a b c) := fun _ _ e => nomatch e
theorem fltSevCfgWrite a : Statement (.fltSevCfgWrite a) := fun _ _ e => nomatch e
theorem zxlSpanWrite a : Statement (.zxlSpanWrite a) := fun _ _ e => nomatch e
theorem regWrite a b c d e : Statement (.regWrite a b c d e) := fun _ _ e => nomatch e
theorem ntuStep : Statement .ntuStep := fun _ _ e => nomatch e
theorem pllLock : Statement .pllLock := fun _ _ e => nomatch e
theorem refLost : Statement .refLost := fun _ _ e => nomatch e
theorem refReturn : Statement .refReturn := fun _ _ e => nomatch e
theorem ppsInEdge a : Statement (.ppsInEdge a) := fun _ _ e => nomatch e
theorem ppsMissing : Statement .ppsMissing := fun _ _ e => nomatch e
theorem noValidMeasurement : Statement .noValidMeasurement := fun _ _ e => nomatch e
theorem ptpAnnounce a b c : Statement (.ptpAnnounce a b c) := fun _ _ e => nomatch e
theorem ptpSync a b c d e f : Statement (.ptpSync a b c d e f) := fun _ _ e => nomatch e
theorem ptpFollowUp a b c d : Statement (.ptpFollowUp a b c d) := fun _ _ e => nomatch e
theorem ptpDelayResp a b c d e : Statement (.ptpDelayResp a b c d e) := fun _ _ e => nomatch e
theorem teUpdate : Statement .teUpdate := fun _ _ e => nomatch e
theorem timeFrameSend a : Statement (.timeFrameSend a) := fun _ _ e => nomatch e
theorem time a b : Statement (.time a b) := fun w f' e => by
  cases e; simp only [Instr.wf, Bool.and_eq_true] at w; simp_all [FrameIn.wf]
theorem idle a : Statement (.idle a) := fun w f' e => by
  cases e; simpa [Instr.wf, FrameIn.wf] using w
theorem credit a : Statement (.credit a) := fun w f' e => by
  cases e; simpa [Instr.wf, FrameIn.wf] using w
theorem ack a : Statement (.ack a) := fun w f' e => by
  cases e; simpa [Instr.wf, FrameIn.wf] using w
theorem nak a : Statement (.nak a) := fun w f' e => by
  cases e; simpa [Instr.wf, FrameIn.wf] using w
theorem write a : Statement (.write a) := fun w f' e => by
  cases e; simpa [Instr.wf, FrameIn.wf] using w
theorem addF a : Statement (.addF a) := fun w f' e => by
  cases e; simpa [Instr.wf, FrameIn.wf] using w
theorem addI a : Statement (.addI a) := fun w f' e => by
  cases e; simpa [Instr.wf, FrameIn.wf] using w
theorem resp a : Statement (.resp a) := fun w f' e => by
  cases e; simpa [Instr.wf, FrameIn.wf] using w
theorem tile a : Statement (.tile a) := fun w f' e => by
  cases e; simpa [Instr.wf, FrameIn.wf] using w
theorem ctrl a b : Statement (.ctrl a b) := fun w f' e => by
  cases e; simpa [Instr.wf, FrameIn.wf] using w
theorem fault a b : Statement (.fault a b) := fun w f' e => by
  cases e; simpa [Instr.wf, FrameIn.wf] using w
theorem train a b : Statement (.train a b) := fun w f' e => by
  cases e; simpa [Instr.wf, FrameIn.wf] using w
theorem frameReservedType a : Statement (.frameReservedType a) := fun w f' e => by
  cases e; simpa [Instr.wf, FrameIn.wf] using w
theorem linkActive a : Statement (.linkActive a) := fun _ _ e => nomatch e
theorem retrainTimeout a : Statement (.retrainTimeout a) := fun _ _ e => nomatch e
theorem laneErrorRate a b : Statement (.laneErrorRate a b) := fun _ _ e => nomatch e
theorem laneRetire a b : Statement (.laneRetire a b) := fun _ _ e => nomatch e
theorem linkEnable a b : Statement (.linkEnable a b) := fun _ _ e => nomatch e
theorem dynamicAddressAssignment a : Statement (.dynamicAddressAssignment a) := fun _ _ e => nomatch e
theorem rdmaWrite a b c d : Statement (.rdmaWrite a b c d) := fun _ _ e => nomatch e
theorem rdmaWriteWithImmediate a b c : Statement (.rdmaWriteWithImmediate a b c) := fun w f' e => by
  cases e; simpa [Instr.wf, FrameIn.wf] using w
theorem serviceWindow a : Statement (.serviceWindow a) := fun _ _ e => nomatch e
theorem trunkRead a b c d : Statement (.trunkRead a b c d) := fun _ _ e => nomatch e
theorem trunkWrite a b c : Statement (.trunkWrite a b c) := fun _ _ e => nomatch e
theorem rowRemapEnd a : Statement (.rowRemapEnd a) := fun _ _ e => nomatch e
theorem repairQueueRewrite a : Statement (.repairQueueRewrite a) := fun _ _ e => nomatch e
theorem patrolScrubPassEnd a : Statement (.patrolScrubPassEnd a) := fun _ _ e => nomatch e
theorem refreshDue a b c d : Statement (.refreshDue a b c d) := fun _ _ e => nomatch e
theorem temperatureReadout a b : Statement (.temperatureReadout a b) := fun _ _ e => nomatch e
theorem trkRetire a b : Statement (.trkRetire a b) := fun _ _ e => nomatch e
theorem pcRetireEnd a : Statement (.pcRetireEnd a) := fun _ _ e => nomatch e
theorem maintEnter a : Statement (.maintEnter a) := fun _ _ e => nomatch e
theorem maintExit a : Statement (.maintExit a) := fun _ _ e => nomatch e
theorem maintExitEnd a : Statement (.maintExitEnd a) := fun _ _ e => nomatch e
theorem bistStart a b : Statement (.bistStart a b) := fun _ _ e => nomatch e
theorem bistStop a b : Statement (.bistStop a b) := fun _ _ e => nomatch e
theorem bistRunEnd a b c d e f g h : Statement (.bistRunEnd a b c d e f g h) := fun _ _ e => nomatch e
theorem claspRecord a b c : Statement (.claspRecord a b c) := fun _ _ e => nomatch e
theorem claspDrvGo a : Statement (.claspDrvGo a) := fun _ _ e => nomatch e
theorem claspUnitOpEnd a b : Statement (.claspUnitOpEnd a b) := fun _ _ e => nomatch e
theorem claspBudgetResume a : Statement (.claspBudgetResume a) := fun _ _ e => nomatch e
theorem dedBurstEnd a : Statement (.dedBurstEnd a) := fun _ _ e => nomatch e
theorem windowDeliveryEnd a b : Statement (.windowDeliveryEnd a b) := fun _ _ e => nomatch e
theorem stagingEnd a b : Statement (.stagingEnd a b) := fun _ _ e => nomatch e
theorem rootReadWindow a : Statement (.rootReadWindow a) := fun _ _ e => nomatch e
theorem rootTileRead a b c d e : Statement (.rootTileRead a b c d e) := fun _ _ e => nomatch e
theorem relocationEnd a b : Statement (.relocationEnd a b) := fun _ _ e => nomatch e
theorem rootTileWrite a b c : Statement (.rootTileWrite a b c) := fun _ _ e => nomatch e
theorem rootBufferProgram a : Statement (.rootBufferProgram a) := fun _ _ e => nomatch e
theorem mount a : Statement (.mount a) := fun _ _ e => nomatch e
theorem mountEnd a b c d : Statement (.mountEnd a b c d) := fun _ _ e => nomatch e
theorem unmount a : Statement (.unmount a) := fun _ _ e => nomatch e
theorem unmountEnd a : Statement (.unmountEnd a) := fun _ _ e => nomatch e
theorem rootDieRetire a b : Statement (.rootDieRetire a b) := fun _ _ e => nomatch e
theorem rootChannelRetire a b : Statement (.rootChannelRetire a b) := fun _ _ e => nomatch e
theorem rebuildEnd a : Statement (.rebuildEnd a) := fun _ _ e => nomatch e
theorem canopyScrubPassEnd a : Statement (.canopyScrubPassEnd a) := fun _ _ e => nomatch e
theorem goldenCopyRestore a : Statement (.goldenCopyRestore a) := fun _ _ e => nomatch e
theorem leakyBucketDecay a : Statement (.leakyBucketDecay a) := fun _ _ e => nomatch e
theorem faultNPulseEnd : Statement .faultNPulseEnd := fun _ _ e => nomatch e
theorem fltInjGo : Statement .fltInjGo := fun _ _ e => nomatch e
theorem debugRequest a : Statement (.debugRequest a) := fun _ _ e => nomatch e
theorem debugOpen : Statement .debugOpen := fun _ _ e => nomatch e
theorem spdmGetMeasurements a : Statement (.spdmGetMeasurements a) := fun _ _ e => nomatch e
theorem pldmFirmwareUpdate a : Statement (.pldmFirmwareUpdate a) := fun _ _ e => nomatch e
theorem vin48Good a : Statement (.vin48Good a) := fun _ _ e => nomatch e
theorem startStageEnd a b c : Statement (.startStageEnd a b c) := fun _ _ e => nomatch e
theorem profSample a : Statement (.profSample a) := fun _ _ e => nomatch e
theorem perstNDeassert a b : Statement (.perstNDeassert a b) := fun _ _ e => nomatch e
theorem warmReset a : Statement (.warmReset a) := fun _ _ e => nomatch e
theorem bufferedStoreTimeout : Statement .bufferedStoreTimeout := fun _ _ e => nomatch e
theorem flrVf a : Statement (.flrVf a) := fun _ _ e => nomatch e
theorem flrPf0 : Statement .flrPf0 := fun _ _ e => nomatch e
theorem vin48Low a : Statement (.vin48Low a) := fun _ _ e => nomatch e
theorem supplySag : Statement .supplySag := fun _ _ e => nomatch e
theorem sagSaveEnd a b : Statement (.sagSaveEnd a b) := fun _ _ e => nomatch e
theorem vholdOkRise a : Statement (.vholdOkRise a) := fun _ _ e => nomatch e
theorem vholdOkFall a : Statement (.vholdOkFall a) := fun _ _ e => nomatch e
theorem throttleRise a b : Statement (.throttleRise a b) := fun _ _ e => nomatch e
theorem throttleFall a b : Statement (.throttleFall a b) := fun _ _ e => nomatch e
theorem thermalShutdown a b : Statement (.thermalShutdown a b) := fun _ _ e => nomatch e
theorem peerDetected a : Statement (.peerDetected a) := fun _ _ e => nomatch e
theorem announceTimeout a : Statement (.announceTimeout a) := fun _ _ e => nomatch e
theorem migrationTick a : Statement (.migrationTick a) := fun _ _ e => nomatch e
theorem objMapFillEnd a : Statement (.objMapFillEnd a) := fun _ _ e => nomatch e
theorem arrangeEnd a : Statement (.arrangeEnd a) := fun _ _ e => nomatch e
theorem canopyScrubRead a b c : Statement (.canopyScrubRead a b c) := fun _ _ e => nomatch e
theorem rootMapReloadEnd a : Statement (.rootMapReloadEnd a) := fun _ _ e => nomatch e
theorem lifecycleChange a : Statement (.lifecycleChange a) := fun _ _ e => nomatch e
theorem roceAcknowledgement a b : Statement (.roceAcknowledgement a b) := fun _ _ e => nomatch e
theorem ethPortLinkChange a b : Statement (.ethPortLinkChange a b) := fun _ _ e => nomatch e
theorem ucieFlitCrcError a b c : Statement (.ucieFlitCrcError a b c) := fun _ _ e => nomatch e

end Laws.PayloadLimit

end Sys2Proof
end

