-- ==== Sys2Proof/Tests/Slice0.lean ====
section
/-! SUPPORT. Tests: ill-formed terms that WellFormed refuses, a witness for the hypotheses of each statement, clause by
clause, and steps of single commands with results worked out from the specification. -/

namespace Sys2Proof.Tests

open Sys2Proof Sys2Proof.Machine

-- One theorem at a time: each thread takes a stack of its own.
set_option Elab.async false

/-! ### Ill-formed commands -/

/-- A frame as it arrives on link `l`, whole and in sequence. -/
def frame (l : Fin 8) (payload : List Byte) : FrameIn :=
  { link := l, vc := 0, dst := 0, src := 1, epoch := 0, hops := 0, seq := 0, arg := 0, tag := 0, last := true, land := false, payload := payload, crcOk := true }

theorem test_wf_offset : Instr.wf (.regWrite .pf0 0 (2 ^ 26) 8 0) = false := by decide
theorem test_wf_size : Instr.wf (.regWrite .pf0 0 0 0 0) = false := by decide
theorem test_wf_host_address : Instr.wf (.sqTail none 1 [(2 ^ 64, 0)]) = false := by decide
theorem test_wf_host_create : Instr.wf (.create 0 [(2 ^ 64, 0)]) = false ∧ Instr.wf (.rebase 0 [(2 ^ 64, 0)]) = false
    ∧ Instr.wf (.adminContextCreate [(2 ^ 64, 0)]) = false := by decide
/-- What a PTP message says of itself. -/
def hdr (domain transport : Nat) : PtpHdr := ⟨BitVec.ofNat 8 domain, BitVec.ofNat 2 transport, 0⟩

theorem test_wf_time : Instr.wf (.ptpSync 0 (hdr 0 0) true (2 ^ 82) 0 0) = false ∧ Instr.wf (.ptpFollowUp 0 (hdr 0 0) 0 (2 ^ 82)) = false
    ∧ Instr.wf (.ptpDelayResp 0 (hdr 0 0) 0 (-(2 ^ 82)) 0) = false := by decide
theorem test_wf_payload : Instr.wf (.idle (frame 0 (List.replicate 513 0))) = false := by decide +kernel
theorem test_wf_rdma : Instr.wf (.rdmaWrite 0 0 (2 ^ 64) [0]) = false := by decide
theorem test_wf_sector : Instr.wf (.trunkRead 0 31 true []) = false ∧ Instr.wf (.trunkWrite 0 31 0) = false := by decide
theorem test_wf_seen (s : Seen) : Instr.wf (.trunkRead 0 0 true [s, s, s, s, s]) = false := by simp [Instr.wf]
theorem test_wf_tile : Instr.wf (.rootTileWrite 0 0 [0]) = false := by decide

/-! ### Thread slots -/

/-- An instruction word: opcode `op`, and fields by their lowest bit. -/
def word (op : Nat) (fs : List (Nat × Nat) := []) : Word := BitVec.ofNat 64 (op * 2 ^ 56 + (fs.map fun e => e.2 * 2 ^ e.1).sum)

/-- Thread slot (511, 7) runs with `w` at its program counter. -/
def on (w : Word) (x : Thread := {}) (k : Core := {}) : State :=
  State.reset.setCore 511 { k with threads := [(7, { x with state := .running, ibound := x.pc + 1 })], istore := [(x.ibase + x.pc, w)] }

theorem test_scalarResults : ∀ op ∈ [0x10, 0x11, 0x12, 0x13, 0x14, 0x15, 0x16, 0x17, 0x18, 0x1B],
    (on (word op)).Issues 511 7 (word op) ∧ wOp (word op) = op := by decide +kernel

/-- SCMP of equal and of different operands, as each relation asks. -/
theorem test_scalarResults_relations : ∀ m ∈ [0, 1, 2, 3, 4, 5], ∀ r ∈ [[], [(1, word 0 [(0, 1)])]],
    (on (word 0x1B [(32, m), (42, 1)]) { s := r }).Issues 511 7 (word 0x1B [(32, m), (42, 1)]) := by
  decide +kernel

theorem test_loadsAndStores :
    (on (word 0x19 [(32, 1), (0, 8)])).Issues 511 7 (word 0x19 [(32, 1), (0, 8)])
    ∧ (∀ op ∈ [0x19, 0x1A], let s := on (word op) { cbase := 2097144, cbound := 8 }
        s.Issues 511 7 (word op) ∧ wOp (word op) = op ∧ (word op).getLsbD 32 = false ∧ (s.thr 511 7).cbound = 8 ∧ s.NoHeld 511
          ∧ (s.thr 511 7).cbase % 8 = 0 ∧ s.cMark 511 ((s.thr 511 7).cbase / 8) = .clean)
    ∧ ((on 0).setFld PRT_ISO_BIND.VALID 511 1).fld PRT_ISO_BIND.VALID 511 = 1 := by decide +kernel

theorem test_controlFlow :
    (∀ op ∈ [0x00, 0x01, 0x02, 0x06, 0x07], (on (word op)).Issues 511 7 (word op) ∧ wOp (word op) = op)
    ∧ (∀ m ∈ [0, 1, 2, 3, 4, 5], (on (word 0x02 [(44, m)])).Issues 511 7 (word 0x02 [(44, m)])) := by decide +kernel

theorem test_controlFlow_loops :
    (∀ n ∈ [0, 1, 2 ^ 24 - 1], (on (word 0x03 [(46, 1), (14, n)])).Issues 511 7 (word 0x03 [(46, 1), (14, n)])
        ∧ wbits (word 0x03 [(46, 1), (14, n)]) 37 14 = n)
    ∧ (∀ n ∈ [1, 2, 3], let s := on (word 0x04) { pc := 5, loops := [⟨n, 5, 1⟩] }
        s.Issues 511 7 (word 0x04) ∧ (s.thr 511 7).loops = [⟨n, 5, (s.thr 511 7).pc - 4⟩]) := by decide +kernel

theorem test_waitInstructions :
    (∀ r ∈ [[], [(0, word 0 [(0, 1)])]], (on (word 0x05) { s := r }).Issues 511 7 (word 0x05) ∧ (word 0x05).getLsbD 46 = false)
    ∧ (on (word 0x08)).Issues 511 7 (word 0x08)
    ∧ (let s := on (word 0x08) {} { ops := [{ id := 0, t := 7, word := word 0x30 }], nextOp := 1 }
       s.Issues 511 7 (word 0x08) ∧ ((s.core 511).allOps.any fun o => o.t = 7 ∧ o.id < 1 ∧ 15 &&& fenceClass (wOp o.word) ≠ 0) = true) := by
  decide +kernel

/-- Thread slot (511, 7) waits, BLOCKED or in WAIT_TICK. -/
def waits (st : TState) (m : Wait) (k : Core := {}) : State := (on 0 {} k).modThr 511 7 fun x => { x with state := st, wait := m }

theorem test_waitInstructions_ends :
    (let s := waits .waitTick (.tick 0); (s.thr 511 7).state = .waitTick ∧ (s.thr 511 7).wait = .tick s.ntu.tick ∧ s.turn (s.coreInst 511) 7 0 = true)
    ∧ (let s := waits .blocked (.fence 15 0); (s.thr 511 7).state = .blocked ∧ (s.thr 511 7).wait = .fence 15 0 ∧ (s.core 511).allOps = []) := by
  decide +kernel

/-- Thread slot (511, 7) with cell 2046 of its core. -/
def onCell (w : Word) (e : Cell) (x : Thread := {}) : State := on w x { cells := [(2046, e)] }

theorem test_cellInstructions_full :
    (let w := word 0x20 [(23, 2046)]; let s := onCell w { base := 64, size := 1024, full := true }
     s.Issues 511 7 w ∧ wbits w 33 23 = 2046 ∧ (s.cell 511 2046).size ≠ 0 ∧ (s.cell 511 2046).full = true ∧ (s.cell 511 2046).claimed = false)
    ∧ (let w := word 0x21 [(23, 2046)]; let s := onCell w { size := 1024, full := true }
       s.Issues 511 7 w ∧ (s.cell 511 2046).full = true) := by decide +kernel

theorem test_cellInstructions_empty :
    (∀ op ∈ [0x20, 0x21, 0x22, 0x23, 0x24], let w := word op [(23, 2046)]; let s := onCell w { base := 64, size := 1024 }
       s.Issues 511 7 w ∧ wOp w = op ∧ wbits w 36 34 = 0 ∧ (s.cell 511 2046).full = false ∧ (s.cell 511 2046).claimed = false)
    ∧ (∀ n ∈ [1024, 65536], let w := word 0x24 [(23, 2046), (34, 1), (42, 1)]; let s := onCell w {} { s := [(1, BitVec.ofNat 64 n)], cbound := n }
       s.Issues 511 7 w ∧ wbits w 36 34 = 1 ∧ (s.thr 511 7).s.get 0 (wbits w 46 42) = BitVec.ofNat 64 n ∧ n ≤ (s.thr 511 7).cbound) := by decide +kernel

theorem test_cellInstructions_waits :
    (let s := waits .blocked (.take 2046 31) { cells := [(2046, { size := 64, full := true })] }
     (s.thr 511 7).state = .blocked ∧ (s.thr 511 7).wait = .take 2046 31 ∧ (s.cell 511 2046).size ≠ 0 ∧ (s.cell 511 2046).full = true
       ∧ (s.cell 511 2046).claimed = false)
    ∧ (let s := waits .blocked (.put 2046)
       (s.thr 511 7).state = .blocked ∧ (s.thr 511 7).wait = .put 2046 ∧ (s.cell 511 2046).full = false ∧ (s.cell 511 2046).claimed = false) := by
  decide +kernel

theorem test_windowInstructions :
    (let w := word 0x25 [(42, 1)]; let s := on w { s := [(1, 64)], cbound := 64 }
     s.Issues 511 7 w ∧ wOp w = 0x25 ∧ ((s.thr 511 7).s.get 0 (wbits w 46 42)).toNat = 64 ∧ (s.thr 511 7).cbound = 64)
    ∧ (on (word 0x26)).Issues 511 7 (word 0x26) ∧ wOp (word 0x26) = 0x26 := by decide +kernel

theorem test_vectorArithmetic :
    (∀ op ∈ [0x52, 0x53, 0x54, 0x55, 0x56], ∀ i ∈ [0, 1], (on (word op [(35, i)])).Issues 511 7 (word op [(35, i)])
      ∧ wOp (word op [(35, i)]) = op ∧ (word op [(35, i)]).getLsbD 35 = decide (i = 1))
    ∧ (∀ op ∈ [0x57, 0x58, 0x59, 0x5A, 0x5D], (on (word op)).Issues 511 7 (word op) ∧ wOp (word op) = op)
    ∧ (∀ k ∈ [1, 2], (on (word 0x5A [(32, k)])).Issues 511 7 (word 0x5A [(32, k)]) ∧ wbits (word 0x5A [(32, k)]) 34 32 = k) := by
  decide +kernel

theorem test_vectorReductions : ∀ i ∈ [0, 1],
    (∀ k ∈ [0, 1, 2], let w := word 0x5B [(35, i), (32, k)]
      (on w).Issues 511 7 w ∧ wOp w = 0x5B ∧ wbits w 34 32 = k ∧ w.getLsbD 35 = decide (i = 1))
    ∧ (on (word 0x5C [(35, i)])).Issues 511 7 (word 0x5C [(35, i)]) ∧ wOp (word 0x5C [(35, i)]) = 0x5C := by decide +kernel

theorem test_vectorMoves : ∀ op ∈ [0x38, 0x39, 0x50, 0x51], let w := word op
    let s := on w { cbound := 256 }
    s.Issues 511 7 w ∧ wOp w = op ∧ (s.thr 511 7).cbase % 8 = 0 ∧ s.NoHeld 511 ∧ (s.core 511).cmarks = [] ∧ neverRuns w = false
      ∧ (s.thr 511 7).cbound = 256 ∧ wbits w 37 35 = 0 := by decide +kernel

theorem test_vectorMoves_marks : ∀ k, (on (word 0x50)).cMark 511 k = .clean := fun _ => rfl

/-- A Q-class word that its own checks accept: a length of 64 bytes where one is needed. -/
def qWord (op : Nat) : Word := word op (if op = 0x30 ∨ op = 0x31 ∨ op = 0x34 ∨ op = 0x35 then [(0, 64)] else if op = 0x40 then [(28, 3), (24, 3)] else [])

theorem test_queueIssue :
    (∀ op ∈ [0x30, 0x31, 0x32, 0x33, 0x34, 0x35, 0x40, 0x41, 0x42, 0x60, 0x68, 0x69, 0x6A, 0x70, 0x71, 0x72],
      let w := qWord op; let s := on w { cbound := 2097152 }
      s.Issues 511 7 w ∧ wOp w = op ∧ (s.core 511).queueFull 7 op = false ∧ (s.core 511).qCheck (s.thr 511 7) w = none)
    ∧ (let s := on (qWord 0x40) {} { lq := (List.range 8).map fun i => { id := i, t := 7, word := qWord 0x40 } }
       s.Issues 511 7 (qWord 0x40) ∧ (s.core 511).queueFull 7 0x40 = true)
    ∧ (let s := waits .blocked .queue
       (s.thr 511 7).state = .blocked ∧ (s.thr 511 7).wait = .queue ∧ (s.core 511).queueFull 7 (wOp (qWord 0x40)) = false
         ∧ (s.core 511).qCheck (s.thr 511 7) (qWord 0x40) = none) := by
  decide +kernel

theorem test_preciseExceptions :
    (let s := (on 0).modThr 511 7 fun x => { x with ibound := x.pc }
     (s.thr 511 7).state = .running ∧ s.power.warm = none ∧ s.NoInjection ∧ (s.thr 511 7).ibound ≤ (s.thr 511 7).pc)
    ∧ (let s := on 0 {} { imarks := [(0, .ue)] }
       (s.thr 511 7).pc < (s.thr 511 7).ibound ∧ (s.core 511).imarks.get .clean ((s.thr 511 7).ibase + (s.thr 511 7).pc) = .ue)
    ∧ (let s := on (word 0xFF); (s.core 511).imarks = [] ∧ (s.thr 511 7).pc < (s.thr 511 7).ibound ∧ wOp (word 0xFF) ∉ opcodes)
    ∧ (let w := word 0x00 [(0, 1)]; wOp w = 0x00 ∧ (wordOk w && (on w).wtickOk 511 w) = false)
    ∧ ((on (word 0x07 [(0, 65535)])).Issues 511 7 (word 0x07 [(0, 65535)]))
    ∧ (∀ op ∈ [0x19, 0x1A], ∀ n ∈ [0, 4], let w := word op [(0, n)]; let s := on w { cbound := 7 }
        s.Issues 511 7 w ∧ wOp w = op ∧ w.getLsbD 32 = false ∧ ((w.setWidth 32).signExtend 64 : Word).toNat = n ∧ (s.thr 511 7).cbound < 8)
    ∧ (let w := word 0x10 [(55, 1)]; let s := on w
       (s.thr 511 7).pc < (s.thr 511 7).ibound ∧ wOp w ∈ opcodes ∧ (wordOk w && s.wtickOk 511 w) = true ∧ isVector 0x10 = false
         ∧ ((s.thr 511 7).pred w).toNat % 2 = 0) := by decide +kernel

theorem test_preciseExceptions_op : ThreadOp 511 7 (.trap 511 7) 0x07 ∧ ThreadOp 511 7 (.sst 511 7) 0x1A ∧ ThreadOp 511 7 (.sld 511 7) 0x19
    ∧ ThreadOp 511 7 (.nop 511 7) 0x00 ∧ ThreadOp 511 7 (.sadd 511 7) 0x10 := by simp [ThreadOp]

theorem test_engineReports :
    (let s := on 0 {} { faults := [{ t := 7, cause := 5, addr := 0, fpc := 0 }] }
     (s.core 511).faults = [{ t := 7, cause := 5, addr := 0, fpc := 0 }] ∧ (s.thr 511 7).state = .running)
    ∧ (∀ m ∈ [Wait.take 2046 31, .put 2046],
       let s := { waits .blocked m with ntu := { elapsed := (State.reset.fld PRT_CANOPY_CFG.CANOPY_TAG_TIMEOUT 15) + 1 } }
       (s.thr 511 7).state = .blocked ∧ (s.thr 511 7).wait = m
         ∧ (s.thr 511 7).since + s.fld PRT_CANOPY_CFG.CANOPY_TAG_TIMEOUT (511 / 32) + 1 ≤ s.ntu.elapsed) := by decide +kernel

theorem test_latticeConfiguration : ∀ op ∈ [0x40, 0x60], let w := qWord op
    let o : Op := { word := w, cbound := 64 }; let s := on 0 {} { lq := [o] }
    (s.core 511).lq = o :: [] ∧ wOp w = op ∧ s.NoInjection ∧ s.NoHeld 511 := by decide +kernel

/-- An LMAC of one row and one group of 32 lanes, waiting for the array or on it. -/
def lmac (w : Word) (running : Bool) (ws : List (Nat × BitVec 32 × Bool × Bool)) : State :=
  on 0 {} { arr := some { op := { word := w, cbound := 2097152 }, cfg := {}, running := running, writes := ws }, cells := [(0, { size := 65536, full := true })] }

theorem test_latticeMultiply :
    (let s := lmac (word 0x41) false []
     wOp (word 0x41) = 0x41 ∧ s.NoInjection ∧ (s.core 511).drn = none ∧ s.NoHeld 511 ∧ wbits (word 0x41) 33 33 = 0 ∧ wbits (word 0x41) 35 35 = 0
       ∧ chunkLen 3 0 0 1 ≤ (s.cell 511 0).size ∧ lmacBytes {} (word 0x41) ≤ 2097152 ∧ (s.core 511).cmarks = [] ∧ (s.core 511).accMarks = [])
    ∧ (∀ tf ∈ [0, 1], let w := word 0x41 [(35, tf)]; let s := lmac w true [(8191, 1, false, false), (0, 2, false, false)]
       wOp w = 0x41 ∧ wbits w 35 35 = tf ∧ (s.core 511).lq = [] ∧ [8191, 0].Nodup ∧ s.NoInjection ∧ s.NoClear 511) := by decide +kernel

/-- An LDRAIN of one row at the drain unit. -/
def ldrain (w : Word) (running valid : Bool) (outs : List (Nat × List Byte)) : State :=
  on 0 {} { drn := some { op := { word := w, cbound := 2097152 }, cfg := {}, running := running, cfgRec := ({} : OSlot).cfgRec, cfgValid := valid, outs := outs } }

theorem test_latticeDrain :
    (∀ v ∈ [true, false], let w := word 0x42; let s := ldrain w false v []
      wOp w = 0x42 ∧ wbits w 35 35 = 0 ∧ s.NoInjection ∧ s.NoHeld 511 ∧ (s.core 511).arr = none
        ∧ ((s.core 511).drn.map fun r => (r.running, r.cfgValid, (drainRefuse s 511 r.op r).isNone)) = some (false, v, true))
    ∧ (∀ pf ∈ [0, 1], let w := word 0x42 [(35, pf)]; let s := ldrain w true true [(2097088, List.replicate 64 1)]
      wOp w = 0x42 ∧ wbits w 35 35 = pf ∧ (s.core 511).lq = [] ∧ s.NoHeld 511 ∧ s.NoInjection ∧ s.NoClear 511
        ∧ ((s.core 511).drn.map (·.outs)) = some [(2097088, List.replicate 64 1)] ∧ 2097088 % 64 = 0) := by decide +kernel

theorem test_latticeDrain_marks : ∀ k, ((ldrain (word 0x42) false true []).core 511).accMarks.get .clean k = .clean := fun _ => rfl

theorem test_claimsAndGatherBuffers :
    (∀ tf ∈ [true, false], let o : Op := { id := 3, word := if tf then word 0x31 [(0, 64), (30, 1), (31, 2046)] else word 0x30 [(0, 64), (29, 1), (31, 2046)] }
      let s := on 0 {} { ops := [o], cells := [(2046, { size := 64, full := tf })] }
      (s.core 511).findOp 3 = some o ∧ (s.core 511).lq.any (·.id = 3) = false ∧ o.flag = some tf ∧ o.started = false ∧ (s.core 511).lq = [] ∧ s.inTurn 511 o = true ∧ wCell o.word = 2046
        ∧ (s.cell 511 2046).claimed = false ∧ (s.cell 511 2046).full = tf ∧ (s.cell 511 2046).size ≠ 0)
    ∧ (let s := on 0 {} { gbufs := [(2, { held := true, block := 0, bytes := [(0, 1), (0, 2)] })] }
       ((s.core 511).gbufs.get {} 2).held = true ∧ s.NoInjection ∧ (s.core 511).cmarks = []) := by decide +kernel

/-! ### Transfers and services -/

/-- Core 0 holds a TLOAD of 64 bytes of page 1 of context 77 into cell 2046, claimed and started. -/
def tload : State :=
  ((State.reset.setCore 0 { ops := [{ id := 5, word := word 0x30 [(0, 64), (29, 1), (31, 2046)], a := 65536#64, started := true, base := 64, size := 64, ctx := 77 }]
                            cells := [(2046, { base := 64, size := 64, claimed := true })] }).setPte 77 1 { frame := 1, present := true })

theorem test_transfers_load :
    let o : Op := { id := 5, word := word 0x30 [(0, 64), (29, 1), (31, 2046)], a := 65536#64, started := true, base := 64, size := 64, ctx := 77 }
    (tload.core 0).ops.find? (fun o => o.id = 5) = some o ∧ tload.NoInjection ∧ tload.NoHeld 0 ∧ tload.inTurn 0 o = true ∧ wbits o.word 23 0 = 64
      ∧ wOp o.word = 0x30 ∧ wbits o.word 29 29 = 1 ∧ o.adm = none ∧ o.done = 0 ∧ (tload.pte 77 65536).present = true
      ∧ (let dpa := (tload.pte 77 65536).dpa 65536
         tload.poisonedAt dpa 64 = false ∧ tload.mustCheck dpa 64 = false ∧ tload.claspHolds tload.arrivals dpa 64 = false
           ∧ ((tload.newRootRequest 0).rootBlock 0 dpa).isSome = true) ∧ tload.NoClear 0 := by decide +kernel

theorem test_transfers_place : ∀ k ofs, place ((tload.pte 77 65536).dpa 65536) ≠ .canopy k ofs := by
  have h : place ((tload.pte 77 65536).dpa 65536) = .trunk 0 65536 := by decide +kernel
  simp [h]

/-- Core 0 holds an RPUT of 64 bytes to window 0 of core 511, which admits every source. -/
def rput : State :=
  ((State.reset.setCore 0 { ops := [{ id := 5, word := word 0x34 [(0, 64)], a := BitVec.ofNat 64 (511 * 2 ^ 39), ctx := 77, cbound := 64 }] }).setCore 511
    { wins := [(0, ⟨true, 2097088, 64, BitVec.ofNat 64 (255 * 2 ^ 56), none⟩)] }).setReg .PRT_ISO_BIND 511 (PRT_ISO_BIND.CTX.put (PRT_ISO_BIND.VALID.put 0 1) 77)

theorem test_transfers_put :
    let o : Op := { id := 5, word := word 0x34 [(0, 64)], a := BitVec.ofNat 64 (511 * 2 ^ 39), ctx := 77, cbound := 64 }
    let win := (rput.core 511).wins.get {} (wbits o.a 38 36)
    (rput.core 0).ops.find? (fun o => o.id = 5) = some o ∧ rput.NoInjection ∧ rput.NoHeld 0 ∧ rput.NoHeld 511 ∧ rput.inTurn 0 o = true
      ∧ wbits o.word 23 0 = 64 ∧ wOp o.word = 0x34 ∧ rput.heldByWin 0 o = false ∧ (rput.remoteCheck 0 o).isNone = true ∧ wbits o.a 63 63 = 0
      ∧ wbits o.a 47 39 = 511 ∧ wbits o.a 55 48 = rput.memberIdx (rput.coreInst 0) ∧ wbits o.word 29 29 = 0 ∧ rput.boundCtx 511 = some 77
      ∧ win.admits (rput.memberIdx (rput.coreInst 0)) 0 = true ∧ wbits o.a 20 0 + 64 ≤ win.bound ∧ (win.base + wbits o.a 20 0) % 64 = 0
      ∧ rput.fld PRT_CNP_STATUS.CLEAR_BUSY 511 = 0 := by decide +kernel

theorem test_transfers_arrives :
    let o : Op := { id := 5, word := word 0x34 [(0, 64)], a := BitVec.ofNat 64 (511 * 2 ^ 39), ctx := 77, cbound := 64 }
    o.sent = false ∧ o.remote = false ∧ o.adm = none ∧ rput.arrives 0 o = true ∧ rput.landsOn 0 5 511 2097088 64 = false ∧ (rput.core 0).cmarks = [] := by decide +kernel

/-- Core 511 holds an APAGE of cell 0 that waits for a page engine; engine 0 is in use. -/
def apage : State :=
  (on 0 {} { ops := [{ id := 5, arrival := 9, word := word 0x68 }] }).setCore 480 { ops := [{ id := 5, word := word 0x68, engine := some 0 }] }

theorem test_serviceRequests_start :
    (0 ∈ apage.apageBusy 15 ∧ 1 ∉ apage.apageBusy 15) ∧ apage.apageWaiting 15 = [(511, { id := 5, arrival := 9, word := word 0x68 })] := by decide +kernel

/-- An APAGE of one row and head over an empty sequence, on engine 7, with its step admitted and prepared. -/
def apageOn : State :=
  { (on 0 {} { ops := [{ id := 5, word := word 0x68 [(35, 1)], cbound := 2097152, ctx := 3, started := true, base := 64, size := 272, engine := some 7 }]
               canopy := [(10, 1)] }) with
    seqs := [(0, { state := .opened, ctx := 3, kvl := 2 ^ 56 + 2 ^ 37 + 2 ^ 36 })]
    steps := [(0, [{ ctx := 3, recs := [{ prepared := true }] }])] }

theorem test_serviceRequests_page :
    let o : Op := { id := 5, word := word 0x68 [(35, 1)], cbound := 2097152, ctx := 3, started := true, base := 64, size := 272, engine := some 7 }
    apageOn.tmarks = [] ∧ (apageOn.core 511).cmarks = [] ∧ o.adm = none ∧ apageOn.NoInjection ∧ apageOn.NoHeld 511 ∧ wOp o.word = 0x68 ∧ wbits o.word 35 35 = 1
      ∧ (∀ d ∈ (List.range 32).map (480 + ·), ((apageOn.core d).ops.find? fun e => decide (e.op = 0x68) && decide (e.engine = some 7))
            = if d = 511 then some o else none)
      ∧ (match apageOn.attnOpen 511 o (fun b => (b.drop 0x20).all (· = 0)) false with
         | (.go v, t) => decide (t = apageOn) && decide (apageOn.attnPages v 0 = []) && decide (v.a.rows = 1)
             && (match t.readWalk 511 o v with | .ok _ => true | .error _ => false) && decide (v.a.rows * v.a.heads * (16 + 4 * kvD v.e.kvl) = 272)
             && decide ((apageOn.apageRec 511 o v 0 0).length = 16 + 4 * kvD v.e.kvl)
         | _ => false) = true := by decide +kernel

/-- A ROUTE of one row of two experts, one selected. -/
def route : State :=
  on 0 {} { ops := [{ id := 5, word := word 0x70 [(35, 1)], cbound := 128, started := true, base := 128, size := 8 }]
            canopy := [(2, 1), (8, 64), (12, 64)] }

theorem test_serviceRequests_route :
    let o : Op := { id := 5, word := word 0x70 [(35, 1)], cbound := 128, started := true, base := 128, size := 8 }
    let b := getBytes (route.core 511).canopy 0 64
    route.NoInjection ∧ route.NoHeld 511 ∧ wOp o.word = 0x70 ∧ wbits o.word 35 35 = 1 ∧ (route.core 511).ops.find? (fun e => e.id = 5) = some o
      ∧ route.inTurn 511 o = true ∧ route.behind 511 o = false ∧ leAt b 0 2 + 1 = 1 ∧ leAt b 2 2 + 1 = 2 ∧ leAt b 4 1 + 1 = 1 ∧ leAt b 5 1 < 3
      ∧ leAt b 8 4 = 64 ∧ leAt b 0x1C 4 % 64 = 0 ∧ (b.drop 0x24).all (· = 0) = true ∧ leAt b 8 4 + 2 * 4 ≤ 128 ∧ leAt b 6 1 = 0
      ∧ maskBit (leAt b 5 1) 2 = false ∧ leAt b 7 1 = 0 ∧ (route.core 511).bset = [] ∧ (route.core 511).cmarks = []
      ∧ ∀ j ∈ [0, 1], (f32 (leF32 (getBytes (route.core 511).canopy 64 8) (4 * j))).isNan = false := by decide +kernel

/-- The same of BF16 scores, with a bias for each expert. -/
theorem test_serviceRequests_bias :
    let s := route.modCore 511 fun k => { k with canopy := [(2, 1), (5, 4), (6, 1), (8, 64), (12, 64), (16, 96)] }
    let b := getBytes (s.core 511).canopy 0 64
    leAt b 6 1 = 1 ∧ leAt b 5 1 = 4 ∧ leAt b 8 4 + 2 * 2 ≤ 128 ∧ leAt b 0x10 4 + 4 * 2 ≤ 128 ∧ leAt b 0x1C 4 % 64 = 0
      ∧ (b.drop 0x24).all (· = 0) = true
      ∧ ∀ j ∈ [0, 1], (f32 (BitVec.ofNat 32 (leAt (getBytes (s.core 511).canopy 64 4) (2 * j) 2 * 65536))).isNan = false := by decide +kernel

/-! ### Trails -/

/-- Instance 15 in state `st` at tick `now`. -/
def trail (st : Nat) (x : Inst) (now : Nat := 0) : State :=
  ({ State.reset with insts := [(15, x)], ntu := { tick := now, elapsed := now } }).setIState 15 st

theorem test_slotsAndSlips_open :
    let s := trail 3 { image := { period := 1000, slots := List.replicate 256 ⟨999, 1, 0, 0, 0, 1⟩ } } 999
    (s.inst 15).image.slots[255]? = some ⟨999, 1, 0, 0, 0, 1⟩ ∧ s.slotDue 15 255 = true ∧ s.turn 15 6 255 = true := by decide +kernel

theorem test_slotsAndSlips_sub :
    let x : Inst := { image := { period := 1000, slots := [⟨0, 900, 0, 0, 0, 16⟩], subs := List.replicate 16 10 }, openSlots := [(0, 14)]
                      fired := [(evSlot * 65536, 1), (evBoundary * 65536, 1)] }
    let s := trail 3 x 150
    s.executing 15 = true ∧ (s.inst 15).openSlots.find 0 = some 14 ∧ (s.inst 15).passed s.ntu.tick (0 + ((x.image.subs.drop 0).take 15).sum) = true
      ∧ s.subBusy 15 0 14 = false ∧ s.turn 15 6 0 = true := by decide +kernel

/-- The end of slot 0 with thread slot (480, 0) as its participant. -/
def slotEnd (st : TState) : State :=
  (trail 3 { image := { period := 1000, slots := [⟨100, 200, 0, 1, 0, 1⟩], parts := [⟨480, 1⟩] }, openSlots := [(0, 0)] } 300).modThr 480 0
    fun x => { x with state := st }

theorem test_slotsAndSlips_end : ∀ st ∈ [TState.halted, .running], let s := slotEnd st
    s.checkDue 15 0 = true ∧ (s.inst 15).image.participants 0 = [(480, 0)] ∧ (s.thr 480 0).trapSlot ≠ some 0 ∧ (s.inst 15).slipAt = none
      ∧ (st = .running → (s.thr 480 0).state = .running ∧ (s.inst 15).slipRun s.ntu.tick 0 < 4 ∧ (s.inst 15).image.slipLimit = 0)
      ∧ (st = .halted → s.threadDone ((s.inst 15).schedAt s.ntu.tick) 300 480 0 = true ∧ s.slotOps 0 480 0 = []) := by decide +kernel

/-- A slip of slot 255 is announced for tick 1000; without a stop, with one after it, and with one at it. -/
theorem test_slotsAndSlips_apply : ∀ stop ∈ [none, some (2000, 1), some (1000, 1)],
    let s := trail 3 { image := { period := 1000 }, slipAt := some (1000, 255), stopAt := stop, begun := true } 1000
    s.trailActive 15 = true ∧ (s.inst 15).slipAt = some (1000, 255) ∧ 1000 ≤ s.ntu.tick ∧ s.opTurn 15 (1000, (s.inst 15).slipBy) = true
      ∧ (s.inst 15).stopAt = stop := by decide +kernel

/-- Gate 0 of instance 15 at its offset 0. -/
def gate (kind arg : Nat) (streams : List StreamEnt := []) (x : Nat := 0) : State :=
  let s := trail 3 { image := { period := 1000, groupMask := 65535, gates := [⟨0, kind, arg⟩], streams := streams } }
  { s with ctxs := [(0, { objs := [⟨5, 0, 65536, 1, false, false, false, false, false, 0, 0, x, [], 0, 0⟩], pages := [(0, { present := true })] })] }

/-- A stream of 64 bytes of object 5 of context 0 to core 0. -/
def entry : StreamEnt := ⟨0, false, false, 0, 5, 0, 0, 0, 1, 0, 0, 64, 0, 0, 0⟩

theorem test_trailEvents_due : ∀ kind ∈ [1, 2, 3], let s := (gate kind 0 [entry]).modInst 15 fun x => x.fire evBoundary 0 0
    (s.inst 15).image.gates[0]? = some ⟨0, kind, 0⟩ ∧ s.gateDue 15 0 = true ∧ s.turn 15 4 0 = true := by decide +kernel

/-- A dedicated burst refused: sealed mode, and a partition outside the trail's group has a share of the stack. -/
theorem test_trailEvents_refused :
    let s := (((gate 2 0).modInst 15 fun x => { x with image := { x.image with groupMask := 2 ^ 15 } }).setFld TRK_ARB_CFG.MODE 0 2).setFld
      TRK_REG.SHARE 7 1
    s.trkMode 0 = 2 ∧ maskBit (s.inst 15).image.groupMask 7 = false ∧ TRK_REG.SHARE.of (s.trkReg 0 7) ≠ 0
      ∧ (gate 2 0).trkMode 0 ≠ 2 := by decide +kernel

theorem test_trailEvents_stream : let s := gate 1 0 [entry]
    (s.inst 15).image.streams = [entry] ∧ entry.expert = false ∧ entry.root = false ∧ entry.dst < 512 ∧ (s.mem (entry.dst / 32)).streams = []
      ∧ s.streamAt entry (entry.ofs * 64) = some (0, 0) ∧ ∀ f ∈ s.streamFrames entry 0 0, frameRoot f = false := by decide +kernel

theorem test_trailEvents_xdev :
    let s := trail 3 { image := { period := 1000, xdevs := [⟨999, 1, 0, 0, 0⟩] } } 999
    (s.inst 15).image.xdevs[0]? = some ⟨999, 1, 0, 0, 0⟩ ∧ s.xdevDue 15 0 = true ∧ s.turn 15 5 0 = true := by decide +kernel

/-- Instance 15, ARMED, at its start tick: as an active member, a standby and a reserve of its board. -/
def starting (role : Nat) (x : Inst := {}) : State :=
  trail 2 { x with image := { period := 1000, cores := [⟨511, 128, List.replicate 8 16383, []⟩], scope := 1
                              members := [⟨0, 0, role, 0, 1⟩] }, startAt := 1000 } 1000

theorem test_trailRunAndStop_run : ∀ role ∈ [0, 1, 2], ∀ stop ∈ [none, some (2000, 1)], let s := starting role { stopAt := stop }
    s.ctxs = [] ∧ s.seqs = [] ∧ s.steps = [] ∧ s.replays = [] ∧ (s.inst 15).startReq = none ∧ (s.inst 15).stopReqs = [] ∧ s.cores = [] ∧ s.mems = []
      ∧ (s.inst 15).begun = false ∧ s.iState 15 = 2 ∧ (s.inst 15).startAt ≤ s.ntu.tick ∧ (s.inst 15).stopAt = stop ∧ s.roleOf 15 = role
      ∧ s.opTurn 15 ((s.inst 15).startAt, (s.inst 15).startBy) = true ∧ (s.inst 15).image.streams = [] := by decide +kernel

/-- The time bit of the scope is 0, or the scope asks none. -/
theorem test_trailRunAndStop_time : (starting 0).timeOk 1 = false ∧ (starting 0).timeOk 0 = true := by decide +kernel

theorem test_trailRunAndStop_stop : let s := trail 4 { image := { period := 1000, cores := [⟨511, 128, [], []⟩] }, stopAt := some (1000, 255) } 1000
    (s.inst 15).stopAt = some (1000, 255) ∧ s.trailActive 15 = true ∧ 1000 ≤ s.ntu.tick ∧ s.opTurn 15 (1000, (s.inst 15).stopBy) = true := by decide +kernel

theorem test_trailRunAndStop_takeover : ∀ st ∈ [4, 6],
    let s := trail st { image := { period := 1000, members := [⟨3, 0, 0, 0, 1⟩, ⟨0, 0, 1, 0, 1⟩] }, takeoverAt := some (1000, 0, 0) } 1000
    (s.inst 15).takeoverAt = some (1000, 0, s.sdid) ∧ 1000 ≤ s.ntu.tick ∧ s.iState 15 = st ∧ (s.inst 15).stopAt = none ∧ (s.inst 15).mirrors = []
      ∧ (s.inst 15).copies = [] ∧ s.opTurn 15 (1000, (s.inst 15).takeoverBy) = true
      ∧ (s.inst 15).image.members.find? (fun e => e.sdid = s.sdid) = some ⟨0, 0, 1, 0, 1⟩ ∧ 0 < (s.inst 15).image.members.length := by decide +kernel

/-- Boundary of instance 15 with one retained step of partition 15 waiting, its pool free and bucket 0 open. -/
def boundary : State :=
  let s := trail 3 { image := { period := 1000, groupMask := 2 ^ 15, stepSlots := 1, stepRows := 1 } } 2000
  let r : StepRec := { ctx := 3840, arrived := 1999, recs := [{ bytes := leBytes 245760 4 }] }
  (({ s with waiting := [(15, [r])], seqs := [(245760, { state := .opened, ctx := 3840, cap := 1, pool := 5 })], poolFree := [(5, [(0, 9)])] }).setFld
    PRT_KV_CFG.BKT_COUNT 15 1).setFld PRT_KV_BKT.CAP 240 1

theorem test_boundaryAdmission :
    let s := boundary
    let x := s.inst 15
    let k := x.schedAt s.ntu.tick
    let start : State := { s.modInst 15 (fun x => { x.fire evBoundary 0 k with resumed := none }) with waiting := s.waiting.set [] 15 [] }
    s.iState 15 = 3 ∧ s.boundaryDue 15 = true ∧ s.turn 15 3 0 = true ∧ 1 ≤ x.image.stepSlots
      ∧ x.image.groupMask = 2 ^ 15 ∧ x.image.scope = 0 ∧ s.steps = [] ∧ s.replays = [] ∧ s.migs = [] ∧ s.fatal = false ∧ s.power.warm = none
      ∧ s.waiting.get [] 15 = [{ ctx := 3840, arrived := 1999, recs := [{ bytes := leBytes 245760 4 }] }] ∧ 3840 / 256 = 15 ∧ 1999 < s.ntu.tick ∧ s.cores = []
      ∧ start.vet 15 x.image.stepRows { ctx := 3840, arrived := 1999, recs := [{ bytes := leBytes 245760 4 }] } = .ok [{ bytes := leBytes 245760 4 }]
      ∧ (s.seq 245760).state ≠ .frozen ∧ start.noSpace 15 [{ bytes := leBytes 245760 4 }] = []
      ∧ (start.placeRecs 15 [{ bytes := leBytes 245760 4 }] (List.replicate 16 0)).isSome = true := by decide +kernel

theorem test_boundaryAdmission_quiet : (∀ q, (boundary.seq q).closing = none ∧ (boundary.seq q).exporting = []) ∧ (∀ c, (boundary.ctx c).deferred = [])
    ∧ ∀ c t, (boundary.thr c t).trapSlot = none := by
  refine ⟨fun q => ?_, fun _ => rfl, fun _ _ => rfl⟩
  by_cases h : 245760 = q <;> simp [boundary, State.seq, State.setFld, State.setReg, SMap.get, trail, State.setIState, h]

theorem test_boundaryAdmission_restart :
    let s := (trail 3 { image := { period := 1000, groupMask := 2 ^ 15, cores := [⟨511, 128, [], []⟩] } } 2000).modThr 511 7 fun x => { x with trapSlot := some 0 }
    s.waiting = [] ∧ s.ctxs = [] ∧ s.iState 15 = 3 ∧ s.boundaryDue 15 = true ∧ s.turn 15 3 0 = true ∧ s.steps = [] ∧ (s.thr 511 7).trapSlot ≠ none := by
  decide +kernel

/-- A standby at a boundary. -/
theorem test_boundaryAdmission_standby : let s := trail 6 { image := { period := 1000 }, begun := true } 2000
    s.executing 15 = false ∧ s.trailActive 15 = true ∧ (s.inst 15).begun = true ∧ (s.inst 15).isBoundary s.ntu.tick = true
      ∧ (s.inst 15).slipAt = none := by decide +kernel

theorem test_membersAndCores :
    (let s := trail 3 { image := { period := 1000, scope := 1, members := [⟨0, 0, 0, 0, 1⟩, ⟨3, 0, 0, 1, 1⟩] }, missed := [(1, 2)] } 999
     s.iState 15 = 3 ∧ (1, (s.inst 15).image.members.getD 1 ⟨0, 0, 0, 0, 0⟩) ∈ (s.inst 15).others (s.memberIdx 15)
       ∧ ((s.inst 15).image.members[1]?).map (·.role) = some 0 ∧ 1 ∉ (s.inst 15).retired ∧ 2 ≤ (s.inst 15).missed.get 0 1
       ∧ (s.inst 15).standbyOf 1 = none ∧ (s.inst 15).stopAt = none
       ∧ s.lead (s.inst 15).image.scope ≤ (s.ntu.tick - (s.inst 15).origin) % (s.inst 15).image.period ∧ s.evtClass 0xD 0xD ≠ 2)
    ∧ (∀ n ∈ [0, 256, 511], let s : State := { on 0 {} { retiring := true } with dead := if n = 0 then [] else [(63, n)] }
       (s.core 511).retiring = true ∧ s.executing (s.coreInst 511) = false ∧ s.corePos 511 = 7
         ∧ ({ s with dead := [(63, n ||| 128)] } : State).sparePos (511 / 8) = if n = 0 then some 8 else none)
    ∧ (let s := (trail 3 { image := { period := 1000 } } 2000).setFld HUB_CAP_RES.PART_PRESENT 0 65535 |>.setFld PRT_ISO_GRP.GROUP_MASK 15 32768
       s.executing (s.coreInst 511) = true ∧ (s.inst (s.coreInst 511)).isBoundary s.ntu.tick = true) := by decide +kernel

/-- A step of partition 15 with one record, of sequence 245760. -/
def oneStep (r : SeqRec) (e : SeqEnt) : State :=
  { State.reset with steps := [(15, [{ ctx := 3840, recs := [r] }])], seqs := [(245760, e)] }

theorem test_kvUnit_steps :
    (let r : SeqRec := { bytes := leBytes 245760 4, bucket := 15 }; let s := oneStep r { state := .opened, ctx := 3840, cap := 300 }
     s.stepsOf 15 = [{ ctx := 3840, recs := [r] }] ∧ r.prepared = false ∧ r.bucket < 16 ∧ r.seq / 16384 = 15 ∧ kvRing (s.seq r.seq).kvl = false
       ∧ s.ringWaits r.seq r.n = false)
    ∧ (let r : SeqRec := { bytes := leBytes 245760 4, prepared := true, accepted := some [0, 0, 0, 0, 1, 0, 0, 0, 0] }
       let s := oneStep r { state := .opened, ctx := 3840, cap := 300, wrote := [0] }
       s.stepsOf 15 = [{ ctx := 3840, recs := [r] }] ∧ s.mayCommit { ctx := 3840, recs := [r] } = true ∧ ([r].map SeqRec.seq).Nodup) := by decide +kernel

theorem test_kvUnit_transfers :
    (let x : Xfer := ⟨⟨0, 0, 0, 4, false⟩, false, 0, 64, leBytes 0 4 ++ leBytes 7 4, true⟩
     let s : State := { State.reset with seqs := [(262143, { state := .importing, importing := some x })] }
     (s.seq 262143).importing = some x ∧ (s.seq 262143).closing = none)
    ∧ (let x : Xfer := ⟨⟨0, 0, 0, 4, false⟩, false, 0, 64, leBytes 0 4 ++ leBytes 7 4, true⟩
       let s : State := { State.reset with seqs := [(262143, { state := .importing, importing := some x, closing := some ⟨0, 1, 2, 3, false⟩ })] }
       (s.seq 262143).importing = some x ∧ (s.seq 262143).closing ≠ none ∧ s.inGroup (262143 / 16384) = false ∧ s.seqBusy 262143 = false)
    ∧ (let x : Xfer := ⟨⟨4096, 0, 0, 5, false⟩, false, 0, 1, [7], true⟩
       let s : State := { State.reset with seqs := [(262143, { state := .opened, exporting := [x] })] }
       (s.seq 262143).exporting = [x] ∧ x.ready = true ∧ x.dev = false ∧ x.done.ring ≤ 4096 ∧ (s.ctx 4096).adopting = false ∧ s.ringLive 4096 = false) := by
  decide +kernel

/-! ### Contexts -/

/-- Context 4095, OPEN. -/
def ctxOn (c : Ctx) : State := (State.reset.setCtx 4095 c).setCState 4095 1

theorem test_ringsAndDoorbells :
    (∀ n ∈ [1, 16], let s := ctxOn {}; s.ringLive 4095 = true ∧ (n + 2 ^ 32 - s.sqHead 4095) % 2 ^ 32 ≤ (s.ctx 4095).sq.entries ∧ n ≠ (s.ctx 4095).sqTail)
    ∧ (let s := ctxOn { cqWritten := 5, eqWritten := 2 }; (5 + 2 ^ 32 - (s.ctx 4095).cqHead) % 2 ^ 32 ≤ cqUsed (s.ctx 4095)
        ∧ (2 + 2 ^ 32 - (s.ctx 4095).eqHead) % 2 ^ 32 ≤ eqUsed (s.ctx 4095))
    ∧ (let s : State := { ctxOn { sq := { base := 65536, dev := true }, pages := [(1, { frame := 1, present := true })] } with trunk := [(65552, 16)] }
       (s.ctx 4095).sq.dev = true ∧ (s.ctx 4095).cq.dev = false ∧ s.readOva 4095 ((s.ctx 4095).sq.base + 0x10) 4 = some [16, 0, 0, 0]
         ∧ (leNat [16, 0, 0, 0] + 2 ^ 32 - s.sqHead 4095) % 2 ^ 32 ≤ (s.ctx 4095).sq.entries ∧ leNat [16, 0, 0, 0] ≠ (s.ctx 4095).sqTail)
    ∧ (let s : State := { ctxOn { sqTail := 1 } with host := [((State.reset).hostKey 4095 64, 0x0F)] }
       let bs := getBytes s.host (s.hostKey 4095 ((s.ctx 4095).sq.entryAddr 0 64)) 64
       s.sqHead 4095 = 0 ∧ (s.ctx 4095).sqTail = 1 ∧ (s.ctx 4095).open_ = [] ∧ opcodeOk false (s.aqpVersion 4095) (leNat (bs.take 1)) = true)
    ∧ (let e : Compl := { tag := 1, opcode := 15, status := 0 }; let s := ctxOn { held := [e], cqWritten := 15 }
       (s.ctx 4095).held = [e] ∧ (s.ctx 4095).cq.dev = false ∧ cqUsed (s.ctx 4095) < (s.ctx 4095).cq.entries)
    ∧ (let s := ((ctxOn { modCnt := 1 }).setFld VF_CTX_CFG.MOD_TICKS 4095 1).setFld VF_CTX_CFG.IRQ_EN 4095 1
       let s : State := { s with ntu := { elapsed := 1 } }
       s.modTicksCfg 4095 = 1 ∧ (s.ctx 4095).modCnt ≠ 0 ∧ s.irqEn 4095 = true ∧ (s.ctx 4095).modSince + 1 ≤ s.ntu.elapsed) := by decide +kernel

/-- VF 15 with context 255 selected, ready, whose rings' headers the host has written at 1000H, 2000H and 3000H. -/
def vf : State :=
  ((((((State.reset.setFld HIF_STATUS.READY 0 1).setFld HUB_CAP_RES.PART_PRESENT 0 65535).setFld SEC_LC.STATE 0 2).setFld VF_CTX_SEL.LOCAL 15 255).setReg .VF_CTX_SQ 4095
    0x1004#64).setReg .VF_CTX_CQ 4095 0x2004#64).setReg .VF_CTX_EQ 4095 0x3004#64

/-- The header of a ring of 16 entries of kind `k`. -/
def header (base k x version : Nat) : HostStores :=
  ((leBytes 0x52505141 4 ++ leBytes version 2 ++ leBytes k 2 ++ leBytes 16 4 ++ leBytes x 2).mapIdx fun i b => (base + i, b))

theorem test_contextCreation_create : let mem := header 0x1000 0 4095 (vf.aqpVersion 4095) ++ header 0x2000 1 4095 (vf.aqpVersion 4095) ++ header 0x3000 2 4095 (vf.aqpVersion 4095)
    vf.selected 15 = 4095 ∧ (vf.hostStores 4095 mem).createErr 4095 (decide (vf.cState 4095 ≠ 0)) (ringOf (vf.ringReg 4095 0)) (ringOf (vf.ringReg 4095 1)) (ringOf (vf.ringReg 4095 2)) = 0
      ∧ (vf.ctx 4095).adopting = false := by decide +kernel

theorem test_contextCreation_rebase :
    let s := ((vf.setCState 4095 1).setFld VF_CTX_CFG.VERSION 4095 2); s.selected 15 = 4095 ∧ s.cLive 4095 = true ∧ s.aqpVersion 4095 = 2 := by decide +kernel

theorem test_contextCreation_admin :
    let s := ((vf.setReg .HIF_ADM_SQ 0 0x1004#64).setReg .HIF_ADM_CQ 0 0x2004#64).setReg .HIF_ADM_EQ 0 0x3004#64
    let h := s.hostStores 4096 (header 0x1000 0 0xFFFF (s.aqpVersion 4096) ++ header 0x2000 1 0xFFFF (s.aqpVersion 4096) ++ header 0x3000 2 0xFFFF (s.aqpVersion 4096))
    h.createErr 4096 (s.ctx 4096).exists_ (ringOf (s.reg .HIF_ADM_SQ 0)) (ringOf (s.reg .HIF_ADM_CQ 0)) (ringOf (s.reg .HIF_ADM_EQ 0)) = 0 := by decide +kernel

theorem test_contextCreation_apply :
    let mem := header 0x1000 0 4095 (vf.aqpVersion 4095) ++ header 0x2000 1 4095 (vf.aqpVersion 4095) ++ header 0x3000 2 4095 (vf.aqpVersion 4095)
    let s := ((vf.hostStores 4095 mem).setCState 4095 1).setCtx 4095 { rebase := true, sqTail := 0 }
    let t := s.modCtx 4095 fun c => { c with rebase := false }
    let sq := ringOf (s.ringReg 4095 0)
    let cq := ringOf (s.ringReg 4095 1)
    let eq := ringOf (s.ringReg 4095 2)
    (s.ctx 4095).rebase = true ∧ s.cLive 4095 = true ∧ (s.ctx 4095).open_ = [] ∧ s.sqHead 4095 = (s.ctx 4095).sqTail
      ∧ (∀ r ∈ [sq, cq, eq], 4 ≤ r.log2 ∧ r.log2 ≤ 16) ∧ eq.dev = false ∧ t.devRingOk 4095 sq 64 = true ∧ t.devRingOk 4095 cq 32 = true
      ∧ t.headerOk 4095 sq 0 = true ∧ t.headerOk 4095 cq 1 = true ∧ t.headerOk 4095 eq 2 = true := by decide +kernel

/-- Context 4095 bound to core 511. -/
def bound : State :=
  (((State.reset.setFld VF_CTX_SEL.LOCAL 15 255).setFld PRT_ISO_CTX.CTX_LOCAL 15 255).setReg .PRT_ISO_BIND 511 (PRT_ISO_BIND.CTX.put (PRT_ISO_BIND.VALID.put 0 1) 4095)
    |>.setCState 4095 2).setCore 511 { lastCtx := some 4095, threads := [(7, { state := .running })], cells := [(1, { size := 64 })] }

theorem test_contextKill_kill : 15 * 256 + bound.fld PRT_ISO_CTX.CTX_LOCAL 15 = 4095 ∧ bound.selected 15 = 4095 ∧ bound.cLive 4095 = true
    ∧ bound.boundCores 4095 = [511] ∧ bound.waitingCores 4095 = [] ∧ bound.steps = [] ∧ bound.waiting = [] ∧ bound.replays = [] ∧ bound.seqs = [] ∧ bound.migs = []
    ∧ bound.snapFree = [] ∧ bound.mems = [] ∧ (∀ k, k < 16 → (bound.inst k).owner ≠ 4095 ∨ bound.trailActive k = false)
    ∧ (bound.core 511).lastCtx = some 4095 ∧ bound.coreQuiet 511 = true := by decide +kernel

/-- The same with an operation that has started. -/
theorem test_contextKill_started : let o : Op := { id := 3, word := word 0x30, started := true }
    let s := bound.modCore 511 fun k => { k with ops := [o] }
    (s.core 511).ops = [o] ∧ o.started = true ∧ s.coreQuiet 511 = false ∧ s.boundCores 4095 = [511] ∧ s.waitingCores 4095 = [] ∧ s.cLive 4095 = true
      ∧ (s.core 511).lastCtx = some 4095 := by decide +kernel

theorem test_contextKill_reset : 511 / 32 = 15 ∧ State.reset.inGroup 15 = false ∧ State.reset.boundCtx 511 = none ∧ State.reset.coreQuiet 511 = true := by decide +kernel
theorem test_contextKill_none_live : ∀ x, x / 256 = 15 → State.reset.cLive x = false := by
  intro x _
  have h : State.reset.reg VF_CTX_STATUS.STATE.reg x = BitVec.ofNat 64 RegId.VF_CTX_STATUS.tableReset := by rfl
  simp only [State.cLive, State.cState, State.fld, h]
  decide +kernel

theorem test_contextKill_ends :
    (∀ k ∈ [true, false], let s := (State.reset.setFld PRT_CNP_STATUS.CLEAR_BUSY 511 1).setCore 511 { killed := k, threads := [(7, { cbound := 64 })] }
      s.fld PRT_CNP_STATUS.CLEAR_BUSY 511 = 1 ∧ (s.core 511).lastCtx = none ∧ (s.core 511).killed = k)
    ∧ (∀ k ∈ [true, false], let s := (State.reset.setCtx 4095 { killUnmap := true, killKey := k, key := 1 }).setCState 4095 3
      s.cState 4095 = 3 ∧ (s.ctx 4095).killUnmap = true ∧ (s.ctx 4095).killKey = k ∧ s.ctxBusy 4095 = false ∧ s.framesPend (s.ctx 4095).killFrames = false
        ∧ (s.ctx 4095).areaFrames = []) := by decide +kernel

/-- Partition 15 in a group of its own, with context 4095 OPEN and one core's Canopy in its quota. -/
def grouped (k : Core) : State :=
  ((((State.reset.setFld HUB_CAP_RES.PART_PRESENT 0 65535).setFld PRT_ISO_GRP.GROUP_MASK 15 32768).setCtx 4095 { qCanopy := 2097152 }).setCState 4095 1).setCore 511 k

theorem test_bindingAndGroups_bind : ∀ k ∈ [some 4095, none], let s := grouped { lastCtx := k }
    let v := PRT_ISO_BIND.CTX.put (PRT_ISO_BIND.VALID.put 0 1) 4095
    PRT_ISO_BIND.VALID.of v = 1 ∧ PRT_ISO_BIND.CTX.of v = 4095 ∧ s.lockOpen 15 = true ∧ s.cLive 4095 = true ∧ s.inGroup 15 = true
      ∧ maskBit (s.groupMask 15) 15 = true ∧ s.boundCtx 511 = none ∧ (s.core 511).pendBind = none ∧ s.canopyFits 4095 = true
      ∧ (s.ctx 4095).adopting = false ∧ s.clearPending 511 = false ∧ s.coreQuiet 511 = true ∧ (s.core 511).lastCtx = k := by decide +kernel

theorem test_bindingAndGroups_effect : let s := grouped { pendBind := some 4095 }
    (s.core 511).pendBind = some 4095 ∧ s.clearPending 511 = false ∧ s.cLive 4095 = true ∧ (s.ctx 4095).adopting = false := by decide +kernel

theorem test_bindingAndGroups_group : State.reset.inGroup 15 = false ∧ (State.reset.setFld HUB_CAP_RES.PART_PRESENT 0 32768).present 15 = true
    ∧ PRT_ISO_GRP.GROUP_MASK.of 32768#64 = 2 ^ 15 := by decide +kernel

/-! ### Descriptors -/

/-- A descriptor: opcode, flags, and fields as (offset, value). -/
def desc (op : Nat) (fs : List (Nat × Nat)) (flags : Nat := 0) : Desc :=
  { pos := 0, bytes := leBytes (op + flags * 256 + (fs.map fun e => e.2 * 256 ^ e.1).sum) 64, arrived := 0 }

/-- Context 4095 with `d` next to start. -/
def ready (d : Desc) (c : Ctx := {}) : State := ctxOn { c with started := [d], open_ := [0] }

theorem test_ready : ∀ n ∈ [1, 2], (ready (desc n [])).RingReady 4095 (desc n []) := by decide +kernel

theorem test_stepsAndSequences_step :
    (let d := desc 0x01 [(8, 4096), (0x20, 3)]
     (ready d).RingReady 4095 d ∧ d.opcode = 0x01 ∧ d.clean 1 [(8, 2), (0x10, 8), (0x18, 8), (0x20, 1)] = true ∧ d.stepOk = true ∧ d.le 0x20 1 < 4)
    ∧ (∀ n ∈ [64, 65536], let d := desc 0x10 [(8, 1), (0x20, 5), (0x30, n)]
     d.opcode = 0x10 ∧ d.clean 1 [(8, 2), (0x10, 8), (0x20, 1), (0x28, 8), (0x30, 4)] = true ∧ d.stepOk = true ∧ d.le 0x20 1 < 8
       ∧ maskBit (d.le 0x20 1) 2 = true ∧ maskBit (d.le 0x20 1) 1 = false ∧ d.le 0x28 8 % 64 = 0 ∧ d.le 0x30 4 = n) := by decide +kernel

/-- A KV layout of one layer and head of 64 BF16 elements. -/
def kvl1 : Nat := 2 ^ 56 + 2 ^ 37 + 2 ^ 36

/-- An object of context 4095, by its index, kind, first byte and pages. -/
def obj (i kind ova n : Nat) (kvl : Nat := 0) : Obj := ⟨4095 * 2 ^ 20 + i, ova, n * 65536, kind, false, kind == 0, false, false, false, 0, i, 4095, [], 1, kvl⟩

theorem test_stepsAndSequences_open : ∀ cap ∈ [1, 4194304],
    let d := desc 0x02 [(8, kvl1), (0x10, 4095 * 2 ^ 20 + 7), (0x14, cap)]
    let s : State := { ready d { objs := [obj 7 2 65536 16 kvl1] } with poolFree := [(4095 * 2 ^ 20 + 7, [(0, 100)])] }
    s.RingReady 4095 d ∧ d.opcode = 0x02 ∧ d.clean 1 [(8, 8), (0x10, 4), (0x14, 4), (0x18, 4), (0x1C, 4), (0x20, 8), (0x28, 1)] = true ∧ d.le 0x14 4 = cap
      ∧ d.le 0x28 1 ∈ [0, 1, 64] ∧ d.le 0x20 8 % 64 = 0 ∧ d.le 0x18 4 < 2 ^ 18 ∧ (obj 7 2 65536 16 kvl1).kind = 2
      ∧ kvEB (d.le 8 8) = kvEB (obj 7 2 65536 16 kvl1).kvl ∧ kvSB (d.le 8 8) = kvSB (obj 7 2 65536 16 kvl1).kvl ∧ s.ownObj 4095 (d.le 0x10 4) = .ok (obj 7 2 65536 16 kvl1)
      ∧ kvlOk (d.le 8 8) = true ∧ ({ kvl := d.le 8 8, cap := d.le 0x14 4 } : SeqEnt).tblSlots ≤ (s.free (d.le 0x10 4)).count
      ∧ 245760 / 16384 = 15 ∧ (s.seq 245760).state = .closed ∧ (s.seq 245760).exporting = [] := by decide +kernel

/-- Context 4095 with an open, empty sequence 245760 and `d` next to start. -/
def withSeq (d : Desc) (run : Bool := false) : State :=
  let s : State := { ready d with seqs := [(245760, { state := .opened, ctx := 4095, kvl := kvl1, cap := 256, pool := 5 })] }
  if run then ((s.setFld HUB_CAP_RES.PART_PRESENT 0 65535).setFld PRT_ISO_GRP.GROUP_MASK 15 32768).setIState 15 3 else s

theorem test_stepsAndSequences_close : ∀ run ∈ [true, false], let d := desc 0x03 [(8, 245760)]; let s := withSeq d run
    s.RingReady 4095 d ∧ s.ownSeq 4095 (d.le 8 4) = .ok 245760 ∧ d.opcode = 0x03 ∧ d.clean 1 [(8, 4)] = true ∧ (s.seq 245760).closing = none
      ∧ (s.modCtx 4095 fun c => { c with started := c.started.tail }).trailRunning 15 = run ∧ s.seqBusy 245760 = false ∧ (s.seq 245760).state ≠ .importing
      ∧ (s.seq 245760).exporting = [] ∧ s.waiting.get [] 15 = [] := by
  decide +kernel

theorem test_stepsAndSequences_export : ∀ run ∈ [true, false], let d := desc 0x05 [(8, 245760), (0x18, 64)]; let s := withSeq d run
    let t := s.modCtx 4095 fun c => { c with started := c.started.tail }
    s.RingReady 4095 d ∧ s.ownSeq 4095 (d.le 8 4) = .ok 245760 ∧ d.opcode = 0x05 ∧ d.xferOk = true ∧ (s.seq 245760).state ≠ .importing
      ∧ (s.seq 245760).exporting = [] ∧ t.trailRuns 4095 = run ∧ (t.exportBytes 245760).length ≤ d.le 0x18 8 := by decide +kernel

theorem test_contextCreation_frames (s : State) (h : s.freeFrames = [(15, [(0, 160)])]) :
    ∃ frames rest, s.takeRuns false 15 false (List.replicate 160 1) = (some frames, rest) :=
  takeRuns_frames 160 s (List.range 160) List.nodup_range (by simp)
    (by simp only [State.frames, h]; intro x hx; simp [SMap.get, Ranges.mem] at hx ⊢; exact hx)

/-- An empty sequence's transfer at host address 0. -/
theorem test_stepsAndSequences_import :
    let d := desc 0x04 [(8, 245760), (0x18, 64)]
    let bs := leBytes xferMagic 4 ++ leBytes 0 4 ++ leBytes kvl1 8 ++ leBytes (xferStride kvl1) 8 ++ leBytes 0 40
    let s : State := { withSeq d with host := setBytes [] ((withSeq d).hostKey 4095 0) bs }
    let t := s.modCtx 4095 fun c => { c with started := c.started.tail }
    s.RingReady 4095 d ∧ s.ownSeq 4095 (d.le 8 4) = .ok 245760 ∧ d.opcode = 0x04 ∧ d.xferOk = true ∧ (s.seq 245760).state = .opened
      ∧ (s.seq 245760).len = 0 ∧ s.seqBusy 245760 = false ∧ t.importCheck 4095 245760 d = .ok bs ∧ fieldAt bs 4 4 = 0 := by decide +kernel

/-- OBJ_MAP of one page in the Trunk. -/
def mapOne : Desc := desc 0x06 [(8, 65536), (0x10, 65536), (0x19, 2), (0x1B, 255)]

theorem test_objectMaps_new :
    let d := mapOne
    let q := d.mapReq
    let s : State := { ready d { key := 1, qTrunk := 65536 } with freeFrames := [(15, [(9, 1)])] }
    let t := s.modCtx 4095 fun c => { c with started := c.started.tail }
    (s.RingReady 4095 d ∧ t.trailRuns 4095 = false ∧ (s.ctx 4095).deferred = [] ∧ d.opcode = 0x06 ∧ q.share = false ∧ q.adopt = false ∧ t.mapStatus 4095 d q = 0
      ∧ q.kind ≠ 2 ∧ q.big = false ∧ q.fill = 0 ∧ q.backed = false ∧ (t.keyFor 4095 q.group).1 = some 1)
    ∧ ∃ frames golden t2, (t.keyFor 4095 q.group).2.takeObject 4095 q = (some (frames, golden), t2) := by
  refine ⟨by decide +kernel, takeObject_frames _ _ _ [9] ?_ ?_ ?_ ?_ ?_ ?_ ?_⟩ <;> decide +kernel

theorem test_objectMaps_share :
    let d := desc 0x06 [(8, 131072), (0x10, 65536), (0x18, 1), (0x19, 36), (0x1C, 4095 * 2 ^ 20 + 7)]
    let q := d.mapReq
    let o := { obj 7 1 65536 1 with groupKey := true }
    let s := ready d { objs := [o] }
    let t := s.modCtx 4095 fun c => { c with started := c.started.tail }
    s.RingReady 4095 d ∧ t.trailRuns 4095 = false ∧ (s.ctx 4095).deferred = [] ∧ d.opcode = 0x06 ∧ q.share = true ∧ q.adopt = false
      ∧ t.sameGroup 4095 (q.src / 2 ^ 20) = true ∧ t.findObj q.src = some o ∧ o.kind = 1 ∧ o.groupKey = true ∧ d.clean 1 [(8, 0x30)] = true
      ∧ q.bytes = o.bytes ∧ q.big = o.big ∧ q.kind = 1 ∧ q.writable = false ∧ q.backed = false ∧ q.group = true ∧ q.fill = 0 ∧ q.rname = 0 ∧ q.kvl = 0
      ∧ ovaOk q.ova q.bytes q.big = true ∧ t.ovaTaken 4095 q.ova q.bytes = false := by decide +kernel

theorem test_objectMaps_adopt :
    let d := desc 0x06 [(8, 65536), (0x10, 65536), (0x19, 130), (0x1B, 255), (0x30, 9)]
    let q := d.mapReq
    let o : Retained := ⟨9, 15, 0, 65536, false, 1, false, false, 15, [3]⟩
    let s : State := { ready d { qRoot := 65536 } with sec := { retained := [o] } }
    let t := s.modCtx 4095 fun c => { c with started := c.started.tail }
    s.RingReady 4095 d ∧ t.trailRuns 4095 = false ∧ (s.ctx 4095).deferred = [] ∧ d.opcode = 0x06 ∧ q.adopt = true
      ∧ (s.sec.retained.find? fun e => e.part = 4095 / 256 ∧ e.rname = q.rname) = some o ∧ o.kind = q.kind ∧ o.bytes = q.bytes ∧ q.share = false
      ∧ q.backed = false ∧ q.fill = 0 ∧ d.clean 1 [(8, 0x30)] = true ∧ ovaOk q.ova q.bytes o.big = true ∧ unitOk q.unit = true ∧ q.kind ≠ 1
      ∧ t.ovaTaken 4095 q.ova q.bytes = false ∧ t.quotaOk 4095 .root q.bytes = true ∧ o.backed = false := by decide +kernel

theorem test_objectMaps_unmap :
    let d := desc 0x08 [(8, 4095 * 2 ^ 20 + 7)]
    let s := ready d { objs := [obj 7 0 65536 1], pages := [(1, { frame := 1, present := true })] }
    let t := s.modCtx 4095 fun c => { c with started := c.started.tail }
    s.RingReady 4095 d ∧ t.trailRuns 4095 = false ∧ (s.ctx 4095).deferred = [] ∧ d.opcode = 0x08 ∧ d.clean 1 [(8, 4)] = true
      ∧ s.ownObj 4095 (d.le 8 4) = .ok (obj 7 0 65536 1) ∧ (obj 7 0 65536 1).kind ≠ 2 ∧ s.mems = [] := by
  decide +kernel

theorem test_placementAndQuotas_place : ∀ pin ∈ [0, 1], ∀ tier ∈ [0, 1],
    let d := desc 0x07 [(8, 4095 * 2 ^ 20 + 7), (0x10, 1), (0x14, tier), (0x15, 255), (0x16, pin)]
    let s := ready d { objs := [obj 7 0 65536 1]
                       pages := [(1, { frame := if tier = 1 then rootFrame 15 3 else 15 * 2 ^ 20, tier := if tier = 1 then .root else .trunk, present := true })] }
    let t := s.modCtx 4095 fun c => { c with started := c.started.tail }
    s.RingReady 4095 d ∧ d.opcode = 0x07 ∧ maskBit (d.le 0x16 1) 1 = false ∧ t.placeCheck 4095 d false = .ok (obj 7 0 65536 1)
      ∧ s.mems = [] ∧ d.le 0xC 4 = 0 ∧ d.le 0x10 4 = 1 ∧ (s.tilePte 4095 (obj 7 0 65536 1) 0).pin = false
      ∧ (s.tilePte 4095 (obj 7 0 65536 1) 0).tier = (if d.le 0x14 1 = 1 then .root else .trunk) ∧ maskBit (d.le 0x16 1) 0 = decide (pin = 1)
      ∧ 4095 ∈ s.ctxList ∧ ((s.ctx 4095).pages.get {} 1).present = true
      ∧ s.findObj (obj 7 0 65536 1).handle = some (obj 7 0 65536 1) ∧ ∀ e ∈ (s.ctx 4095).pages, e.2.big = false := by decide +kernel

theorem test_placementAndQuotas_arrange : ∀ w ∈ [3, 4, 5, 6, 7, 8],
    let d := desc 0x07 [(8, 4095 * 2 ^ 20 + 7), (0x10, 1), (0x16, 2), (0x18, 32), (0x1E, w), (0x20, 4095 * 2 ^ 20 + 8), (0x24, 32)]
    let s := ready d { objs := [obj 7 0 65536 1, obj 8 0 131072 1] }
    let t := s.modCtx 4095 fun c => { c with started := c.started.tail }
    s.RingReady 4095 d ∧ d.opcode = 0x07 ∧ maskBit (d.le 0x16 1) 1 = true ∧ t.placeCheck 4095 d true = .ok (obj 7 0 65536 1)
      ∧ s.ownObj 4095 (d.le 0x20 4) = .ok (obj 8 0 131072 1) ∧ d.le 0x1E 1 = w ∧ d.le 0x1C 2 ≤ 511 ∧ s.mems = [] ∧ 0 < d.le 0x18 4 ∧ d.le 0x18 4 % 32 = 0 ∧ 0 < d.le 0x24 4
      ∧ d.le 0x24 4 % (32 * (d.le 0x1C 2 + 1)) = 0 ∧ arrangeSrc (d.le 0x18 4) (d.le 0x24 4) (elemBits (d.le 0x1E 1)) ≤ d.le 0x10 4 * 65536
      ∧ arrangeDst (d.le 0x18 4) (d.le 0x24 4) (d.le 0x1C 2) (elemBits (d.le 0x1E 1)) ≤ (obj 8 0 131072 1).bytes := by decide +kernel

/-- The admin context with `d` next to start. -/
def adminReady (d : Desc) : State := State.reset.setCtx 4096 { started := [d], open_ := [0], exists_ := true }

theorem test_placementAndQuotas_quota : ∀ share ∈ [0, 100],
    let d := desc 0x0B [(8, 4095), (0xA, share), (0xB, 15), (0x10, 2097152), (0x18, 1), (0x20, 2)]
    let s := (adminReady d).setCState 4095 1
    s.RingReady 4096 d ∧ d.opcode = 0x0B ∧ d.le 8 2 = 4095 ∧ d.le 0xB 1 = 15 ∧ d.le 0xA 1 ≤ 100 ∧ d.clean 1 [(8, 4), (0x10, 24)] = true
      ∧ s.cLive 4095 = true := by decide +kernel

theorem test_placementAndQuotas_nop :
    (let d := desc 0x0F []; (ready d).RingReady 4095 d ∧ d.opcode = 0x0F ∧ d.clean 1 [] = true)
    ∧ (let d := desc 0x0E []; (ready d).RingReady 4095 d ∧ d.opcode = 0x0E ∧ d.clean 1 [] = true ∧ ((ready d).ctx 4095).open_.head? = some d.pos) := by
  decide +kernel

/-! ### Engines, trails, snapshots and migration -/

theorem test_memoryEngines_move :
    let o := obj 7 0 65536 1
    let f := 15 * 2 ^ 20 + 1
    let m : MigReq := ⟨⟨4095, 0, 1, 7, false⟩, 4095, o.handle, 0, 0, 1, .trunk, 15, false, none, true, [(0, f)], 1, 0, false⟩
    let s : State := { State.reset.setCtx 4095 { objs := [o], pages := [(1, { frame := 15 * 2 ^ 20, present := true })] } with mems := [(15, { mig := [m] })] }
    (s.mem 15).mig = [m] ∧ m.copying = [(m.next, f)] ∧ m.begun = true ∧ m.arrange = none ∧ s.findObj m.obj = some o ∧ m.next + 1 = m.stop
      ∧ m.cancelled = false ∧ (s.ctx m.ctx).deferred = [] ∧ (s.ctx m.done.ring).cq.dev = false ∧ f * 65536 < rootBase ∧ o.kind = 0
      ∧ (s.tilePte m.ctx o m.next).frame * 65536 < rootBase ∧ s.mustCheck ((s.tilePte m.ctx o m.next).frame * 65536) 65536 = false
      ∧ s.tileEntries o m.next = [(m.ctx, o.ova / 65536 + m.next)] := by decide +kernel

/-- The engines of the other partitions have no request. -/
theorem test_memoryEngines_others (m : MigReq) (s : State) (h : s.mems = [(15, { mig := [m] })]) (q : Nat) (hq : q ≠ 15) : (s.mem q).mig = [] := by
  simp [State.mem, h, SMap.get, Ne.symm hq]

theorem test_memoryEngines_fill :
    let o := obj 7 0 65536 1
    let f : FillReq := ⟨⟨4095, 0, 1, 6, false⟩, o.handle, 0, false, false, 0, 0⟩
    let s := State.reset.setCtx 4095 { objs := [o], pages := [(1, { frame := 15 * 2 ^ 20, present := true })], fills := [f] }
    (s.ctx 4095).fills = [f] ∧ f.done.ring = 4095 ∧ (s.ctx 4095).cq.dev = false ∧ s.findObj f.obj = some o ∧ f.adopt = false ∧ f.src = 0
      ∧ (s.objFrames 4095 o).all s.writable = true ∧ o.bytes = 65536 ∧ o.golden = [] ∧ s.inPool 4095 o.ova = false
      ∧ (s.pte 4095 o.ova).present = true ∧ (s.pte 4095 o.ova).tier = .trunk ∧ (s.pte 4095 o.ova).big = false
      ∧ o.ova % 65536 = 0 ∧ (s.pte 4095 o.ova).frame * 65536 < rootBase := by decide +kernel

theorem test_memoryEngines_arrange :
    let o := obj 7 0 65536 1
    let a : Arrange := { dst := o.handle, n := 32, k := 32, kg := 0, wfmt := 7 }
    let m : MigReq := { done := ⟨4095, 0, 1, 7, false⟩, ctx := 4095, obj := o.handle, first := 0, next := 0, stop := 1, tier := .trunk, unit := 15
                        pin := false, arrange := some a, begun := true }
    let s : State := { State.reset.setCtx 4095 { objs := [o], pages := [(1, { frame := 15 * 2 ^ 20, present := true })] } with mems := [(15, { mig := [m] })] }
    (s.mem 15).mig = [m] ∧ m.arrange = some a ∧ m.begun = true ∧ s.findObj m.obj = some o ∧ (s.ctx m.done.ring).cq.dev = false ∧ s.findObj a.dst = some o
      ∧ s.tmarks = [] ∧ s.fld FLT_INJ_CTL.ACTIVE 0 = 0 ∧ o.ova % 65536 = 0 ∧ s.inPool m.ctx o.ova = false ∧ (s.pte m.ctx o.ova).present = true
      ∧ (s.pte m.ctx o.ova).tier = .trunk ∧ (s.pte m.ctx o.ova).frame * 65536 < rootBase ∧ (s.pte m.ctx o.ova).big = false
      ∧ (arranged (s.objBytes m.obj (m.first * 65536) (arrangeSrc a.n a.k (elemBits a.wfmt))) a.n a.k a.kg a.wfmt).length ≤ 65536 := by decide +kernel

/-- Context 4095 owns instance 15, which is in state `st`, and `d` is next to start. -/
def owner (d : Desc) (st : Nat) (x : Inst) (c : Ctx := {}) : State :=
  ((({ ready d c with insts := [(15, { x with owner := 4095 })] }).setFld HUB_CAP_RES.PART_PRESENT 0 65535).setFld PRT_ISO_GRP.GROUP_MASK 15 32768).setIState 15 st

/-- A period and a start for both forms of TRAIL_START. -/
theorem test_trailDescriptors_start : ∀ e ∈ [State.reset.lead 0, State.reset.lead 0 + 5],
    let d := desc 0x0A [(8, e), (16, 0)]
    let s := owner d 1 { image := { period := 1000 } }
    let t := s.modCtx 4095 fun c => { c with started := c.started.tail }
    s.RingReady 4095 d ∧ s.instOf 15 = 15 ∧ t.startCheck 4095 d = 0 ∧ (s.inst 15).image.scope = 0 ∧ d.isStart false = true ∧ (s.inst 15).ringTick (d.le 8 8) = true
      ∧ t.startOk 15 (BitVec.ofNat 384 (beNat ((d.bytes.drop 16).take 48))) = true := by decide +kernel

theorem test_trailDescriptors_stop :
    let d := desc 0x0A [(8, State.reset.lead 0 * 1000)] 2
    let s := owner d 3 { image := { period := 1000 } }
    let t := s.modCtx 4095 fun c => { c with started := c.started.tail }
    s.RingReady 4095 d ∧ s.instOf 15 = 15 ∧ t.startCheck 4095 d = 0 ∧ (s.inst 15).image.scope = 0 ∧ d.isStart true = true ∧ s.iState 15 = 3
      ∧ (s.inst 15).isBoundary (d.le 8 8) = true ∧ (s.inst 15).stopAt = none := by decide +kernel

theorem test_snapshots_accept :
    let d := desc 0x0C [(8, State.reset.lead 0 * 1000), (0x10, 2 ^ 20 - 1)]
    let s := owner d 3 { image := { period := 1000 } }
    s.RingReady 4095 d ∧ s.instOf 15 = 15 ∧ d.opcode = 0x0C ∧ d.clean 1 [(8, 8), (0x10, 4)] = true ∧ d.le 0x10 4 < 2 ^ 20 ∧ s.inGroup 15 = true
      ∧ (s.inst 15).owner = 4095 ∧ s.trailActive 15 = true ∧ s.now + s.lead (s.inst 15).image.scope ≤ d.le 8 8
      ∧ (s.inst 15).isBoundary (d.le 8 8) = true ∧ (s.inst 15).image.scope = 0 := by decide +kernel

/-- Snapshot `g` of instance 15's owner into a Root object of one tile. -/
def snapping (g : Snap) : State :=
  { owner (desc 0x0F []) 3 {} { objs := [obj 7 0 65536 1], pages := [(1, { frame := rootFrame 15 3, tier := .root, present := true })] } with snaps := [(15, [g])] }

theorem test_snapshots_capture : let g : Snap := { snapId := 7, e := 0, sdid := 0, seq := 1, done := none }
    let s := snapping g
    s.snapsOf 15 = [g] ∧ g.own = none ∧ g.data = none ∧ g.e ≤ s.now ∧ s.opTurn 15 g.key = true ∧ s.snapCheck (s.inst 15).owner g.snapId = 0 := by
  decide +kernel

/-- A captured snapshot of 64 KiB, whose copy can end and whose completion has room. -/
theorem test_snapshots_end : let bs : List Byte := List.replicate 65536 0
    let g : Snap := { snapId := 7, e := 0, sdid := 0, seq := 1, done := some ⟨4095, 0, 1, 12, false⟩, data := some bs }
    let s := snapping g
    let o := obj 7 0 65536 1
    bs.length = 65536 ∧ s.snapsOf 15 = [g] ∧ g.own = none
      ∧ ((s.inst 15).owner = 4095 ∧ (s.inst 15).image.scope = 0 ∧ s.snapFree = [] ∧ s.findObj (4095 * 2 ^ 20 + g.snapId) = some o ∧ o.ova % 65536 = 0)
      ∧ ((s.pte 4095 o.ova).present = true ∧ (s.pte 4095 o.ova).tier = .root ∧ (s.pte 4095 o.ova).big = false ∧ rootBase ≤ (s.pte 4095 o.ova).frame * 65536)
      ∧ (s.ctx 4095).cq.dev = false ∧ (s.ctx 4095).adopting = false ∧ (s.ctx 4095).held = [] ∧ s.ringLive 4095 = true
      ∧ cqUsed (s.ctx 4095) < (s.ctx 4095).cq.entries := by
  refine ⟨List.length_replicate, rfl, rfl, ⟨?_, ?_, rfl, ?_, ?_⟩, ⟨?_, ?_, ?_, ?_⟩, ?_, ?_, ?_, ?_, ?_⟩ <;> decide +kernel

theorem test_migration_accept :
    let d := desc 0x0D [(8, 4095), (0xA, 255), (0x10, State.reset.lead 2)]
    let s := (adminReady d).setCState 4095 1
    s.RingReady 4096 d ∧ d.opcode = 0x0D ∧ d.clean 1 [(8, 2), (0xA, 1), (0xC, 4), (0x10, 8)] = true ∧ d.le 8 2 = 4095 ∧ d.le 0xA 1 ≠ s.sdid
      ∧ s.cLive 4095 = true ∧ s.migOf 4095 = none ∧ s.ownedTrails 4095 = [] ∧ s.now + s.lead (if s.boardPeer (d.le 0xA 1) = true then 1 else 2) ≤ d.le 0x10 8 := by
  decide +kernel

/-- Context 4095 migrates, in phase `n`. -/
def leaves (n : Nat) : MigOut := { ctx := 4095, dest := 1, e := 0, d := 0, b := 0, seq := 0, done := none, phase := n, left := [262143, 245760] }
def lands : MigIn := { sdid := 1, srcCtx := 0, dest := true, ctx := 4095, e := 0, b := 0, epoch := 255, seq := 0 }

theorem test_migration_ticks :
    (let s : State := { State.reset with migs := [leaves 0] }
     s.migOf 4095 = some (leaves 0) ∧ (leaves 0).phase = 0 ∧ (leaves 0).e ≤ s.now ∧ (leaves 0).refused = false ∧ s.migIns = [])
    ∧ (let s : State := { State.reset.setCtx 4095 { pages := [(1, {})] } with migIns := [lands] }
       s.migOf 4095 = none ∧ (s.ctx 4095).eq.dev = false ∧ s.migIns = [lands] ∧ lands.dest = true ∧ lands.ctx = 4095 ∧ lands.b ≤ s.now ∧ lands.past = false
         ∧ (s.ctx 4095).pages.find 1 ≠ none)
    ∧ (let s : State := { State.reset with migs := [leaves 3] }
       s.migOf 4095 = some (leaves 3) ∧ (leaves 3).phase = 3 ∧ 262143 ∈ (leaves 3).left ∧ (leaves 3).left.erase 262143 ≠ [] ∧ s.migIns = []) := by decide +kernel

/-! ### Profiles -/

/-- PROFILE_SET to each profile, with nothing under way and with an operation of partition 15 under way. -/
theorem test_profilesAndWatch_set : ∀ n ∈ [0, 3, 4], ∀ busy ∈ [true, false],
    let d := desc 0x11 [(8, n)]
    let s := (adminReady d).setFld HUB_CAP_RES.PART_PRESENT 0 32768 |>.setCore 511 { ops := if busy then [{ id := 3, word := word 0x30, started := true }] else [] }
    let t := s.modCtx 4096 fun c => { c with started := c.started.tail }
    s.RingReady 4096 d ∧ d.opcode = 0x11 ∧ d.clean 1 [(8, 1)] = true ∧ d.le 8 1 = n ∧ t.profileRefused n = false
      ∧ ((t.darkParts n).foldl State.partReset t).partsQuiet (t.darkParts n) = !(busy && decide (n ≠ 0)) := by decide +kernel

/-- A profile change whose parts have gone dark, one whose parts may go, and one that waits for an operation. -/
theorem test_profilesAndWatch_end : ∀ n ∈ [0, 3], ∀ dark ∈ [true, false], ∀ busy ∈ [true, false],
    let j : ProfJob := ⟨none, n, dark⟩
    let s := (((State.reset.modPower fun p => { p with prof := some j }).setFld HUB_CAP_RES.PART_PRESENT 0 65535).setFld RTF_STATUS.STATE 15 2).setCore 511
      { ops := if busy then [{ id := 3, word := word 0x30, started := true }] else [] }
    s.power.prof = some j ∧ j.profile ≤ 3 ∧ j.dark = dark ∧ s.partsQuiet (s.darkParts j.profile) = !(busy && decide (n ≠ 0))
      ∧ ∀ t, t < 16 → s.fld RTF_STATUS.STATE t ≠ 1 := by decide +kernel

theorem test_profilesAndWatch_exit : ∀ l ∈ [[], [4]],
    let s := (State.reset.modPower fun p => { p with on := true, stages := l }).setFld PWR_STATUS.PROFILE 0 4
    s.running = true ∧ s.mayLeave = true ∧ s.fld TRK_STATUS.STATE 0 = 0 := by decide +kernel

/-! ### Network time -/

/-- The time unit in state `st` with time source `src`. -/
def clock (st src : Nat) (n : Ntu := {}) : State := ({ State.reset with ntu := n }).setFld NTU_STATUS.STATE 0 st |>.setFld NTU_CTL.TSRC 0 src

theorem test_networkTimeCounter_step :
    (∀ f ∈ [true, false], let s := clock 2 4 { stepWant := some (-4000), stepFirst := f, tick := 5 }
     s.ntu.stepWant = some (-4000) ∧ (s.stepBlocked = false ∨ s.ntu.stepFirst = true) ∧ s.evtClass 0xA 0x7 ≠ 2)
    ∧ (clock 2 3).tsrc ≠ 4 ∧ ((clock 2 4).tsrc = 4 ∧ (clock 2 4).dState = 2 ∧ (clock 2 4).fld NTU_TOD_SET.SEC 0 + 1 < 2 ^ 48)
    ∧ (clock 2 4).ntu.ns < 1000 ∧ (clock 2 4).fld HIF_STATUS.READY 0 ≠ 1
    ∧ (let s := (clock 2 4).setFld HIF_STATUS.READY 0 1; s.fld HIF_STATUS.READY 0 = 1)
    ∧ (let s := clock 2 4 { elapsed := 1500000 }; s.tsrc = 4 ∧ s.dState = 2 ∧ s.ntu.lastPps + 1500000 ≤ s.ntu.elapsed)
    ∧ (let s := clock 2 4 { elapsed := 3000000 }; s.dState = 2 ∧ s.ntu.lastMeas + 3000000 ≤ s.ntu.elapsed)
    ∧ (∀ st ∈ [0, 1, 2, 3], (clock st 15).dState = st ∧ 8 ≤ (clock st 15).tsrc)
    ∧ (let s := ((clock 2 8).setFld NTU_CTL.TIME_LEADER 0 1).setFld ZXL_LNK_STATUS.STATE 7 4 |>.setLink 7 { credits := [1, 0, 0] }
       s.fld NTU_CTL.TIME_LEADER 0 = 1 ∧ s.tsrc ≠ 15 ∧ s.fld ZXL_LNK_STATUS.STATE 7 = 4 ∧ (s.link 7).waiting = [] ∧ 1 ≤ (s.link 7).credits.getD 0 0) := by
  decide +kernel

theorem test_networkTimeSources :
    (∀ n ∈ [1, 3], let s := ((clock 0 4).setFld NTU_CTL.FSRC 0 n).setFld NTU_STATUS.REF_PRESENT 0 1
     s.dState = 0 ∧ s.tsrc ≠ 0 ∧ s.fld NTU_CTL.FSRC 0 = n ∧ s.fld NTU_STATUS.REF_PRESENT 0 = 1)
    ∧ (∀ n ∈ [1, 3], let s := (clock 2 4 { pllLocked := true }).setFld NTU_CTL.FSRC 0 n
     s.fld NTU_CTL.FSRC 0 = n ∧ s.dState ≠ 3 ∧ s.evtClass 0xA 0x7 ≠ 2 ∧ s.ntu.pllLocked = true)
    ∧ (∀ other ∈ [some 2, none], ∀ n ∈ [3, 4], let s := (clock 2 n { ranks := [other, none], elapsed := 3000000 }).setFld NTU_PTP_CFG.DOMAIN 0 9
       s.ntu.ranks.length = 2 ∧ s.fld NTU_PTP_CFG.DOMAIN 0 = 9 ∧ s.evtClass 0xA 0x7 ≠ 2 ∧ s.tsrc = n ∧ s.ntu.ranks.getD (1 - 1) none = other
         ∧ s.ntu.lastAnn.getD 1 0 + 3000000 ≤ s.ntu.elapsed ∧ s.ntu.ranks.getD (1 - 0) none = none) := by decide +kernel

theorem test_networkTimeSources_exchange :
    (let s := clock 2 2 { ex := [{}, { seq := 65535, waitFollow := true }] }
     (s.ntu.ex.getD 1 {}).waitFollow = true ∧ (s.ntu.ex.getD 1 {}).seq = ({ hdr 24 0 with seq := 65535 } : PtpHdr).seq.toNat ∧ (s.ntu.ex.getD 1 {}).asked = false)
    ∧ (∀ p ∈ [0, 1], let s := ((clock 2 2).setFld NTU_PTP_CFG.DOMAIN 0 9).setFld NTU_PTP_CFG.TRANSPORT 0 2 |>.setFld NTU_PTP_CFG.PROFILE 0 p
       s.ptpMine (hdr 9 (if p = 1 then 0 else 2)) = true ∧ s.ptpMine (hdr 9 1) = false ∧ s.ptpMine (hdr 8 0) = false)
    ∧ (let s := (clock 2 2 { ex := [{}, { haveSync := true, asked := true, reqSeq := 65535 }], acquired := true }).setFld NTU_STATUS.TSRC_ACTIVE 0 2
       let h : PtpHdr := { hdr 24 0 with seq := 65535 }
       s.ptpMine h = true ∧ (s.ntu.ex.getD 1 {}).asked = true ∧ (s.ntu.ex.getD 1 {}).haveSync = true
         ∧ h.seq.toNat = (s.ntu.ex.getD 1 {}).reqSeq ∧ s.tsrc = 2 ∧ s.fld NTU_STATUS.TSRC_ACTIVE 0 = 2 ∧ s.dState = 2 ∧ s.ntu.acquired = true) := by decide +kernel

/-- Boundary values of both limits: the least lead that the guards allow, and one less. -/
theorem test_leadAndGuardLimits : ∀ n ∈ [3, 2],
    let s := (State.reset.setReg .NTU_GUARD 0 (NTU_GUARD.BOARD_GUARD.put (NTU_GUARD.SPAN_GUARD.put 0 1000) 1000)).setReg .NTU_LEAD 0
      (NTU_LEAD.BOARD_LEAD.put (NTU_LEAD.SPAN_LEAD.put 0 n) n)
    let v := NTU_LEAD.BOARD_LEAD.put (NTU_LEAD.SPAN_LEAD.put 0 n) n
    let w := NTU_GUARD.BOARD_GUARD.put (NTU_GUARD.SPAN_GUARD.put 0 1000) 1000
    (decide (2 * s.fld NTU_GUARD.BOARD_GUARD 0 + 1000 ≤ NTU_LEAD.BOARD_LEAD.of v * 1000
      ∧ 2 * s.fld NTU_GUARD.SPAN_GUARD 0 + 1000 ≤ NTU_LEAD.SPAN_LEAD.of v * 1000) = decide (n = 3))
    ∧ (decide (2 * NTU_GUARD.BOARD_GUARD.of w + 1000 ≤ s.fld NTU_LEAD.BOARD_LEAD 0 * 1000
        ∧ 2 * NTU_GUARD.SPAN_GUARD.of w + 1000 ≤ s.fld NTU_LEAD.SPAN_LEAD 0 * 1000) = decide (n = 3)) := by decide +kernel

/-- Bytes with fields by offset. -/
def sumBytes (n : Nat) (fs : List (Nat × Nat)) : List Byte := leBytes ((fs.map fun e => e.2 * 256 ^ e.1).sum) n

/-- An image of one core with one instruction word, for partition 15 alone, with its digest. -/
def image : List Byte :=
  sumBytes 448 [(0, 0x4C494154), (6, 1), (8, 448), (0x18, 16777215), (0x1C, 32768), (0x20, 64), (0x22, 4096), (0x30, 7), (0x40, 320), (0x44, 1), (0x80, 256), (0x84, 1),
    (0x90, 13218875413429927323964256275755641137940644591018661906047317911697823862095206012984968521538791323897655393421882), (260, 32768),
    (320, 511 + 128 * 65536), (324, 384), (328, 64)]

theorem test_trailDescriptors_load :
    let d := desc 0x09 [(16, 448)]
    let s : State := { owner d 0 {} with host := setBytes [] ((owner d 0 {}).hostKey 4095 0) image }
    let t := s.modCtx 4095 fun c => { c with started := c.started.tail }
    s.RingReady 4095 d ∧ s.instOf 15 = 15 ∧ d.opcode = 0x09 ∧ d.clean 1 [(8, 8), (16, 8), (24, 1)] = true ∧ d.le 24 1 ≤ 1 ∧ d.le 8 8 % 64 = 0 ∧ s.inGroup 15 = true
      ∧ t.notOwner 15 4095 = false ∧ t.readSpace 4095 (maskBit (d.le 24 1) 0) (d.le 8 8) (d.le 16 8) = some image
      ∧ t.loadCheck 15 (s.groupMask 15) image (d.le 16 8) = 0 ∧ ((readImage image).cores.map CoreEnt.lcid) = [511] := by decide +kernel

/-! ### Registers -/

theorem test_hostRegisterWrites :
    (∀ o ∈ [0, 0x40], ∃ e, (State.reset.setFld HIF_STATUS.READY 0 1).regAt .pf0 o = some e ∧ e.1 ∈ [RegId.HUB_ID, .HUB_CAP_RES]) ∧ State.reset.fld HIF_STATUS.READY 0 ≠ 1
    ∧ (State.reset.setFld HIF_STATUS.READY 0 1).fld HIF_STATUS.READY 0 = 1 := by
  refine ⟨?_, by decide +kernel, by decide +kernel⟩
  intro o h
  simp only [List.mem_cons, List.not_mem_nil, or_false] at h
  rcases h with rfl | rfl
  · exact ⟨(.HUB_ID, 0), by decide +kernel⟩
  · exact ⟨(.HUB_CAP_RES, 0), by decide +kernel⟩

theorem test_registersWithRules_bounds :
    State.reset.lockOpen 15 = true ∧ (owner (desc 0x0F []) 3 {}).lockOpen 15 = false
    ∧ (let v := PRT_TBB_I.IBASE.put (PRT_TBB_I.IBOUND.put 0 1) 16383; PRT_TBB_I.IBASE.of v + PRT_TBB_I.IBOUND.of v = 16384)
    ∧ (let v := PRT_TBB_C.CBASE.put (PRT_TBB_C.CBOUND.put 0 2097152) 0
       PRT_TBB_C.CBASE.of v + PRT_TBB_C.CBOUND.of v = 2097152 ∧ PRT_TBB_C.CBASE.of v % 64 = 0 ∧ PRT_TBB_C.CBOUND.of v % 64 = 0)
    ∧ (let s := State.reset.setFld PRT_KV_CFG.BKT_COUNT 15 1; s.lockOpen 15 = true ∧ ∀ k, ¬ k + 1 < s.fld PRT_KV_CFG.BKT_COUNT 15)
    ∧ PRT_XL_CFG.STAGE_MIB.of (PRT_XL_CFG.STAGE_MIB.put 0 32768) = 32768 := by
  refine ⟨by decide +kernel, by decide +kernel, by decide +kernel, by decide +kernel, ⟨by decide +kernel, ?_⟩, by decide +kernel⟩
  intro k
  have h : (State.reset.setFld PRT_KV_CFG.BKT_COUNT 15 1).fld PRT_KV_CFG.BKT_COUNT 15 = 1 := by decide +kernel
  omega

theorem test_registersWithRules_shares :
    (let s := (List.range 15).foldl (fun s k => s.setReg .TRK_REG (15 * 16 + k) 0) State.reset
     let v := TRK_REG.SHARE.put 0 2240
     (((List.range 16).filter (· ≠ 15)).map fun k => s.fld TRK_REG.SHARE (15 * 16 + k)).sum + TRK_REG.SHARE.of v = 2240 ∧ (s.stack 15).regNow.find 15 = none)
    ∧ (∀ p ∈ [0, 3], let s := ((List.range 15).foldl (fun s k => s.setReg .RTF_SLOT (15 * 16 + k) 0) State.reset).setFld PWR_STATUS.PROFILE 0 p
       let n := if p = 3 then 24 else 100
       (((List.range 16).filter (· ≠ 15)).map fun k => s.fld RTF_SLOT.SLOTS (15 * 16 + k)).sum + RTF_SLOT.SLOTS.of (RTF_SLOT.SLOTS.put 0 n)
         ≤ (if s.fld PWR_STATUS.PROFILE 0 = 3 then 24 else 100))
    ∧ (let s := (List.range 15).foldl (fun s k => s.setReg .PRT_CLP_BUD (15 * 16 + k) 0) State.reset
       (((List.range 16).filter (· ≠ 15)).map fun k => s.fld PRT_CLP_BUD.BUDGET (15 * 16 + k)).sum + PRT_CLP_BUD.BUDGET.of (PRT_CLP_BUD.BUDGET.put 0 8192) ≤ 8192) := by
  decide +kernel

theorem test_registersWithRules_classes :
    (∀ v ∈ [0, 1, 2], FLT_SEV_CFG.SEV.of (FLT_SEV_CFG.SEV.put 0 v) ≤ 2) ∧ (∃ e, e < 16 ∧ evtDefault e ≤ 2) ∧ (∃ e, e < 16 ∧ 0 < evtDefault e ∧ evtDemotable e = false)
    ∧ ∀ k, k < 16 → (State.reset.inst k).image.scope = 2 → State.reset.trailActive k = false := by decide +kernel

/-! ### Links -/

/-- Link `l` in state `st`. -/
def linked (l st : Nat) (x : Link := {}) : State := (State.reset.setFld ZXL_LNK_STATUS.STATE l st).setLink l x

theorem test_linkFrames :
    (let s := linked 7 4; let f := frame 7 []; s.fld ZXL_LNK_STATUS.STATE 7 = 4 ∧ f.crcOk = true ∧ f.seq.toNat = (s.link 7).rxSeq ∧ (s.link 7).rxSeq < 4096
      ∧ (s.link 7).waiting = [])
    ∧ (let g : TxFrame := { typ := 3, vc := 0, dst := 0xFF, seq := 5 }; let s := linked 7 4 { unacked := [g] }; let f := { frame 7 [] with arg := 5#64 }
       let left := (s.link 7).unacked.filter fun g => ((f.arg.toNat + 4095) % 4096 + 4096 - g.seq) % 4096 ≥ 2048
       left ≠ [] ∧ left = (s.link 7).unacked ∧ (s.link 7).replays < 3)
    ∧ { frame 7 [] with crcOk := false }.crcOk = false ∧ (linked 7 4).NoInjection
    -- an injection armed for the last lane of link 7 that changes two bits of a codeword
    ∧ (let s : State := { (linked 7 4).setFld FLT_INJ_CTL.ACTIVE 0 1 with flt := { injSource := 0x77F, injMask := 3 } }
       s.fld ZXL_LNK_STATUS.STATE 7 = 4 ∧ (s.fecHit 0x70 7).1 = some true) := by decide +kernel

theorem test_sequencedFrames_order : ∀ n ∈ [0, 1, 2047, 2048, 4095],
    let s := linked 7 4; let f := { frame 7 [] with seq := BitVec.ofNat 12 n }
    s.NoInjection ∧ s.fld ZXL_LNK_STATUS.STATE 7 = 4 ∧ f.crcOk = true ∧ (s.link 7).rxSeq < 4096 ∧ (f.seq.toNat + 4096 - (s.link 7).rxSeq) % 4096 = n := by decide +kernel

theorem test_sequencedFrames_time : ∀ st ∈ [2, 3],
    let s := (((linked 7 4).setFld NTU_CTL.TSRC 0 15).setFld NTU_STATUS.STATE 0 2).modNtu fun n => { n with acquired := true }
    let t : TimeInfo := { t1 := 0, t2 := 0, t3 := 0, t4 := 0, te := 1, state := BitVec.ofNat 4 st }
    let f := { frame 7 [] with hops := 6#8 }
    s.fld ZXL_LNK_STATUS.STATE 7 = 4 ∧ f.crcOk = true ∧ s.tsrc = 8 + 7 ∧ f.hops.toNat < 7 ∧ (t.state = 2 ∨ t.state = 3) ∧ s.dState = 2 ∧ s.ntu.acquired = true := by
  decide +kernel

/-- Instance 15 of two members, owned by context 4095, with link 7 active. -/
def twoBoards (k : Core := {}) : State :=
  let m : Member := ⟨0, 0, 0, 32768, 0⟩
  let s := trail 3 { image := { scope := 1, period := 1000, trailId := 9, members := [m, m] }, owner := 4095 }
  (({ s with ctxs := [(4095, { pages := [(1, { frame := 1, w := true, present := true })] })] }).setCore 511 k).setFld ZXL_LNK_STATUS.STATE 7 4

theorem test_sequencedFrames_block :
    let s := twoBoards
    let f := { frame 7 (List.replicate 64 1) with arg := BitVec.ofNat 64 (2 ^ 63 + 131072 - 64) }
    let e := s.pte (s.inst 15).owner (f.arg.toNat % 2 ^ 48)
    s.frameInst f.src.toNat f.dst.toNat = some 15 ∧ s.memberIdx 15 = f.dst.toNat ∧ f.arg.getLsbD 63 = true ∧ f.land = false ∧ f.payload.length = 64 ∧ f.arg.toNat % 2 ^ 48 % 64 = 0
      ∧ f.last = true ∧ s.rx = [] ∧ e.present = true ∧ e.w = true ∧ e.mig = false ∧ e.epoch = f.epoch.toNat ∧ e.tier = .trunk
      ∧ e.dpa (f.arg.toNat % 2 ^ 48) < 0x10000000000 ∧ s.mustCheck (e.dpa (f.arg.toNat % 2 ^ 48)) 64 = false
      ∧ s.claspOn (s.inst 15).owner (f.arg.toNat % 2 ^ 48) 64 = false := by decide +kernel

theorem test_sequencedFrames_response :
    let o : Op := { id := 3, word := word 0x34, remote := true }
    let s := twoBoards { ops := [o] }
    let f := { frame 7 [] with arg := BitVec.ofNat 64 (256 * (511 * 2 ^ 23 + 3)) }
    s.frameInst f.src.toNat f.dst.toNat = some 15 ∧ s.memberIdx 15 = f.dst.toNat ∧ f.arg.toNat % 256 = 0 ∧ o.flag = none ∧ o.adm = none
      ∧ f.arg.toNat / 256 % 2 ^ 32 / 2 ^ 23 = 511
      ∧ (s.core 511).ops.find? (fun o => o.remote ∧ o.id % 2 ^ 23 = f.arg.toNat / 256 % 2 ^ 32 % 2 ^ 23) = some o := by decide +kernel

theorem test_sequencedFrames_tile :
    let s := (twoBoards { cells := [(2046, { base := 64, size := 128 })] }).setReg .PRT_ISO_BIND 511 (PRT_ISO_BIND.CTX.put (PRT_ISO_BIND.VALID.put 0 1) 4095)
    let f := { frame 7 (List.replicate 64 1) with arg := BitVec.ofNat 64 (511 + 2046 * 512 + 64 * 2 ^ 24) }
    let cell := s.cell (wbits f.arg 8 0) (wbits f.arg 19 9)
    wbits f.arg 8 0 = 511 ∧ f.arg.getLsbD 63 = false ∧ s.boundCtx 511 = some 4095 ∧ s.fld VF_CTX_STATUS.EPOCH 4095 = f.epoch.toNat ∧ cell.full = false
      ∧ cell.claimed = false ∧ cell.size ≠ 0 ∧ f.payload.length = 64 ∧ wbits f.arg 47 24 + 64 = cell.size ∧ (cell.base + wbits f.arg 47 24) % 64 = 0
      ∧ s.NoInjection ∧ s.NoHeld 511 := by decide +kernel

theorem test_sequencedFrames_members : ∀ sev ∈ [0, 2],
    let s := twoBoards
    let r : PeerFault := { source := 0, evt := 0, flags := sev, tick := 0, loc := 0, value := 0, retired := true }
    (r.retired = true ∧ r.flags.toNat % 4 = sev ∧ 1 ∉ (s.inst 15).retired ∧ 1 < (s.inst 15).image.members.length ∧ s.trailActive 15 = true)
      ∧ { frame 7 [] with dst := 0xFF }.dst = 0xFF ∧ s.trailsOf 9 = [15] ∧ s.ntu.ns < 1000 ∧ s.ntu.tick + 2 ≤ 2 ∧ s.iState 15 = 3 ∧ (s.inst 15).stopAt = none ∧ (s.inst 15).slipAt = none := by
  decide +kernel

theorem test_linkStates :
    (State.reset.setFld ZXL_LNK_CTL.EN 7 0).fld ZXL_LNK_CTL.EN 7 = 0
    ∧ (let s := ((linked 7 1).setFld ZXL_LNK_CTL.EN 7 1).setFld ZXL_BOARD.ENUM_DONE 0 1
       s.fld ZXL_LNK_STATUS.STATE 7 = 1 ∧ s.fld ZXL_LNK_CTL.EN 7 = 1 ∧ s.fld ZXL_BOARD.ENUM_DONE 0 = 1)
    ∧ (∀ st ∈ [2, 3], (linked 7 st).fld ZXL_LNK_STATUS.STATE 7 = st ∧ (frame 7 []).link = 7 ∧ (frame 7 []).crcOk = true)
    ∧ (∀ l ∈ [0, 7], let caps : LinkCaps := ⟨0xFFFF, if l = 0 then 0 else 1, if l = 0 then 1 else 0, 1, 0, 511, 1, 1, 1⟩
       let s := linked l 3 { caps := some caps }
       s.fld ZXL_LNK_STATUS.STATE l = 3 ∧ (s.link l).caps = some caps ∧ (s.link l).waiting = [] ∧ s.cableOk l caps = true
         ∧ caps.versions.toNat &&& s.fld ZXL_CAP.ZXP_VERSIONS 0 ≠ 0 ∧ caps.goodLanes = 511 ∧ s.fld ZXL_LNK_STATUS.RETIRED l = 0 ∧ (s.link l).spareFor = none)
    ∧ State.reset.fld HIF_STATUS.READY 0 ≠ 1
    ∧ (let s : State := { linked 7 5 with ntu := { elapsed := 10000 } }
       s.fld ZXL_LNK_STATUS.STATE 7 = 5 ∧ (s.link 7).waiting = [] ∧ (s.link 7).since + 10000 ≤ s.ntu.elapsed)
    ∧ (let s := (linked 7 4).setFld ZXL_LNK_STATUS.WIDTH 7 8
       s.fld ZXL_LNK_STATUS.STATE 7 = 4 ∧ s.fld ZXL_LNK_STATUS.WIDTH 7 = 8 ∧ s.fld ZXL_LNK_STATUS.RETIRED 7 = 0 ∧ (s.link 7).spareFor = none ∧ s.evtClass 7 5 ≠ 2
         ∧ (s.setFld HIF_STATUS.READY 0 1).fld HIF_STATUS.READY 0 = 1) := by
  decide +kernel

/-- Queue pair 8191 of context 4095, of kind `k`, on a port that is up. -/
def paired (k : Nat) : State :=
  ((((State.reset.setCtx 4095 { objs := [obj 7 0 65536 1], pages := [(1, { frame := 1, present := true })] }).setCState 4095 1).setReg .ETH_QP_CFG 8191
    (ETH_QP_CFG.VALID.put (ETH_QP_CFG.KIND.put (ETH_QP_CFG.CTX.put 0 4095) k) 1))).setFld ETH_PORT_STATUS.LINK_UP 0 1

theorem test_ethernet :
    (∀ k ∈ [0, 1, 3], let s := paired k
     s.fld ETH_QP_CFG.VALID 8191 = 1 ∧ s.fld ETH_PORT_STATUS.LINK_UP (s.fld ETH_QP_CFG.PORT 8191) = 1 ∧ s.fld ETH_QP_CFG.CTX 8191 = 4095 ∧ s.cLive 4095 = true
       ∧ s.fld ETH_QP_CFG.KIND 8191 = k)
    ∧ (let s := paired 0; let rkey := 4095 * 2 ^ 20 + 7; let va := 65535
       s.rdmaOk 4095 rkey va 2 = false ∧ s.rdmaOk 4095 rkey va 1 = true ∧ s.findObj rkey = some (obj 7 0 65536 1) ∧ (s.ctx 4095).sq.dev = false
         ∧ (s.ctx 4095).cq.dev = false ∧ (65536 + va) % 65536 + 1 = 65536 ∧ (s.pte 4095 (65536 + va)).dpa (65536 + va) + 1 ≤ 0x10000000000
         ∧ s.inPool 4095 (65536 + va) = false ∧ s.NoInjection)
    ∧ (let s := (clock 2 1).setFld NTU_STATUS.TSRC_ACTIVE 0 1
       s.tsrc ∈ [1, 2, 3] ∧ s.fld NTU_STATUS.TSRC_ACTIVE 0 = 1 ∧ s.dState = 2)
    ∧ (∀ n ∈ [16, 35], n / 4 = 4 ∨ n / 4 = 8) ∧ State.reset.NoInjection := by decide +kernel

/-! ### Trunk -/

/-- Stack 15 online, its arbiter not partitioned, with mark `m` on the last sector below the map area. -/
def stack15 (m : Mark) (x : Stack := {}) : State :=
  { ((State.reset.setFld TRK_STATUS.STATE 15 2).setFld TRK_ARB_CFG.MODE 15 0) with
    tmarks := if m = .clean then [] else [(trunkDpa 15 (mapArea - 32) / 32, m)], hbm := [(15, x)] }

theorem test_trunkAccesses_access : ∀ m ∈ [Mark.clean, .poison, .ce, .ue],
    let s := stack15 m
    let o := mapArea - 32
    let p := s.trunkPlaceNow 15 o
    o < 0x1000000000 ∧ o % 32 = 0 ∧ s.tkServes 15 = true ∧ s.NoInjection ∧ (s.stack 15).used = [] ∧ (s.stack 15).burst = none ∧ (s.stack 15).remaps = []
      ∧ (s.stack 15).recentRows = [] ∧ s.trkMode 15 ≠ 2 ∧ s.stackLevel 15 ≤ 3 ∧ s.tmarks.get .clean (trunkDpa 15 o / 32) = m ∧ s.evtClass 4 3 ≠ 2
      ∧ s.evtClass 4 1 ≠ 2 ∧ s.evtClass 4 2 ≠ 2 ∧ s.flt.buckets.get 0 (bkRow 15 p.1 p.2.1 p.2.2) + 1 < s.fld FLT_LEAK.THRESH 0
      ∧ (s.stack 15).rewriteQ.length < 64 ∧ trunkDpa 15 o / 32 ∉ (s.stack 15).rewriteQ ∧ s.ctxs = [] ∧ o < mapArea ∧ s.mapAt 15 o = none
      ∧ (s.stack 15).pend = [] ∧ (s.stack 15).shut = false ∧ s.claspHolds s.arrivals (trunkDpa 15 o) 32 = false := by decide +kernel

/-- A read that waits: for the window, behind an earlier one, behind a clasp operation on its sector; and the window that grants it. -/
theorem test_trunkAccesses_waits :
    let dpa := trunkDpa 15 (mapArea - 32)
    let r : TrkReq := { part := 3, dpa := dpa, crit := true, data := none, seen := [], arr := 0 }
    ((stack15 .clean { shut := true }).stack 15).shut = true
    ∧ (∃ e ∈ ((stack15 .clean { pend := [r] }).stack 15).pend, e.part = 3 ∨ e.dpa = dpa)
    ∧ (let s : State := { stack15 .clean { clasp := [{ part := 15, drv := false, word := recOf (sumBytes 64 [(0, 1), (8, 15 * 2 ^ 36), (0x18, dpa), (0x24, 32)]) }] } with
         arrivals := 1 }
       s.claspHolds s.arrivals dpa 32 = true)
    ∧ (let s := stack15 .clean { pend := [r], shut := true }
       (s.stack 15).pend = [r] ∧ s.tmarks.get .clean (dpa / 32) = .clean ∧ s.NoInjection ∧ (s.stack 15).burst = none ∧ (s.stack 15).remaps = []
         ∧ (s.stack 15).clasp = [] ∧ TRK_ARB_CFG.MODE.of (s.reg .TRK_ARB_CFG 15) ≠ 2 ∧ s.stackLevel 15 ≤ 3 ∧ s.tkServes 15 = true) := by decide +kernel

theorem test_trunkAccesses_upkeep :
    (∀ m ∈ [Mark.ce, .cb], let j := trunkDpa 15 (mapArea - 32) / 32; let s := stack15 m { rewriteQ := [j] }
     (s.stack 15).rewriteQ = j :: [] ∧ s.tmarks.get .clean j = m)
    ∧ (let s := (stack15 .poison).setFld TRK_CTL.SCRUB_EN 15 1
       s.fld TRK_CTL.SCRUB_EN 15 ≠ 0 ∧ s.tkServes 15 = true ∧ ∀ e ∈ s.tmarks, e.1 * 32 / 0x1000000000 = 15 → e.2 = .poison ∨ e.2 = .clean)
    ∧ (∀ b ∈ [true, false], ∀ n ∈ [3, 4], let s := stack15 .clean { clasp := [{ part := 0, drv := false, word := 0, started := b }], postponed := [(63 * 64 + 63, n)] }
       s.tkServes 15 = true ∧ (s.stack 15).clasp.any (·.started) = b ∧ (s.stack 15).postponed.get 0 (63 * 64 + 63) = n)
    ∧ (stack15 .clean).tkState 15 ≠ 0
    ∧ (let m : Remap := ⟨63, 63, 1, 2, true⟩; ((stack15 .clean { remaps := [m] }).stack 15).remaps = [m] ∧ m.copying = true) := by decide +kernel

theorem test_trunkMaintenance :
    (State.reset.tkState 15 ≠ 2 ∧ State.reset.maintOk 15 = false)
    ∧ (let s := stack15 .clean; s.tkState 15 = 2 ∧ s.fld TRK_STATUS.PC_RETIRED 15 ≠ 1)
    ∧ (let s := State.reset.setFld TRK_STATUS.STATE 15 4; s.tkState 15 = 4 ∧ s.ctxs = [] ∧ s.evtClass 4 5 ≠ 2 ∧ ∀ j, j < 16 → s.iState j ∉ [3, 6])
    ∧ (let s := (stack15 .clean).setFld RTF_STATUS.STATE 15 3; s.maintOk 15 = true)
    ∧ (let s := (State.reset.setFld TRK_STATUS.STATE 15 3).setFld TRK_CTL.MAINT 15 1; s.tkState 15 = 3 ∧ s.fld TRK_CTL.MAINT 15 = 1)
    ∧ (let s := (stack15 .clean { leaving := true }).setFld TRK_STATUS.STATE 15 3; s.tkState 15 = 3 ∧ (s.stack 15).leaving = true)
    ∧ (∀ n ∈ [0, 3], let s := (State.reset.setFld TRK_STATUS.STATE 15 3).setFld TRK_BIST_CFG.PATTERN 1023 n
       s.tkState 15 = 3 ∧ (s.stack 15).leaving = false ∧ s.fld TRK_BIST_STAT.BUSY 1023 = 0 ∧ s.fld TRK_BIST_CFG.PATTERN 1023 = n)
    ∧ (∀ n ∈ [0, 1], let s := ((State.reset.setFld TRK_BIST_STAT.BUSY 1023 1).setFld TRK_BIST_STAT.FAIL 1023 n).setFld TRK_BIST_CFG.COUNT 1023 1
       s.fld TRK_BIST_STAT.BUSY 1023 = 1 ∧ s.fld TRK_BIST_CFG.COUNT 1023 ≠ 0 ∧ s.fld TRK_BIST_STAT.FAIL 1023 = n) := by decide +kernel

/-- A ROWCOPY of one sector within stack 15. -/
def copyRec : Rec64 := recOf (sumBytes 64 [(0, 1), (4, 77), (8, 15 * 2 ^ 36), (0x18, 15 * 2 ^ 36 + 65536), (0x24, 32)])

/-- Stack 15 in state `st` with records in its queue. -/
def clasping (st : Nat) (q : List ClaspRec) : State :=
  ((List.range 8).foldl (fun s i => s.setReg .PRT_CLP_REC (120 + i) (BitVec.ofNat 64 (recLe copyRec (8 * i) 8)))
    (((stack15 .clean { clasp := q }).setFld TRK_STATUS.STATE 15 st).setFld PRT_CLP_BUD.BUDGET 255 2))

theorem test_claspUnits_records :
    claspRefusal 15 copyRec true = 0 ∧ claspRefusal 14 copyRec true ≠ 0 ∧ claspRefusal 15 copyRec false = 0 ∧ claspRefusal 15 0 false ≠ 0
    ∧ (∀ st ∈ [2, 3, 4], (clasping st []).tkState 15 = st)
    ∧ (let r : ClaspRec := { part := 15, drv := false, word := copyRec }; let s := clasping 2 []
       (s.stack 15).clasp = [] ∧ s.pcGone 15 (claspAt r.word r.done).2 = false ∧ s.claspDedicated 15 r.part = false
         ∧ s.claspActsNow 15 r.part + claspActs r.word ≤ s.fld PRT_CLP_BUD.BUDGET 255 ∧ (s.stack 15).used = [] ∧ s.trkMode 15 ≠ 2 ∧ s.stackLevel 15 ≤ 3
         ∧ (s.stack 15).shut = false ∧ s.claspLate 15 r = false)
    ∧ (let r : ClaspRec := { part := 15, drv := false, word := copyRec, started := true }
       ((clasping 3 [r]).stack 15).clasp.head?.map (·.started) = some true)
    ∧ (let r : ClaspRec := { part := 15, drv := false, word := copyRec, held := true }; let s := clasping 2 [r]
       (s.stack 15).clasp = r :: [] ∧ r.started = false ∧ s.claspActsNow 15 r.part + claspActs r.word ≤ s.fld PRT_CLP_BUD.BUDGET 255
         ∧ s.pcGone 15 (claspAt r.word r.done).2 = false ∧ s.claspDedicated 15 r.part = false ∧ s.claspLate 15 r = false) := by decide +kernel

theorem test_claspUnits_driver :
    ((clasping 3 []).setFld PRT_CLP_DRV.BUSY 15 1).fld PRT_CLP_DRV.BUSY 15 = 1
    ∧ (∀ st ∈ [2, 3], let s := clasping st [{ part := 0, drv := false, word := copyRec, started := true }]
       s.fld PRT_CLP_DRV.BUSY 15 = 0 ∧ recOf ((List.range 8).flatMap fun i => leBytes (s.reg .PRT_CLP_REC (15 * 8 + i)).toNat 8) = copyRec
         ∧ (s.tkState 15 = 3 ∨ st = 2)) := by decide +kernel

theorem test_claspUnits_end :
    (let r : ClaspRec := { part := 15, drv := true, word := copyRec, started := true }; let s := clasping 3 [r]
     let st : ClaspStatus := ⟨2, 0, 0, 0⟩
     (s.stack 15).clasp = r :: [] ∧ r.started = true ∧ s.pcGone 15 (claspAt r.word r.done).2 = false ∧ st.state = 2 ∧ st.poisMask = 0 ∧ st.corr = 0
       ∧ (s.stack 15).reissues = 0 ∧ claspRefusal 15 r.word true = 0 ∧ (claspSectors r.word (claspAt r.word r.done).2).length = 1
       ∧ (∀ e ∈ claspSectors r.word (claspAt r.word r.done).2, s.poisonedAt (claspA r.word + ((claspAt r.word r.done).1 * 65536 + e.2)) 32 = false)
       ∧ claspLogic r.word = false ∧ claspCount r.word ≤ r.done + 1)
    ∧ (let b : Burst := ⟨15, 0, 0⟩; let s := stack15 .clean { burst := some b }
       (s.stack 15).burst = some b ∧ b.stop ≤ s.ntu.elapsed ∧ (s.stack 15).clasp.any (·.started) = false) := by decide +kernel

/-! ### Window engines and Root -/

/-- A run of `entry`, its range on a page of tier `t`. -/
def running (t : Tier) (r : StreamRun) (free : Ranges) : State :=
  { gate 1 0 [entry] with
    ctxs := [(0, { objs := [⟨5, 0, 65536, 1, false, false, false, false, false, 0, 0, 0, [], 0, 0⟩]
                   pages := [(0, { frame := if t = .root then rootFrame 15 3 else 1, tier := t, present := true })] })]
    mems := [(15, { streams := [r], stageFree := free })], cores := [(0, { cells := [(0, { size := 64 })] })] }

/-- A run of `entry` over frame `f`, none of it staged. -/
def runOf (f : Nat) : StreamRun :=
  { inst := 15, entry := 0, gate := 0, base := some 0, frames := [f], gated := true, done := 0, turn := 0, staged := [], waiting := false, since := 0 }

/-- A tile to stage, with a staging frame free and a tower that serves or does not, and with none free. -/
theorem test_windowEngines_stage : ∀ free ∈ [[(1015807, 1)], []], ∀ st ∈ [2, 3],
    let r := runOf (rootFrame 15 3)
    let s := (running .root r free).setFld RTF_STATUS.STATE 15 st
    let g := rootFrame 15 3
    (s.mem 15).streams = [r] ∧ r.entry = 0 ∧ r.base = some 0 ∧ (s.inst r.inst).image.stream 0 = some entry ∧ r.frames[r.staged.length]? = some g
      ∧ rootBase ≤ g * 65536 ∧ r.waiting = false ∧ (s.rootTile 15 g (r.fresh g)).isSome = decide (st = 2) ∧ r.frames.length = r.staged.length + 1
      ∧ ((s.mem 15).stageFree.nth 0 = some 1015807 ∧ 1015807 < swFrames ∨ (s.mem 15).stageFree = []) := by decide +kernel

theorem test_windowEngines_deliver :
    let r : StreamRun := { runOf 1 with staged := [none] }
    let s := running .trunk r []
    let cl := s.cell entry.dst (r.cell entry)
    let at_ := r.dpa 15 (r.ova + r.done)
    (s.mem 15).streams = [r] ∧ r.entry = 0 ∧ r.base = some 0 ∧ (s.inst r.inst).image.stream 0 = some entry
      ∧ r.gated = true ∧ cl.full = false ∧ cl.claimed = false ∧ cl.base % 64 = 0 ∧ entry.len - r.done = 64 ∧ 64 ≤ cl.size
      ∧ (r.ova + r.done) % 65536 + 64 ≤ 65536 ∧ r.frames.length ≤ r.staged.length ∧ s.poisonedAt at_ 64 = false ∧ s.mustCheck at_ 64 = false
      ∧ s.NoHeld entry.dst ∧ (s.mem 15).held = [] := by decide +kernel

/-- Tower 15 in state `st`, whose last tile is written. -/
def tower15 (st : Nat) (x : Tower := {}) : State :=
  { ((State.reset.setFld RTF_STATUS.STATE 15 st).setFld RTF_CFG.MODE 15 0) with towers := [(15, x)], root := [(rootFrame 15 (rootTiles - 1) * 65536, 1)] }

theorem test_rootAccesses_read :
    let s := tower15 2
    let tile := rootTiles - 1
    s.now % 16 = 0 ∧ (s.tower 15).shut = false ∧ (s.tower 15).pend = [] ∧ s.rtServes 15 = true ∧ tile < rootTiles ∧ (s.tiles 15).mem tile = false ∧ (s.root.any fun e => e.1 / 65536 = rootFrame 15 tile) = true ∧ s.NoInjection
      ∧ (s.tower 15).used = [] ∧ RTF_CFG.MODE.of (s.rtfCfg 15) ≠ 1 ∧ s.towerLevel 15 ≤ 3 ∧ tile ∉ (s.tower 15).buffer ∧ s.rmarks.get .clean (rootFrame 15 tile) ≠ .poison
      ∧ (∀ d, d < 16 → s.flt.buckets.get 0 (bkDie 15 d) + 1 < s.fld FLT_LEAK.THRESH 0) ∧ s.evtClass 5 2 ≠ 2 ∧ s.evtClass 5 4 ≠ 2 ∧ s.evtClass 5 6 ≠ 2 ∧ s.ctxs = [] := by
  decide +kernel

/-- Reads that wait: for the next window, behind one of their partition, for the tower; a window that grants one; and what reads
as zero at once. -/
theorem test_rootAccesses_waits :
    let q : TileReq := { part := 3, tile := rootTiles - 1, out := .step 7, latUs := 9 }
    ((tower15 2 { shut := true }).tower 15).shut = true
    ∧ (∃ e ∈ ((tower15 2 { pend := [q] }).tower 15).pend, e.part = 3) ∧ (tower15 1).rtServes 15 = false ∧ ((tower15 1 { pend := [q] }).rtServes 15 = false)
    ∧ (let s := tower15 2 { pend := [q], shut := true }
       (s.tower 15).pend = [q] ∧ s.now % 16 = 0 ∧ s.rtServes 15 = true ∧ s.NoInjection ∧ RTF_CFG.MODE.of (s.reg .RTF_CFG 15) ≠ 1 ∧ s.towerLevel 15 ≤ 3
         ∧ rootTiles - 1 ∉ (s.tower 15).buffer ∧ s.rmarks.get .clean (rootFrame 15 (rootTiles - 1)) ≠ .poison)
    ∧ (let s : State := { tower15 2 with ntu := { tick := 15 } }; s.now % 16 ≠ 0)
    ∧ ((({ tower15 2 with freeTiles := [(15, [(0, 1)])] } : State).tiles 15).mem 0) = true := by decide +kernel

theorem test_rootAccesses_write :
    (∀ st ∈ [2, 3], ∀ v ∈ [0, 1], let s := (tower15 st).setFld PWR_STATUS.VHOLD_OK 0 v
     s.rtServes 15 = decide (st = 2) ∧ s.rtState 15 ≠ 5 ∧ s.evtClass 5 6 ≠ 2 ∧ (s.tower 15).waitWr = [] ∧ (s.tower 15).buffer.length < 64 ∧ s.fld PWR_STATUS.VHOLD_OK 0 = v)
    ∧ (let s := tower15 2 { buffer := List.range 64 }; 64 ≤ (s.tower 15).buffer.length ∧ s.rtServes 15 = true)
    ∧ (let s := (tower15 2 { buffer := List.range 64, waitWr := [(7, [])] }).setFld PWR_STATUS.VHOLD_OK 0 1
       s.rtServes 15 = true ∧ (s.tower 15).buffer = 0 :: (List.range 64).tail ∧ (List.range 64).tail.length < 64 ∧ (s.tower 15).waitWr = [(7, [])] ∧ s.fld PWR_STATUS.VHOLD_OK 0 = 1)
    ∧ (let s := tower15 2 { countBase := 2 ^ 32 }; s.rtServes 15 = true ∧ rootTiles / 256 - 1 < rootTiles / 256
         ∧ RTF_CFG.RD_THRESH.of (s.rtfCfg 15) ≤ (s.tower 15).counts.get (s.tower 15).countBase (rootTiles / 256 - 1) ∧ s.evtClass 5 6 ≠ 2) := by decide +kernel

theorem test_rootMounting :
    (tower15 3).fld RTF_STATUS.STATE 15 = 3 ∧ (tower15 2).fld RTF_STATUS.STATE 15 ≠ 3
    ∧ (let s := tower15 2; s.rtState 15 = 2 ∧ s.towerBusy 15 = false ∧ s.evtClass 5 5 ≠ 2 ∧ (∀ i, i < 16 → s.iState i ∉ [2, 3, 4])
        ∧ 15 ∉ (s.tower 15).deadDies ∧ 2 * 7 ∉ (s.tower 15).deadDies ∧ 2 * 7 + 1 ∉ (s.tower 15).deadDies)
    ∧ ((tower15 2 { leaving := true }).tower 15).leaving = true ∧ ((tower15 2 { mapWait := true }).tower 15).mapWait = true ∧ (tower15 2).tmarks.sorted = true
    ∧ (let s := (tower15 4).setFld RTF_STATUS.DIES_RETIRED 15 2; s.rtState 15 = 4 ∧ s.evtClass 5 6 ≠ 2 ∧ s.fld RTF_STATUS.DIES_RETIRED 15 < 3)
    ∧ (tower15 1).rtState 15 ≠ 2 := by decide +kernel

theorem test_mountedTower : (tower15 1).rtState 15 = 1 ∧ ((tower15 1).tower 15).waitWr = [] ∧ ((tower15 1).tower 15).pend = [] ∧ ∀ k ∈ [1, 3], k ≠ 0 ∧ 2 ^ 32 - 1 < 2 ^ 32 := by decide +kernel

/-! ### Faults, security, power and resets -/

theorem test_faultsAndScrubbing_scrub : ∀ m ∈ [Mark.clean, .poison, .ce, .cb, .ue],
    let s := (State.reset.setFld PRT_CANOPY_CFG.SCRUB_EN 15 1).setCore 511 { cmarks := if m = .clean then [] else [(262143, m)] }
    s.fld PRT_CANOPY_CFG.SCRUB_EN 15 = 1 ∧ s.NoInjection ∧ s.flt.buckets.get 0 511 + 1 < s.fld FLT_LEAK.THRESH 0 ∧ (s.core 511).cmarks.get .clean 262143 = m
      ∧ s.evtClass 1 1 ≠ 2 ∧ s.evtClass 1 2 ≠ 2 ∧ (m = .poison → ∀ e ∈ (s.core 511).cmarks, e.2 = .clean ∨ e.2 = .poison) := by decide +kernel

theorem test_faultsAndScrubbing_golden :
    let g := rootBase + 15 * 0x80000000000
    let o : Obj := { obj 7 1 65536 1 with backed := true, golden := [g] }
    let s : State := { State.reset.setCtx 4095 { objs := [o], pages := [(1, { frame := 15 * 2 ^ 20, present := true })] } with tmarks := [(15 * 2 ^ 31, .poison)] }
    let t := s.setFld RTF_STATUS.STATE 15 2
    t.restorable 15 = [(15 * 2 ^ 20, g)] ∧ place g = .root 15 0 ∧ g % 65536 = 0 ∧ t.rtServes 15 = true ∧ 15 * 2 ^ 20 < 2 ^ 24 ∧ State.reset.restorable 15 = []
      ∧ (t.tower 15).used = [] ∧ (t.tower 15).shut = false ∧ RTF_CFG.MODE.of (t.rtfCfg 15) ≠ 1 ∧ t.towerLevel 15 ≤ 3
      ∧ s.restorable 15 = [(15 * 2 ^ 20, g)] ∧ s.rtServes 15 = false := by decide +kernel

theorem test_faultsAndScrubbing_inject :
    State.reset.fld FLT_INJ_TGT.COUNT 0 = 0 ∧ (State.reset.setFld FLT_INJ_CTL.ACTIVE 0 1).fld FLT_INJ_CTL.ACTIVE 0 = 1
    ∧ (let s := State.reset.setFld FLT_INJ_TGT.COUNT 0 1; s.fld FLT_INJ_CTL.ACTIVE 0 = 0 ∧ s.fld FLT_INJ_TGT.COUNT 0 ≠ 0) := by decide +kernel

theorem test_security_debug :
    (∀ lc ∈ [1, 2, 3], let s := State.reset.setFld SEC_LC.STATE 0 lc; let tok : DebugToken := ⟨true, true, true⟩
     tok.fresh = true ∧ s.fld SEC_DBG.DEBUG_STATE 0 = 0 ∧ s.sec.eraseLc = none ∧ (s.fld SEC_LC.STATE 0 = 1 ∨ (s.fld SEC_LC.STATE 0 = 2 ∧ tok.fenfort = true ∧ tok.owner = true)
       ∨ (s.fld SEC_LC.STATE 0 = 3 ∧ tok.fenfort = true)))
    ∧ (State.reset.setFld PRT_CNP_STATUS.CLEAR_BUSY 511 1).fld PRT_CNP_STATUS.CLEAR_BUSY 511 = 1
    ∧ ((State.reset.setCore 511 { wantClear := true }).core 511).wantClear = true
    ∧ (let s := State.reset.setFld SEC_DBG.DEBUG_STATE 0 1
       s.fld SEC_DBG.DEBUG_STATE 0 = 1 ∧ s.cores = [] ∧ ∀ c, c < 512 → s.fld PRT_CNP_STATUS.CLEAR_BUSY c = 0)
    ∧ (∀ lc ∈ [3, 4], let s : State := { State.reset with sec := { eraseLc := some lc } }
       s.fld SEC_DBG.DEBUG_STATE 0 = 0 ∧ s.sec.eraseLc ≠ none ∧ s.cores = [] ∧ ∀ c, c < 512 → s.fld PRT_CNP_STATUS.CLEAR_BUSY c = 0) := by decide +kernel

theorem test_security_lifecycle :
    (∀ e ∈ [(1, 2), (2, 3), (2, 4), (3, 4)], (State.reset.setFld SEC_LC.STATE 0 e.1).fld SEC_LC.STATE 0 = e.1 ∧ e.2 < 16)
    ∧ ((State.reset.fld SEC_LC.STATE 0, 1) ∉ [(1, 2), (2, 3), (2, 4), (3, 4)]) ∧ (trail 1 {}).iState 15 ≠ 0
    ∧ (∀ n ∈ [4, 5], let s := State.reset.setFld SEC_BOOT.ROLLBACK 0 5; (s.fld SEC_BOOT.ROLLBACK 0 ≤ n ↔ n = 5)) := by decide +kernel

/-- The supply is good and stages have ended. -/
def supplied (l : List Nat) (x : Ntu := {}) : State := { State.reset with power := { on := true, stages := l }, ntu := x }

theorem test_startSequence :
    State.reset.power.on = false ∧ State.reset.stageDue 11 = false
    ∧ (∀ k ∈ [1, 2, 3, 4, 5, 6, 7, 8, 9, 10, 11], (supplied (stageDeps k)).stageDue k = true)
    ∧ (supplied [1]).fld SEC_BOOT.ROLLBACK 0 ≤ (supplied [1]).sec.bootSvn ∧ (supplied [1]).sec.bootSvn < 2 ^ 16 ∧ (supplied [1]).sec.fwMajor < 256
    ∧ (supplied [1]).sec.fwMinor < 256 ∧ (supplied [1]).sec.bootSvn < ((supplied [1]).setFld SEC_BOOT.ROLLBACK 0 1).fld SEC_BOOT.ROLLBACK 0
    ∧ (∀ b ∈ [true, false], (supplied [3] { pllLocked := b }).ntu.pllLocked = b)
    ∧ (∀ t, t < 16 → (supplied [6]).rtState t ≠ 1) ∧ ((supplied [6]).setFld RTF_STATUS.STATE 15 1).rtState 15 = 1 ∧ (supplied []).ctxs = [] ∧ (supplied []).running = true
    ∧ (supplied []).profile ≠ 4 := by decide +kernel

/-- A cluster with every position good, one with a bad one, and one with two. -/
theorem test_startSequence_cores : ∀ e ∈ [(0, 8), (1, 8), (257, 7)],
    let s : State := { supplied (stageDeps 5) with dead := [(63, e.1)] }
    let work := (List.range 9).filter fun q => !maskBit (s.dead.get 0 63) q
    s.stageDue 5 = true ∧ 63 < 64 ∧ min work.length 8 = e.2 ∧ (∀ k, k < e.2 → work[k]? ≠ none) := by decide +kernel

/-- Supply good again while a save is under way. -/
theorem test_startSequence_back : let s := (supplied []).modPower fun p => { p with save := some 3 }
    s.power.on = true ∧ s.power.save ≠ none := by decide +kernel

theorem test_supplyAndThermal_supply :
    (let s := supplied []; s.running = true ∧ s.evtClass 0xB 7 ≠ 2 ∧ 64 ≤ s.logFree ∧ s.profile ≠ 4)
    ∧ (let s := (supplied []).setFld PWR_STATUS.VHOLD_OK 0 1; s.fld PWR_STATUS.VHOLD_OK 0 = 1 ∧ s.running = true)
    ∧ (∀ t, t < 16 → ((supplied []).tower t).waitWr = []) ∧ 0x10 ∈ sensors ∧ pointThrottle 0x10 + 10 ≤ 255 ∧ 0x4F ∈ sensors ∧ pointThrottle 0x4F + 10 ≤ 255
    ∧ (let s := ((supplied []).setFld FLT_PIN_CTL.ARM 0 1).setFld FLT_PIN_CTL.THRESH 0 0
       s.fld FLT_PIN_CTL.ARM 0 = 1 ∧ s.fld FLT_PIN_CTL.PULSE 0 = 0 ∧ s.fld FLT_PIN_CTL.THRESH 0 ≤ s.evtClass 0xB 7)
    ∧ (let s : State := { supplied [] with towers := [(15, { waitWr := [(7, [])], buffer := List.range 63 })] }
       let s := s.setFld RTF_STATUS.STATE 15 2
       (s.tower 15).waitWr = [(7, [])] ∧ (∀ j, j < 16 → j ≠ 15 → (s.tower j).waitWr = []) ∧ (s.tower 15).buffer.length < 64 ∧ s.rtServes 15 = true
         ∧ s.evtClass 5 6 ≠ 2)
    ∧ (let s := (supplied []).setFld TRK_STATUS.STATE 15 2 |>.setFld FLT_STATUS.FATAL 0 1; s.fatal = true ∧ s.tkState 15 ≠ 0 ∧ s.running = true) := by decide +kernel

theorem test_supplyAndThermal_save : ∀ c ∈ [some 3, some 4, none],
    let s := (supplied []).modPower fun p => { p with save := c }
    s.power.save = c ∧ s.regs.sorted = true ∧ s.timeSourceUp = false := by decide +kernel

theorem test_supplyAndThermal_levels : ∀ l ∈ [0, 1, 2, 3], ∀ t ∈ [9999, 10000, 100000],
    let s := (supplied [] { elapsed := t }).modPower fun p => { p with level := if l = 0 then [] else [(0x4F, l)], changed := [(0x4F, 0)] }
    s.running = true ∧ s.power.level.get 0 0x4F = l ∧ s.since 0x4F 10000 = decide (10000 ≤ t) ∧ s.since 0x4F 100000 = decide (t = 100000)
      ∧ s.evtClass 0xB 7 ≠ 2 := by decide +kernel

theorem test_resets :
    (∀ f ∈ [0, 1], let s := (supplied []).setFld FLT_STATUS.FATAL 0 f
     s.running = true ∧ s.warming = false ∧ s.profile ≠ 4 ∧ s.fatal = decide (f = 1) ∧ (∀ e ∈ s.towers, e.2.waitWr = []) ∧ s.links = [] ∧ s.regs.sorted = true)
    ∧ (let s : State := { supplied [] with links := [(7, { waiting := [{ typ := 3, vc := 0, dst := 0 }] })] }
       s.fatal = false ∧ s.links.any (fun e => e.2.waiting ≠ []) = true)
    ∧ (let s := ((supplied []).setFld NTU_CTL.TSRC 0 15).setFld NTU_STATUS.STATE 0 2
       s.timeSourceUp = false ∧ (let t := s.setFld ZXL_LNK_STATUS.STATE 7 4; 8 ≤ t.tsrc ∧ t.timeSourceUp = true ∧ t.dState = 2 ∧ t.running = true))
    ∧ State.reset.snapFree = [] ∧ ((supplied []).modPower fun p => { p with prof := some ⟨none, 3, false⟩ }).power.prof ≠ none
    ∧ (((supplied []).modPower fun p => { p with warm := some 2 }).power.warm = some 2) ∧ (supplied []).power.warm = none := by decide +kernel

/-- A canonical state with a command that waits, bytes listed in a memory and a register written. -/
theorem test_everyStepKeepsCanonical :
    let s : State := { State.reset.setFld NTU_CTL.TSRC 0 4 with pending := [.supplySag], trunk := [(3, 1), (5, 2)] }
    s.Canonical ∧ s.pending ≠ [] := by
  refine ⟨⟨?_, ?_, ?_, ?_, ?_, ?_, ?_, ?_, fun _ => rfl⟩, ?_⟩ <;> decide +kernel

/-! ### A transfer's buffer with a page -/

/-- Bytes read in two parts. -/
theorem getBytes_add (m : SMap Byte) (a n k : Nat) : getBytes m a (n + k) = getBytes m a n ++ getBytes m (a + n) k := by
  induction n generalizing a with
  | zero => simp [getBytes]
  | succ n ih => rw [Nat.add_right_comm]; simp only [getBytes, ih, List.cons_append, Nat.add_assoc, Nat.add_comm 1 n]

/-- A bound that every step keeps. -/
theorem foldl_lt {α : Type} (f : Nat → α → Nat) (h : ∀ c a, c < 2 ^ 32 → f c a < 2 ^ 32) (l : List α) (c : Nat) (hc : c < 2 ^ 32) : l.foldl f c < 2 ^ 32 := by
  induction l generalizing c with
  | nil => exact hc
  | cons a l ih => exact ih _ (h c a hc)

/-- A CRC-32C has 32 bits. -/
theorem crc32c_lt (bs : List Byte) : crc32c bs < 2 ^ 32 :=
  Nat.xor_lt_two_pow (foldl_lt _ (fun c b hc => foldl_lt _ (fun c _ hc => by
    split
    · exact Nat.xor_lt_two_pow (by omega) (by decide)
    · omega) _ _ (Nat.xor_lt_two_pow hc (by have := b.isLt; omega))) _ _ (by decide)) (by decide)

/-- A buffer of a transfer: what stands before the CRC, the CRC, and the data. -/
theorem importCheck_ok (s : State) (x q : Nat) (d : Desc) (H data : List Byte) (k n : Nat)
    (host : s.host = setBytes [] (s.hostKey x (d.le 0x10 8)) (H ++ leBytes (crc32c data) 4 ++ leBytes 0 36 ++ data)) (dev : maskBit (d.le 0x20 1) 0 = false)
    (hH : H.length = 24) (h0 : fieldAt H 0 4 = xferMagic) (h4 : fieldAt H 4 4 = n) (h8 : fieldAt H 8 8 = k) (h16 : fieldAt H 0x10 8 = xferStride k)
    (hn : n ≤ 4194304) (hd : data.length = kvLayers k * ((n + 255) / 256) * xferStride k) (hs : 64 + data.length ≤ d.le 0x18 8) (hk : k = (s.seq q).kvl)
    (hc : n ≤ (s.seq q).cap) (hf : kvLayers k * ((n + 255) / 256) ≤ (s.free (s.seq q).pool).count) :
    s.importCheck x q d = .ok (H ++ leBytes (crc32c data) 4 ++ leBytes 0 36 ++ data) := by
  have all : getBytes s.host (s.hostKey x (d.le 0x10 8)) (64 + data.length) = H ++ leBytes (crc32c data) 4 ++ leBytes 0 36 ++ data := by
    have := getBytes_setBytes [] (s.hostKey x (d.le 0x10 8)) (H ++ leBytes (crc32c data) 4 ++ leBytes 0 36 ++ data)
    rw [← host] at this
    rwa [show (H ++ leBytes (crc32c data) 4 ++ leBytes 0 36 ++ data).length = 64 + data.length by simp [leBytes_length, hH]; omega] at this
  have head : getBytes s.host (s.hostKey x (d.le 0x10 8)) 64 = H ++ leBytes (crc32c data) 4 ++ leBytes 0 36 := by
    have := all
    rw [getBytes_add] at this
    exact (List.append_inj this (by simp [getBytes_length, leBytes_length, hH])).1
  have pre : ∀ o m, o + m ≤ 24 → fieldAt (H ++ leBytes (crc32c data) 4 ++ leBytes 0 36) o m = fieldAt H o m := by
    intro o m h
    simp only [fieldAt, List.append_assoc]
    rw [List.drop_append_of_le_length (by omega), List.take_append_of_le_length (by simp; omega)]
  have crc : fieldAt (H ++ leBytes (crc32c data) 4 ++ leBytes 0 36) 0x18 4 = crc32c data := by
    simp only [fieldAt, List.append_assoc]
    rw [List.drop_left' hH, List.take_left' (leBytes_length _ _), leNat_leBytes]
    exact Nat.mod_eq_of_lt (crc32c_lt data)
  have zero : zeroAt (H ++ leBytes (crc32c data) 4 ++ leBytes 0 36) 0x1C 36 = true := by
    have : fieldAt (H ++ leBytes (crc32c data) 4 ++ leBytes 0 36) 0x1C 36 = 0 := by
      rw [fieldAt, List.drop_left' (by simp [leBytes_length, hH]), List.take_of_length_le (by simp [leBytes_length]), leNat_leBytes]
      simp
    simp only [zeroAt, this, decide_true]
  simp only [State.importCheck, State.readSpace, dev, Bool.false_eq_true, if_false, head, pre 0 4 (by omega), pre 4 4 (by omega), pre 8 8 (by omega),
    pre 0x10 8 (by omega), h0, h4, h8, h16, zero, crc, ← hd, all]
  rw [if_neg (by omega), if_neg (by simp; omega), if_neg (by simp [hk]), if_neg (by omega), List.drop_left' (by simp [leBytes_length, hH])]
  simp

/-- An FP4 KV layout of one layer and head of 64 elements in groups of 32. -/
def kvl4 : Nat := 2 ^ 56 + 7 * 2 ^ 37

theorem test_stepsAndSequences_importPage :
    let d := desc 0x04 [(8, 245760), (0x18, 17472)]
    let H := leBytes xferMagic 4 ++ leBytes 1 4 ++ leBytes kvl4 8 ++ leBytes 17408 8
    let bs := H ++ leBytes (crc32c (List.replicate 17408 0)) 4 ++ leBytes 0 36 ++ List.replicate 17408 0
    let s : State := { ready d with
      seqs := [(245760, { state := .opened, ctx := 4095, kvl := kvl4, cap := 1, pool := 5 })], poolFree := [(5, [(0, 1)])]
      host := setBytes [] ((ready d).hostKey 4095 0) bs }
    (s.modCtx 4095 fun c => { c with started := c.started.tail }).importCheck 4095 245760 d = .ok bs ∧ fieldAt H 4 4 ≠ 0 := by
  intro d H bs s
  have key : (s.modCtx 4095 fun c => { c with started := c.started.tail }).hostKey 4095 (d.le 0x10 8) = (ready d).hostKey 4095 0 := by decide +kernel
  have host : (s.modCtx 4095 fun c => { c with started := c.started.tail }).host = setBytes [] ((ready d).hostKey 4095 0) bs := by
    simp only [State.modCtx, State.setCtx, s]
  refine ⟨importCheck_ok _ 4095 245760 d H (List.replicate 17408 0) kvl4 1 (by rw [key, host]) ?_ ?_ ?_ ?_ ?_ ?_ (by decide)
    (by rw [List.length_replicate]; decide +kernel) (by rw [List.length_replicate]; decide +kernel) ?_ ?_ ?_, ?_⟩ <;> decide +kernel

/-! ### Single steps -/

/-- What holds of the next state of a step that takes `c`. -/
def after (c : Instr) (s : State) (f : State → Bool) : Bool :=
  match step { s with pending := [c] } with | .next u => f u && u.pending.isEmpty | .fault _ => false | .refused _ => false

theorem test_stepTakesFront : State.reset.pending = [] ∧ State.reset.power.on = false := by decide +kernel

/-- R100: the low 64 bits of a sum. -/
theorem test_sadd_wraps : after (.sadd 511 7) (on (word 0x10 [(47, 3), (42, 1), (37, 2)]) { s := [(1, 0xFFFFFFFFFFFFFFFF), (2, 2)] })
    (fun u => (u.thr 511 7).s.get 0 3 = 1 && (u.thr 511 7).pc = 1) = true := by decide +kernel

/-- R100: SSHR shifts by the operand modulo 64, arithmetically with MOD[0] = 1, and the source may be the destination. -/
theorem test_sshr_arithmetic : after (.sshr 511 7) (on (word 0x17 [(47, 1), (42, 1), (37, 2), (32, 1)]) { s := [(1, 0x8000000000000000), (2, 65)] })
    (fun u => (u.thr 511 7).s.get 0 1 = 0xC000000000000000) = true := by decide +kernel

/-- R100: SLI with MOD[0] = 1 keeps the low half. -/
theorem test_sli_high : after (.sli 511 7) (on (word 0x18 [(47, 1), (32, 1), (0, 0x80000000)]) { s := [(1, 0xAAAAAAAA00000005)] })
    (fun u => (u.thr 511 7).s.get 0 1 = 0x8000000000000005) = true := by decide +kernel

/-- R95: BRC on a negative value. -/
theorem test_brc_taken : after (.brc 511 7) (on (word 0x02 [(47, 1), (44, 2), (0, 9)]) { s := [(1, 0x8000000000000000)] })
    (fun u => (u.thr 511 7).pc = 9) = true := by decide +kernel

/-- R96: LOOP with count 0 continues behind END. -/
theorem test_loop_zero : after (.loop 511 7) (on (word 0x03 [(46, 1), (0, 5)])) (fun u => (u.thr 511 7).pc = 6 && (u.thr 511 7).loops.isEmpty) = true := by decide +kernel

/-- R6 to R9: an access of 2 bytes writes nothing and is counted. -/
theorem test_regWrite_size : after (.regWrite .pf0 0 0x40 2 0) (State.reset.setFld HIF_STATUS.READY 0 1) (fun u => u.fld HIF_STATUS.BAD_ACCESS 0 = 1) = true := by
  decide +kernel

/-- R29: a tick passes while the queue is empty and the supply is good. -/
theorem test_tick : (match step (supplied []) with | .next u => u.ntu.tick | _ => 0) = 1 := by decide +kernel

/-- R425: 41.75 V is no good supply, 42 V is one. -/
theorem test_vin48 : (∀ e ∈ [(167, false), (168, true)], after (.vin48Good (BitVec.ofNat 8 e.1)) State.reset (fun u => u.power.on == e.2) = true) := by decide +kernel

/-- R50: the guards' limit on a lead, and one less. -/
theorem test_lead_limit : ∀ e ∈ [(3, 3), (2, 7)],
    let s := (State.reset.setReg .NTU_GUARD 0 (NTU_GUARD.BOARD_GUARD.put (NTU_GUARD.SPAN_GUARD.put 0 1000) 1000)).setReg .NTU_LEAD 0
      (NTU_LEAD.BOARD_LEAD.put (NTU_LEAD.SPAN_LEAD.put 0 7) 7)
    after (.ntuLeadWrite (NTU_LEAD.BOARD_LEAD.put (NTU_LEAD.SPAN_LEAD.put 0 7) e.1)) s (fun u => u.fld NTU_LEAD.BOARD_LEAD 0 = e.2) = true := by decide +kernel

/-- R308: a ROWCOPY of a sector, when its one unit operation ends. -/
theorem test_clasp_copy : let s := clasping 3 [{ part := 15, drv := true, word := copyRec, started := true }]
    after (.claspUnitOpEnd 15 ⟨2, 0, 0, 0⟩) { s with trunk := [(15 * 2 ^ 36, 9)] } (fun u => getByte u.trunk (15 * 2 ^ 36 + 65536) = 9
      && u.fld PRT_CLP_DRV.TAG_DONE 15 = 77) = true := by decide +kernel

/-- R384: an enabled link looks for its peer. -/
theorem test_link_enable : after (.linkEnable 7 true) (State.reset.setFld ZXL_LNK_CTL.EN 7 0) (fun u => u.fld ZXL_LNK_STATUS.STATE 7 = 1) = true := by decide +kernel

end Sys2Proof.Tests
end

section
/-! SUPPORT. What reporting leaves unchanged: the events of the fault collector (R401 to R410), the entries of the rings
(R364, R377, R379), the announcements of trail stops (R61) and the steps and sequences that end with them (R210, R211) touch
no core, and of the registers only those of `reportRegs`. Each lemma follows the text of its operation. -/

namespace Sys2Proof.Machine

/-- The registers that reporting writes. -/
def reportRegs : List RegId :=
  [.NTU_STATUS, .NTU_TE, .NTU_EVT, .TRK_REG, .PRT_XL_MIG, .PRT_KV_XFER, .VF_CTX_CNT, .RSQ_TRL_STATUS, .RSQ_TRL_TICKS,
   .FLT_STATUS, .FLT_CNT, .FLT_PIN_CTL]

/-- `u` differs from `s` by reports at most: the cores and every register outside `reportRegs` are the same. -/
structure State.Reports (s u : State) : Prop where
  cores : u.cores = s.cores
  reg : ∀ r ∉ reportRegs, ∀ i, u.reg r i = s.reg r i

namespace State.Reports

variable {s u v : State} {α : Type}

theorem refl (s : State) : s.Reports s := ⟨rfl, fun _ _ _ => rfl⟩

theorem fld (h : s.Reports u) (f : Fld) (hf : f.reg ∉ reportRegs) (i : Nat) : u.fld f i = s.fld f i :=
  congrArg f.of (h.reg f.reg hf i)

/-! ### The shapes of a definition -/

/-- An update of other parts of the state than cores and registers. -/
theorem elsewhere (h : s.Reports u) (hc : v.cores = u.cores := by rfl) (hr : v.regs = u.regs := by rfl) : s.Reports v :=
  ⟨hc.trans h.cores, fun r hm i => (congrArg (·.get (regReset r i) (regKey r i)) hr).trans (h.reg r hm i)⟩

theorem ite {c : Prop} [Decidable c] (hu : s.Reports u) (hv : s.Reports v) : s.Reports (if c then u else v) := by
  split
  · exact hu
  · exact hv

theorem foldl {f : State → α → State} {l : List α} (h : s.Reports u) (hf : ∀ t a, s.Reports t → s.Reports (f t a)) :
    s.Reports (l.foldl f u) := by
  induction l generalizing u with
  | nil => exact h
  | cons a l ih => exact ih (hf u a h)

/-! ### Registers and tables -/

theorem setReg (h : s.Reports u) (r : RegId) (i : Nat) (w : Word) (hr : r ∈ reportRegs := by decide) :
    s.Reports (u.setReg r i w) :=
  ⟨h.cores, fun q hq j =>
    (State.reg_setReg_ne u w (regKey_ne_of_reg j i (ne_of_mem_of_not_mem hr hq).symm)).trans (h.reg q hq j)⟩

theorem setFld (h : s.Reports u) (f : Fld) (i n : Nat) (hf : f.reg ∈ reportRegs := by decide) : s.Reports (u.setFld f i n) :=
  h.setReg _ i _ hf

theorem incr (h : s.Reports u) (f : Fld) (i n : Nat) (hf : f.reg ∈ reportRegs := by decide) : s.Reports (u.incr f i n) :=
  h.setFld f i _ hf

theorem inc (h : s.Reports u) (f : Fld) (i : Nat) (hf : f.reg ∈ reportRegs := by decide) : s.Reports (u.inc f i) :=
  h.incr f i 1 hf

theorem modInst (h : s.Reports u) (i : Nat) (f : Inst → Inst) : s.Reports (u.modInst i f) := h.elsewhere
theorem modCtx (h : s.Reports u) (x : Nat) (f : Ctx → Ctx) : s.Reports (u.modCtx x f) := h.elsewhere
theorem modStack (h : s.Reports u) (t : Nat) (f : Stack → Stack) : s.Reports (u.modStack t f) := h.elsewhere
theorem modLink (h : s.Reports u) (l : Nat) (f : Link → Link) : s.Reports (u.modLink l f) := h.elsewhere
theorem setSteps (h : s.Reports u) (p : Nat) (l : List StepRec) : s.Reports (u.setSteps p l) := h.elsewhere
theorem setSeq (h : s.Reports u) (q : Nat) (e : SeqEnt) : s.Reports (u.setSeq q e) := h.elsewhere
theorem send (h : s.Reports u) (o : Out) : s.Reports (u.send o) := h.elsewhere

/-! ### Writes to memory -/

theorem serveBlock (h : s.Reports u) (st p : Nat) (x : Option Nat) (q b r : Nat) : s.Reports (u.serveBlock st p x q b r) := by
  unfold State.serveBlock State.countUnits State.openBlock
  exact ((h.modStack st _).incr TRK_REG.SERVED _ _).modStack st _

theorem chargeTrunk (h : s.Reports u) (p : Nat) (x : Option Nat) (dpa n : Nat) : s.Reports (u.chargeTrunk p x dpa n) :=
  h.ite (h.foldl fun t k ht => by
    split
    · exact ht.serveBlock ..
    · exact ht)

theorem writeDpa (h : s.Reports u) (dpa : Nat) (bs : List Byte) : s.Reports (u.writeDpa dpa bs) :=
  ite h.elsewhere h.elsewhere

theorem countMigWait (h : s.Reports u) (x : Nat) (e : Pte) : s.Reports (u.countMigWait x e) :=
  (h.inc PRT_XL_MIG.MIG_WAITS _).ite h

theorem writePages (kv : Bool) (x n : Nat) : ∀ {u : State} (ova : Nat) (bs : List Byte), s.Reports u →
    s.Reports (u.writePages kv x n ova bs) := by
  induction n with
  | zero => exact fun _ _ h => h
  | succ n ih => exact fun _ _ h => h.ite (ih _ _ ((((h.countMigWait x _).writeDpa _ _).chargeTrunk ..).ite h))

theorem kvWrite (h : s.Reports u) (x ova : Nat) (bs : List Byte) : s.Reports (u.kvWrite x ova bs) := h.writePages ..

theorem writeSpace (h : s.Reports u) (x : Nat) (dev : Bool) (a : Nat) (bs : List Byte) : s.Reports (u.writeSpace x dev a bs) :=
  (h.writePages ..).ite h.elsewhere

theorem freeDpaFrame (h : s.Reports u) (frame : Nat) : s.Reports (u.freeDpaFrame frame) := by
  unfold State.freeDpaFrame
  split
  · exact h.elsewhere
  · split <;> exact h.elsewhere

/-! ### Entries of the rings -/

theorem fireVector (h : s.Reports u) (x : Nat) : s.Reports (u.fireVector x) := by
  unfold State.fireVector
  exact (h.send _).modCtx x _

theorem putCompletion (h : s.Reports u) (x : Nat) (e : Compl) : s.Reports (u.putCompletion x e) :=
  have written := (h.writeSpace x _ _ _).modCtx x _
  have counted := written.ite (written.inc VF_CTX_CNT.COMPLETIONS x)
  (counted.fireVector x).ite counted

theorem writeCompletion (h : s.Reports u) (x : Nat) (e : Compl) : s.Reports (u.writeCompletion x e) :=
  have held := h.modCtx x fun c => { c with held := c.held ++ [e] }
  held.ite (ite (ite (held.ite (held.inc VF_CTX_CNT.CQ_WAITS x)) (h.putCompletion x e)) h)

theorem complete (h : s.Reports u) (x pos : Nat) (e : Compl) : s.Reports (u.complete x pos e) :=
  (h.writeCompletion x e).modCtx x _

theorem completeLater (h : s.Reports u) (l : Later) (status info result : Nat) :
    s.Reports (u.completeLater l status info result) := h.complete ..

theorem eventTo (h : s.Reports u) (x code arg : Nat) (data : List Byte) : s.Reports (u.eventTo x code arg data) :=
  have dropped := h.modCtx x fun c => { c with overflow := true }
  have written := (h.writeSpace x _ _ _).modCtx x _
  ite (ite (dropped.ite (dropped.inc VF_CTX_CNT.EQ_DROPS x)) ((written.fireVector x).ite written)) h

theorem eventAll (h : s.Reports u) (code arg : Nat) (data : List Byte) : s.Reports (u.eventAll code arg data) :=
  h.foldl fun _ x ht => ht.eventTo x ..

/-! ### Pages and sequences of a KV pool -/

theorem objWrite (h : s.Reports u) (o ofs : Nat) (bs : List Byte) : s.Reports (u.objWrite o ofs bs) := by
  unfold State.objWrite
  split
  · exact h.kvWrite ..
  · exact h

theorem setPage (h : s.Reports u) (o i : Nat) (d : PageDesc) : s.Reports (u.setPage o i d) := h.objWrite ..

theorem tblSet (h : s.Reports u) (e : SeqEnt) (idx n : Nat) : s.Reports (u.tblSet e idx n) := h.objWrite ..

theorem unmapTiles (h : s.Reports u) (o ofs n : Nat) : s.Reports (u.unmapTiles o ofs n) := by
  unfold State.unmapTiles
  split
  · exact h
  · exact h.foldl fun t _ ht => ((ht.modCtx _ _).freeDpaFrame _).ite ht

theorem freeSlot (h : s.Reports u) (o i : Nat) : s.Reports (u.freeSlot o i) :=
  have cleared := (((h.unmapTiles o _ _).ite (h.objWrite ..)).objWrite ..).objWrite ..
  ite h.elsewhere (cleared.ite cleared.elsewhere)

theorem dropPage (h : s.Reports u) (o i : Nat) : s.Reports (u.dropPage o i) := (h.freeSlot o i).ite (h.setPage o i _)

theorem releaseSeq (h : s.Reports u) (q : Nat) : s.Reports (u.releaseSeq q) :=
  ((h.foldl fun _ _ ht => ht.ite (ht.dropPage ..)).foldl fun _ _ ht => ht.freeSlot ..).setSeq q _

theorem discardSeq (h : s.Reports u) (q n : Nat) : s.Reports (u.discardSeq q n) :=
  have restored := h.foldl fun _ _ ht => ht.setPage ..
  have dropped := h.foldl fun _ _ ht => ht.foldl fun t _ ht => by
    split
    · exact ht
    · exact ((ht.dropPage ..).tblSet ..).ite (ht.setPage ..)
  (restored.ite dropped).setSeq q _

/-! ### Ends of steps -/

theorem discardStep (h : s.Reports u) (r : StepRec) : s.Reports (u.discardStep r) :=
  h.foldl fun _ _ ht => (ht.discardSeq ..).ite ht

theorem stepRefused (h : s.Reports u) (r : StepRec) (status at_ : Nat) : s.Reports (u.stepRefused r status at_) :=
  (h.ite (h.foldl fun _ _ ht => ht.ite (ht.writeSpace ..))).complete ..

theorem captureExports (h : s.Reports u) (q : Nat) : s.Reports (u.captureExports q) :=
  h.ite ((h.setSeq q _).foldl fun _ _ ht => (ht.inc PRT_KV_XFER.XFER_REJ _).completeLater ..)

theorem refuseWaiting (h : s.Reports u) (x q : Nat) : s.Reports (u.refuseWaiting x q) :=
  h.elsewhere.foldl fun _ _ ht => ht.stepRefused ..

theorem applyClose (h : s.Reports u) (q : Nat) : s.Reports (u.applyClose q) := by
  unfold State.applyClose
  split
  · exact h.ite ((((h.captureExports q).releaseSeq q).refuseWaiting ..).completeLater ..)
  · exact h

theorem endSteps (h : s.Reports u) (p status : Nat) (all : Bool) : s.Reports (u.endSteps p status all) :=
  have discarded := h.foldl fun _ _ ht => ht.discardStep _
  (((ite discarded.elsewhere discarded.elsewhere).foldl fun _ _ ht => ht.stepRefused ..).foldl fun _ q ht => ht.applyClose q)

theorem poisonSteps (h : s.Reports u) (p k : Nat) : s.Reports (u.poisonSteps p k) :=
  ((h.foldl fun _ _ ht => ht.discardStep _).setSteps p _).foldl fun _ _ ht => ht.stepRefused ..

theorem containSteps (h : s.Reports u) (i : Nat) (slot : Option Nat) (poison : Bool) : s.Reports (u.containSteps i slot poison) :=
  h.foldl fun _ _ ht => (ht.poisonSteps ..).ite (ht.setSteps ..)

/-! ### Frames to other devices and stops -/

theorem pumpLink (l : Nat) (fs : List TxFrame) : ∀ {u : State} (stuck : List Nat), s.Reports u →
    s.Reports (u.pumpLink l fs stuck) := by
  induction fs with
  | nil => exact fun _ h => h
  | cons f fs ih => exact fun _ h => ite (ih _ (h.modLink l _)) (ih _ h.elsewhere)

theorem sendLink (h : s.Reports u) (l : Nat) (f : TxFrame) : s.Reports (u.sendLink l f) :=
  pumpLink l _ [] ((h.modLink l _).modLink l _)

theorem sendMember (h : s.Reports u) (m : Member) (f : TxFrame) : s.Reports (u.sendMember m f) := by
  unfold State.sendMember
  split
  · exact h.sendLink ..
  · split
    · exact h.elsewhere
    · exact h

theorem sendOthers (h : s.Reports u) (i : Nat) (f : TxFrame) : s.Reports (u.sendOthers i f) :=
  h.foldl fun _ _ ht => ht.sendMember ..

theorem noteStop (h : s.Reports u) (i e cause : Nat) (by_ : Nat × Nat) : s.Reports (u.noteStop i e cause by_) :=
  have noted := h.modInst i _
  have stopping := (noted.setFld RSQ_TRL_STATUS.STATE i iStopping).ite noted
  (stopping.setReg .RSQ_TRL_TICKS i _).ite stopping

theorem announceStop (h : s.Reports u) (i cause : Nat) : s.Reports (u.announceStop i cause) :=
  have numbered : s.Reports u.nextOp := h.elsewhere
  ite ((numbered.noteStop i _ cause _).sendOthers ..) h

/-! ### Events -/

theorem logRecord (h : s.Reports u) (cls : Nat) (bs : List Byte) : s.Reports (u.logRecord cls bs) :=
  ite (h.elsewhere.setFld FLT_STATUS.LOG_WR 0 _) (h.inc FLT_STATUS.LOST 0)

theorem routeEvent (h : s.Reports u) (e : Evt) (cls : Nat) (bs : List Byte) : s.Reports (u.routeEvent e cls bs) := by
  unfold State.routeEvent
  split
  · exact h
  · exact
      have counted := h.ite (h.inc FLT_CNT.MULTI_HIT 0)
      have toPf0 := (counted.send _).ite counted
      have toPldm := (toPf0.send _).ite toPf0
      (toPldm.foldl fun _ _ ht => ht.sendOthers ..).ite toPldm

theorem pulseFaultN (h : s.Reports u) (cls : Nat) : s.Reports (u.pulseFaultN cls) :=
  ite ((h.setFld FLT_PIN_CTL.ARM 0 0).setFld FLT_PIN_CTL.PULSE 0 1).elsewhere h

theorem enterFatal (h : s.Reports u) (bs : List Byte) : s.Reports (u.enterFatal bs) :=
  have stopped := (h.setFld FLT_STATUS.FATAL 0 1).foldl fun _ _ ht => ((ht.sendOthers ..).noteStop ..).ite ht
  h.ite (stopped.foldl fun _ p ht => ht.endSteps p _ _)

theorem raise (h : s.Reports u) (e : Evt) : s.Reports (u.raise e) := by
  unfold State.raise
  extract_lets cls raised carried contained counted bs logged routed pulsed
  have hContained : s.Reports contained := by
    unfold contained
    split
    · exact (h.containSteps ..).ite h
    · exact h
  have hCounted : s.Reports counted := by
    unfold counted
    rcases cls with _ | _ | _
    · exact hContained.inc FLT_CNT.CORR_CNT 0
    · exact hContained.inc FLT_CNT.CONT_CNT 0
    · exact hContained.inc FLT_CNT.FATL_CNT 0
  have hPulsed : s.Reports pulsed := ((hCounted.logRecord cls bs).routeEvent e cls bs).pulseFaultN cls
  exact (hPulsed.enterFatal bs).ite hPulsed

/-! ### Time-error estimates and their two bits (R42 to R44) -/

theorem ntuEvt (h : s.Reports u) (f : Fld) (hf : f.reg ∈ reportRegs := by decide) : s.Reports (u.ntuEvt f) :=
  (h.setFld f 0 1 hf).raise _

theorem guards (h : s.Reports u) : s.Reports u.guards :=
  have bits := (h.setFld NTU_STATUS.BOARD_OK 0 _).setFld NTU_STATUS.SPAN_OK 0 _
  have told := (bits.ntuEvt NTU_EVT.GUARD_LOST).eventAll 0x7 _ []
  have board := (told.foldl fun _ i ht => ht.announceStop i 2).ite told
  ite ((board.foldl fun _ i ht => ht.announceStop i 2).ite board) bits

theorem teRefresh (h : s.Reports u) : s.Reports u.teRefresh :=
  ((h.setFld NTU_TE.TE_EST 0 _).setFld NTU_TE.TE_PEER 0 _).guards

end State.Reports

end Sys2Proof.Machine
end

section
/-! The writes of NTU_LEAD and NTU_GUARD (R50). -/

namespace Sys2Proof.Machine

/-- A write of one register leaves every other as it was. -/
theorem State.sameRegs_setReg (s : State) (r : RegId) (i : Nat) (w : Word) : s.SameRegs (s.setReg r i w) [(r, i)] := by
  intro q j hq
  apply State.reg_setReg_ne
  by_cases e : q = r
  · subst e
    exact regKey_ne_of_inst fun hj => hq (by simp [hj])
  · exact regKey_ne_of_reg j i e

theorem leadGuardOk_iff {lead guard_ : Word} : leadGuardOk lead guard_ = true ↔
    2 * NTU_GUARD.BOARD_GUARD.of guard_ + 1000 ≤ NTU_LEAD.BOARD_LEAD.of lead * 1000
      ∧ 2 * NTU_GUARD.SPAN_GUARD.of guard_ + 1000 ≤ NTU_LEAD.SPAN_LEAD.of lead * 1000 := by
  simp only [leadGuardOk, Bool.and_eq_true, decide_eq_true_eq, ge_iff_le]

/-- The value that a write of `v` gives NTU_LEAD: its two fields, and 0 in the reserved bits. -/
def leadWord (v : Word) : Word := NTU_LEAD.SPAN_LEAD.put (NTU_LEAD.BOARD_LEAD.put 0 (NTU_LEAD.BOARD_LEAD.of v)) (NTU_LEAD.SPAN_LEAD.of v)

@[simp] theorem spanLead_leadWord (v : Word) : NTU_LEAD.SPAN_LEAD.of (leadWord v) = NTU_LEAD.SPAN_LEAD.of v := by
  rw [leadWord, Fld.of_put _ _ _ (by decide) (by decide)]
  exact Nat.mod_mod _ _

@[simp] theorem boardLead_leadWord (v : Word) : NTU_LEAD.BOARD_LEAD.of (leadWord v) = NTU_LEAD.BOARD_LEAD.of v := by
  rw [leadWord, Fld.of_put_ne _ _ _ _ (by decide) (by decide) (by decide) (by decide), Fld.of_put _ _ _ (by decide) (by decide)]
  exact Nat.mod_mod _ _

/-- The value that a write of `v` gives NTU_GUARD: its three fields, and 0 in the reserved bits. -/
def guardWord (v : Word) : Word := BitVec.ofNat 64 (v.toNat % 2 ^ 48)

/-- The low `n` bits hold every field below bit `n`. -/
theorem Fld.of_ofNat_mod (f : Fld) (v : Word) (n : Nat) (h : f.lo ≤ f.hi) (hn : f.hi < n) (h64 : n ≤ 64) :
    f.of (BitVec.ofNat 64 (v.toNat % 2 ^ n)) = f.of v := by
  have hlt : v.toNat % 2 ^ n < 2 ^ 64 := (Nat.mod_lt _ (by positivity)).trans_le (Nat.pow_le_pow_right (by decide) h64)
  have split : 2 ^ n = 2 ^ f.lo * 2 ^ (n - f.lo) := by rw [← pow_add]; congr 1; omega
  rw [Fld.of, BitVec.toNat_ofNat, Nat.mod_eq_of_lt hlt, split, Nat.mod_mul_right_div_self,
    Nat.mod_mod_of_dvd _ (Nat.pow_dvd_pow 2 (by omega)), Fld.of]

@[simp] theorem boardGuard_guardWord (v : Word) : NTU_GUARD.BOARD_GUARD.of (guardWord v) = NTU_GUARD.BOARD_GUARD.of v :=
  Fld.of_ofNat_mod _ v 48 (by decide) (by decide) (by decide)

@[simp] theorem spanGuard_guardWord (v : Word) : NTU_GUARD.SPAN_GUARD.of (guardWord v) = NTU_GUARD.SPAN_GUARD.of v :=
  Fld.of_ofNat_mod _ v 48 (by decide) (by decide) (by decide)

theorem exec_ntuLeadWrite (v : Word) (s : State) : exec (.ntuLeadWrite v) s
    = .next (if leadGuardOk (leadWord v) (s.reg .NTU_GUARD 0) then s.setReg .NTU_LEAD 0 (leadWord v) else s) := rfl

theorem exec_ntuGuardWrite (v : Word) (s : State) : exec (.ntuGuardWrite v) s
    = .next (if leadGuardOk (s.reg .NTU_LEAD 0) (guardWord v) then (s.setReg .NTU_GUARD 0 (guardWord v)).teRefresh else s) := rfl

/-- A guard written is read back after the estimates and the two bits have followed it (R44). -/
theorem fld_teRefresh_setReg_guard (s : State) (w : Word) (f : Fld) (hf : f.reg = .NTU_GUARD) :
    (s.setReg .NTU_GUARD 0 w).teRefresh.fld f 0 = f.of w := by
  rw [(State.Reports.refl _).teRefresh.fld f (by rw [hf]; decide), State.fld, hf, State.reg_setReg_same]

/-- Where both pairs keep the limit, NTU_LEAD takes the value, and nothing else changes. -/
theorem exec_ntuLeadWrite_ok {v : Word} {s : State} (ok : leadGuardOk (leadWord v) (s.reg .NTU_GUARD 0) = true) :
    exec (.ntuLeadWrite v) s = .next (s.setReg .NTU_LEAD 0 (leadWord v)) := by
  rw [exec_ntuLeadWrite, if_pos ok]

/-- Where both pairs keep the limit, NTU_GUARD takes the value, and the estimates and the two bits follow it (R44). -/
theorem exec_ntuGuardWrite_ok {v : Word} {s : State} (ok : leadGuardOk (s.reg .NTU_LEAD 0) (guardWord v) = true) :
    exec (.ntuGuardWrite v) s = .next (s.setReg .NTU_GUARD 0 (guardWord v)).teRefresh := by
  rw [exec_ntuGuardWrite, if_pos ok]

theorem leadGuardOk_leadWord {s : State} {v : Word} : leadGuardOk (leadWord v) (s.reg .NTU_GUARD 0) = true ↔
    2 * s.fld NTU_GUARD.BOARD_GUARD 0 + 1000 ≤ NTU_LEAD.BOARD_LEAD.of v * 1000
      ∧ 2 * s.fld NTU_GUARD.SPAN_GUARD 0 + 1000 ≤ NTU_LEAD.SPAN_LEAD.of v * 1000 := by
  rw [leadGuardOk_iff, boardLead_leadWord, spanLead_leadWord]
  exact Iff.rfl

theorem leadGuardOk_guardWord {s : State} {v : Word} : leadGuardOk (s.reg .NTU_LEAD 0) (guardWord v) = true ↔
    2 * NTU_GUARD.BOARD_GUARD.of v + 1000 ≤ s.fld NTU_LEAD.BOARD_LEAD 0 * 1000
      ∧ 2 * NTU_GUARD.SPAN_GUARD.of v + 1000 ≤ s.fld NTU_LEAD.SPAN_LEAD 0 * 1000 := by
  rw [leadGuardOk_iff, boardGuard_guardWord, spanGuard_guardWord]
  exact Iff.rfl

/-- R50 for a write of NTU_LEAD that keeps the limit. -/
theorem ntuLeadWrite_takes_effect {s : State} {v : Word} (ok : leadGuardOk (leadWord v) (s.reg .NTU_GUARD 0) = true) :
    ∃ u, exec (.ntuLeadWrite v) s = .next u ∧ u.fld NTU_LEAD.BOARD_LEAD 0 = NTU_LEAD.BOARD_LEAD.of v
      ∧ u.fld NTU_LEAD.SPAN_LEAD 0 = NTU_LEAD.SPAN_LEAD.of v ∧ u = { s with regs := u.regs } ∧ s.SameRegs u [(.NTU_LEAD, 0)] := by
  refine ⟨_, exec_ntuLeadWrite_ok ok, ?_, ?_, rfl, s.sameRegs_setReg .NTU_LEAD 0 _⟩
  · exact (congrArg _ (State.reg_setReg_same ..)).trans (boardLead_leadWord v)
  · exact (congrArg _ (State.reg_setReg_same ..)).trans (spanLead_leadWord v)

/-- R50 for a write of NTU_GUARD that keeps the limit. -/
theorem ntuGuardWrite_takes_effect {s : State} {v : Word} (ok : leadGuardOk (s.reg .NTU_LEAD 0) (guardWord v) = true) :
    ∃ u, exec (.ntuGuardWrite v) s = .next u ∧ u.fld NTU_GUARD.BOARD_GUARD 0 = NTU_GUARD.BOARD_GUARD.of v
      ∧ u.fld NTU_GUARD.SPAN_GUARD 0 = NTU_GUARD.SPAN_GUARD.of v ∧ u.cores = s.cores := by
  refine ⟨_, exec_ntuGuardWrite_ok ok, ?_, ?_, (State.Reports.refl _).teRefresh.cores⟩
  · rw [fld_teRefresh_setReg_guard _ _ _ rfl, boardGuard_guardWord]
  · rw [fld_teRefresh_setReg_guard _ _ _ rfl, spanGuard_guardWord]

/-- Settles O39: each write is one test of both pairs, and what follows a guard written reports only. -/
theorem leadAndGuardLimits : Obligations.LeadAndGuardLimits := by
  refine fun s v => ⟨⟨fun ok => ?_, fun broken => ?_⟩, ⟨fun ok => ?_, fun broken => ?_⟩⟩
  · exact ntuLeadWrite_takes_effect (leadGuardOk_leadWord.mpr ok)
  · rw [exec_ntuLeadWrite, if_neg (leadGuardOk_leadWord.not.mpr broken)]
  · exact ntuGuardWrite_takes_effect (leadGuardOk_guardWord.mpr ok)
  · rw [exec_ntuGuardWrite, if_neg (leadGuardOk_guardWord.not.mpr broken)]

end Sys2Proof.Machine
end

section
/-! What a running thread slot's trap leaves unchanged (R110, R112): but for the thread slot itself, it only reports. -/

namespace Sys2Proof.Machine

namespace State.Reports

variable {s u : State}

theorem core (h : s.Reports u) (k : Nat) : u.core k = s.core k := congrArg (SMap.get ({} : Core) · k) h.cores

theorem thr (h : s.Reports u) (c t : Nat) : u.thr c t = s.thr c t := congrArg (fun k => k.threads.get {} t) (h.core c)

end State.Reports

theorem State.canopy_setThr (s : State) (c t : Nat) (x : Thread) : ((s.setThr c t x).core c).canopy = (s.core c).canopy := by
  rw [State.setThr, State.core_modCore]

/-- The thread slot after a precise exception (R109, R110): its record is written, and its program counter stays. -/
def Thread.trapped (x : Thread) (cause : Nat) (addr : Word) (slot : Nat) : Thread :=
  { x with state := .trapped, cause := cause, fpc := x.pc, addr := addr, wait := .none
           trapCnt := min 65535 (x.trapCnt + 1), trapSlot := some slot }

/-- A precise exception of a running thread slot, STARVE apart, writes its record; all that follows only reports. -/
theorem State.trap_reports (s : State) {c t cause : Nat} (addr : Word) (hrun : (s.thr c t).state = .running)
    (hcause : cause ≠ causeStarve) :
    (s.setThr c t ((s.thr c t).trapped cause addr ((s.curSlot c t).getD 0))).Reports (s.trap c t cause addr) := by
  unfold State.trap State.trapAt
  simp only [hrun, true_or, true_and, if_true, if_neg hcause]
  exact (((Reports.refl _).containSteps ..).ite (Reports.refl _)).raise _

end Sys2Proof.Machine
end

section
/-! The control instructions where the thread slot issues them (R91, R95, R96, R98). -/

namespace Sys2Proof.Machine

variable {c : Lcid} {t : TSlot} {s : State} {w : Word}

/-- An instruction that goes through the shared rule of issue has, where its word issues, its own effect. -/
theorem State.Issues.exec_eq (h : s.Issues c t w) {op : Nat} {i : Instr} {body : Word → State → State} {u : State}
    (hi : exec i s = .next (s.issue op c t body)) (hop : wOp w = op) (hu : body w s = u) : exec i s = .next u := by
  rw [hi, s.issue_run h op hop, hu]

theorem exec_nop_run (h : s.Issues c t w) (hop : wOp w = 0x00) : exec (.nop c t) s = .next (s.advance c t) :=
  h.exec_eq rfl hop rfl

theorem exec_jmp_run (h : s.Issues c t w) (hop : wOp w = 0x01) :
    exec (.jmp c t) s = .next (s.setThr c t { s.thr c t with pc := wbits w 13 0 }) :=
  h.exec_eq rfl hop rfl

theorem exec_halt_run (h : s.Issues c t w) (hop : wOp w = 0x06) :
    exec (.halt c t) s = .next (s.setThr c t { s.thr c t with state := .halted }) :=
  h.exec_eq rfl hop rfl

/-! ### BRC (R95) -/

theorem brcCond_iff (cond : Nat) (a : Word) : brcCond cond a = true ↔
    match cond with
    | 0 => a.toInt = 0 | 1 => a.toInt ≠ 0 | 2 => a.toInt < 0 | 3 => 0 ≤ a.toInt | 4 => 0 < a.toInt | _ => a.toInt ≤ 0 :=
  match cond with
  | 0 | 1 | 2 | 3 | 4 | _ + 5 => decide_eq_true_iff

theorem exec_brc_run (h : s.Issues c t w) (hop : wOp w = 0x02) : exec (.brc c t) s = .next (s.setThr c t
    (if brcCond (wbits w 46 44) ((s.thr c t).s.get 0 (wbits w 51 47)) then { s.thr c t with pc := wbits w 13 0 }
      else { s.thr c t with pc := (s.thr c t).pc + 1 })) :=
  h.exec_eq rfl hop rfl

/-! ### LOOP and ENDL (R96) -/

/-- The number of iterations that a LOOP word gives: its immediate, or the register it names. -/
def Thread.loopCount (x : Thread) (w : Word) : Nat :=
  if w.getLsbD 46 then wbits w 37 14 else (x.s.get 0 (wbits w 51 47)).toNat

theorem exec_loop_run (h : s.Issues c t w) (hop : wOp w = 0x03) {n : Nat} (count : (s.thr c t).loopCount w = n) :
    exec (.loop c t) s = .next (
      if 2 ^ 32 - 1 < n then s.trap c t causeLoop (BitVec.ofNat 64 n)
      else if n = 0 then s.setThr c t { s.thr c t with pc := wbits w 13 0 + 1 }
      else if 4 ≤ (s.thr c t).loops.length then s.trap c t causeLoop (BitVec.ofNat 64 n)
      else s.setThr c t { s.thr c t with
        loops := ⟨n, wbits w 13 0, (s.thr c t).pc + 1⟩ :: (s.thr c t).loops, pc := (s.thr c t).pc + 1 }) := by
  subst count
  refine h.exec_eq rfl hop ?_
  simp only [wbits_bit]
  rfl

/-- No iteration: the body is skipped. -/
theorem exec_loop_skips (h : s.Issues c t w) (hop : wOp w = 0x03) (zero : (s.thr c t).loopCount w = 0) :
    exec (.loop c t) s = .next (s.setThr c t { s.thr c t with pc := wbits w 13 0 + 1 }) := by
  rw [exec_loop_run h hop zero, if_neg (by decide), if_pos rfl]

/-- Some iterations, and room for the loop: it goes on the stack. -/
theorem exec_loop_enters (h : s.Issues c t w) (hop : wOp w = 0x03) (pos : 0 < (s.thr c t).loopCount w)
    (fits : (s.thr c t).loopCount w < 2 ^ 32) (room : (s.thr c t).loops.length < 4) :
    exec (.loop c t) s = .next (s.setThr c t { s.thr c t with
      loops := ⟨(s.thr c t).loopCount w, wbits w 13 0, (s.thr c t).pc + 1⟩ :: (s.thr c t).loops
      pc := (s.thr c t).pc + 1 }) := by
  rw [exec_loop_run h hop rfl, if_neg (by omega), if_neg pos.ne', if_neg room.not_ge]

/-- ENDL at the end of the innermost loop. -/
theorem exec_endl_run (h : s.Issues c t w) (hop : wOp w = 0x04) {l : LoopEnt} {rest : List LoopEnt}
    (top : (s.thr c t).loops = l :: rest) (stop : l.stop = (s.thr c t).pc) : exec (.endl c t) s = .next (s.setThr c t
      (if l.count - 1 ≠ 0 then { s.thr c t with loops := { l with count := l.count - 1 } :: rest, pc := l.start }
        else { s.thr c t with loops := rest, pc := (s.thr c t).pc + 1 })) := by
  refine h.exec_eq rfl hop ?_
  simp only [top, stop, ne_eq, not_true, if_false]
  split <;> rfl

/-! ### TRAP (R98) -/

theorem exec_trap_run (h : s.Issues c t w) (hop : wOp w = 0x07) :
    exec (.trap c t) s = .next (s.trap c t causeTrap (BitVec.ofNat 64 (wbits w 15 0))) :=
  h.exec_eq rfl hop rfl

/-- TRAP writes the record of its thread slot, and leaves the Canopy and every other core as they were. -/
theorem exec_trap_stops (h : s.Issues c t w) (hop : wOp w = 0x07) : ∃ u slot, exec (.trap c t) s = .next u
    ∧ u.thr c t = (s.thr c t).trapped causeTrap (BitVec.ofNat 64 (wbits w 15 0)) slot
    ∧ (u.core c).canopy = (s.core c).canopy ∧ s.SameCores u c := by
  have reports := s.trap_reports (BitVec.ofNat 64 (wbits w 15 0)) h.1 (show causeTrap ≠ causeStarve by decide)
  refine ⟨_, (s.curSlot c t).getD 0, exec_trap_run h hop, ?_, ?_, fun k hk => ?_⟩
  · rw [reports.thr, State.thr_setThr]
  · rw [reports.core, State.canopy_setThr]
  · rw [reports.core, State.core_setThr_ne _ _ _ hk]

/-- Settles O3: where the word issues, each instruction has its own effect; TRAP reports beside it. -/
theorem controlFlow : Obligations.ControlFlow := by
  intro c t s w h x a taken count to_
  refine ⟨exec_nop_run h, exec_jmp_run h, fun hop yes => ?_, fun hop no => ?_, exec_halt_run h, fun hop => ?_,
    exec_loop_skips h, exec_loop_enters h, fun hop l rest top stop more => ?_, fun hop l rest top stop last => ?_⟩
  · rw [exec_brc_run h hop, if_pos ((brcCond_iff ..).mpr yes)]
  · rw [exec_brc_run h hop, if_neg (mt (brcCond_iff ..).mp no)]
  · obtain ⟨u, slot, next, thread, canopy, others⟩ := exec_trap_stops h hop
    refine ⟨u, next, ?_⟩
    rw [thread]
    exact ⟨rfl, rfl, rfl, rfl, rfl, canopy, others⟩
  · rw [exec_endl_run h hop top stop, if_pos (by omega)]
  · rw [exec_endl_run h hop top stop, if_neg (by omega)]

end Sys2Proof.Machine
end

section
/-! The end of a mount (R334 to R336): the three registers it writes, and what the tower resumes with. -/

namespace Sys2Proof.Machine

/-! ### Writes of towers and of listed registers -/

/-- Between `s` and `u` only towers and the registers listed were written. -/
structure State.WritesTowers (s u : State) (but : List (RegId × Nat)) : Prop where
  only : u = { s with regs := u.regs, towers := u.towers }
  regs : s.SameRegs u but

namespace State.WritesTowers

variable {s u : State} {but : List (RegId × Nat)} {r : RegId} {i : Nat}

theorem refl (s : State) (but : List (RegId × Nat)) : s.WritesTowers s but := ⟨rfl, fun _ _ _ => rfl⟩

theorem setReg (h : s.WritesTowers u but) (hr : (r, i) ∈ but) (w : Word) : s.WritesTowers (u.setReg r i w) but where
  only := congrArg (State.setReg · r i w) h.only
  regs q j hq :=
    have other : (q, j) ∉ [(r, i)] := fun e => hq (List.mem_singleton.mp e ▸ hr)
    (u.sameRegs_setReg r i w q j other).trans (h.regs q j hq)

theorem setFld {f : Fld} (h : s.WritesTowers u but) (hf : (f.reg, i) ∈ but) (v : Nat) :
    s.WritesTowers (u.setFld f i v) but := h.setReg hf _

theorem modTower (h : s.WritesTowers u but) (t : Nat) (f : Tower → Tower) : s.WritesTowers (u.modTower t f) but where
  only := congrArg (State.modTower · t f) h.only
  regs := h.regs

end State.WritesTowers

/-! ### What the end of a mount writes -/

/-- RTF_MOUNT after a mount that took `us` and replayed `kib`. -/
def mountWord (us kib : Nat) : Word := BitVec.ofNat 64 (kib % 2 ^ 32 + us % 2 ^ 32 * 2 ^ 32)

theorem mountUs_mountWord {us : Nat} (kib : Nat) (h : us < 2 ^ 32) : RTF_MOUNT.MOUNT_US.of (mountWord us kib) = us := by
  rw [Fld.of, mountWord, BitVec.toNat_ofNat]
  simp only [RTF_MOUNT.MOUNT_US]
  omega

theorem replayKib_mountWord (us : Nat) {kib : Nat} (h : kib < 2 ^ 32) : RTF_MOUNT.REPLAY_KIB.of (mountWord us kib) = kib := by
  rw [Fld.of, mountWord, BitVec.toNat_ofNat]
  simp only [RTF_MOUNT.REPLAY_KIB]
  omega

/-- What every mount resets (R336): the ladders start at step 0, and neither an unmount nor a reload of the map is under
way. -/
def Tower.resumed (x : Tower) : Tower := { x with ladder := [], leaving := false, mapWait := false }

/-- Every region's read count starts at `base` (R336). -/
def Tower.recounted (x : Tower) (base : Nat) : Tower := { x with counts := [], countBase := base }

/-- The state that a mounted tower goes to (R334, R337). -/
def Tower.mountState (x : Tower) : Nat := if x.deadDies.length ≥ 3 then rtReadOnly else rtOnline

/-- The registers that the end of a mount writes. -/
def mountRegs (t : Nat) : List (RegId × Nat) := [(.RTF_STATUS, t), (.RTF_MOUNT, t), (.RTF_WEAR, t)]

/-- What every mount writes, with the dies present and the wear that it finds. -/
def State.remount (s : State) (t kind us kib dies wear : Nat) : State :=
  let report := ((s.setFld RTF_STATUS.STATE t (s.tower t).mountState).setFld RTF_STATUS.MOUNT_KIND t kind).setReg .RTF_MOUNT t
    (mountWord us kib)
  ((report.modTower t Tower.resumed).setFld RTF_STATUS.DIE_PRESENT t dies).setFld RTF_WEAR.WEAR_PCT t wear

section

variable {s : State} {t kind us kib dies wear : Nat}

theorem remount_writesTowers : s.WritesTowers (s.remount t kind us kib dies wear) (mountRegs t) := by
  have status : (RegId.RTF_STATUS, t) ∈ mountRegs t := by simp [mountRegs]
  have times : (RegId.RTF_MOUNT, t) ∈ mountRegs t := by simp [mountRegs]
  have life : (RegId.RTF_WEAR, t) ∈ mountRegs t := by simp [mountRegs]
  have report := (((State.WritesTowers.refl s _).setFld (f := RTF_STATUS.STATE) status (s.tower t).mountState).setFld
    (f := RTF_STATUS.MOUNT_KIND) status kind).setReg times (mountWord us kib)
  exact ((report.modTower t Tower.resumed).setFld (f := RTF_STATUS.DIE_PRESENT) status dies).setFld
    (f := RTF_WEAR.WEAR_PCT) life wear

theorem tower_remount : (s.remount t kind us kib dies wear).tower t = (s.tower t).resumed := by
  rw [State.remount, State.setFld_tower, State.setFld_tower, State.tower_modTower, State.setReg_tower, State.setFld_tower,
    State.setFld_tower]

/-- RTF_CFG is none of the registers that a mount writes. -/
theorem rdThresh_remount : (s.remount t kind us kib dies wear).fld RTF_CFG.RD_THRESH t = s.fld RTF_CFG.RD_THRESH t :=
  congrArg _ (remount_writesTowers.regs _ _ (by simp [mountRegs, RTF_CFG.RD_THRESH]))

theorem rtState_remount : (s.remount t kind us kib dies wear).rtState t = (s.tower t).mountState := by
  rw [State.rtState, State.remount, State.fld_setFld_ne _ _ _ _ (regKey_ne_of_reg _ _ (by decide)),
    State.fld_setFld_apart _ RTF_STATUS.DIE_PRESENT RTF_STATUS.STATE _ _ rfl rfl rfl rfl, State.modTower_fld,
    State.fld_setReg_ne _ _ _ (regKey_ne_of_reg _ _ (by decide)),
    State.fld_setFld_apart _ RTF_STATUS.MOUNT_KIND RTF_STATUS.STATE _ _ rfl rfl rfl rfl,
    State.fld_setFld _ _ _ _ rfl (by unfold Tower.mountState; split <;> decide)]

theorem mountKind_remount (h : kind < 4) : (s.remount t kind us kib dies wear).fld RTF_STATUS.MOUNT_KIND t = kind := by
  rw [State.remount, State.fld_setFld_ne _ _ _ _ (regKey_ne_of_reg _ _ (by decide)),
    State.fld_setFld_apart _ RTF_STATUS.DIE_PRESENT RTF_STATUS.MOUNT_KIND _ _ rfl rfl rfl rfl, State.modTower_fld,
    State.fld_setReg_ne _ _ _ (regKey_ne_of_reg _ _ (by decide)), State.fld_setFld _ _ _ _ rfl h]

theorem rtfMount_remount : (s.remount t kind us kib dies wear).reg .RTF_MOUNT t = mountWord us kib := by
  rw [State.remount, State.reg_setFld_ne _ _ _ (regKey_ne_of_reg _ _ (by decide)),
    State.reg_setFld_ne _ _ _ (regKey_ne_of_reg _ _ (by decide)), State.modTower_reg, State.reg_setReg_same]

/-- Between `s` and `u` a mount of tower `t` has reported its end (R334, R336), and written nothing else but towers. -/
structure State.MountReported (s : State) (t kind us kib : Nat) (u : State) : Prop where
  writes : s.WritesTowers u (mountRegs t)
  state : u.rtState t = (s.tower t).mountState
  way : u.fld RTF_STATUS.MOUNT_KIND t = kind
  times : u.reg .RTF_MOUNT t = mountWord us kib

theorem State.MountReported.modTower {u : State} (h : s.MountReported t kind us kib u) (k : Nat) (f : Tower → Tower) :
    s.MountReported t kind us kib (u.modTower k f) :=
  ⟨h.writes.modTower k f, h.state, h.way, h.times⟩

theorem remount_reported (h : kind < 4) : s.MountReported t kind us kib (s.remount t kind us kib dies wear) :=
  ⟨remount_writesTowers, rtState_remount, mountKind_remount h, rtfMount_remount⟩

/-! ### The end of a mount -/

variable (s t us kib)

/-- Every mount but a scan keeps the read counts. -/
theorem endMount_journal (h : kind ≠ 3) : ∃ dies wear, s.endMount t kind us kib = s.remount t kind us kib dies wear :=
  ⟨_, _, if_neg h⟩

/-- After a scan mount the read counts start at half of the threshold. -/
theorem endMount_scan (h : kind = 3) : ∃ dies wear, s.endMount t kind us kib
    = (s.remount t kind us kib dies wear).modTower t (·.recounted (s.fld RTF_CFG.RD_THRESH t / 2)) := by
  have recount : ∃ dies wear, s.endMount t kind us kib = (s.remount t kind us kib dies wear).modTower t
      (·.recounted ((s.remount t kind us kib dies wear).fld RTF_CFG.RD_THRESH t / 2)) := ⟨_, _, if_pos h⟩
  simpa only [rdThresh_remount] using recount

theorem endMount_reported (h : kind < 4) : s.MountReported t kind us kib (s.endMount t kind us kib) := by
  by_cases scan : kind = 3
  · obtain ⟨dies, wear, ends⟩ := endMount_scan s t us kib scan
    exact ends ▸ (remount_reported h).modTower t _
  · obtain ⟨dies, wear, ends⟩ := endMount_journal s t us kib scan
    exact ends ▸ remount_reported h

theorem tower_endMount : (s.endMount t kind us kib).tower t
    = if kind = 3 then (s.tower t).resumed.recounted (s.fld RTF_CFG.RD_THRESH t / 2) else (s.tower t).resumed := by
  split
  next scan =>
    obtain ⟨dies, wear, ends⟩ := endMount_scan s t us kib scan
    rw [ends, State.tower_modTower, tower_remount]
  next journal =>
    obtain ⟨dies, wear, ends⟩ := endMount_journal s t us kib journal
    rw [ends, tower_remount]

/-- With no read waiting, a pass of grants grants nothing. -/
theorem grantTiles_of_pend_nil {s : State} (h : (s.tower t).pend = []) : s.grantTiles t = s := by
  unfold State.grantTiles
  rw [h]
  split
  · exact ite_self ..
  · rfl

/-- A mount leaves the accesses that wait, and with none it ends without serving one. -/
theorem mounted_of_none_waiting (wr : (s.tower t).waitWr = []) (rd : (s.tower t).pend = []) :
    s.mounted t kind us kib = s.endMount t kind us kib := by
  have wr' : ((s.endMount t kind us kib).tower t).waitWr = [] := by rw [tower_endMount]; split <;> exact wr
  have rd' : ((s.endMount t kind us kib).tower t).pend = [] := by rw [tower_endMount]; split <;> exact rd
  rw [State.mounted]
  simp only [wr', List.length_nil, State.takeWrites]
  exact grantTiles_of_pend_nil t rd'

end

theorem exec_mountEnd {s : State} {t : PartId} {kind : Fin 4} (us kib : Nat) (mounting : s.rtState t = 1)
    (named : kind.val ≠ 0) : exec (.mountEnd t kind us kib) s = .next (s.mounted t kind us kib) :=
  congrArg Host.Outcome.next (if_pos ⟨mounting, fun none => named (congrArg Fin.val none)⟩)

/-- Settles O52: with no access waiting, the end of a mount is its report and the resumed tower, whose read counts start
again after a scan. -/
theorem mountedTower : Obligations.MountedTower := by
  intro t s x only kind us kib mounting named hus hkib wr rd
  have reported := endMount_reported s t us kib kind.isLt
  have tower := tower_endMount (kind := kind) s t us kib
  have ladder : ((s.endMount t kind us kib).tower t).ladder = [] := by rw [tower]; split <;> rfl
  refine ⟨s.endMount t kind us kib, ?_, reported.state, reported.way, ?_, ?_, ladder, ?_, ?_, reported.writes.only,
    reported.writes.regs, fun scan => ?_, fun journal => ?_, fun g => ?_, ?_⟩
  · rw [exec_mountEnd us kib mounting named, mounted_of_none_waiting s t us kib wr rd]
  · exact (congrArg _ reported.times).trans (mountUs_mountWord kib hus)
  · exact (congrArg _ reported.times).trans (replayKib_mountWord us hkib)
  · rw [tower]; split <;> rfl
  · rw [tower]; split <;> rfl
  · rw [tower, if_pos scan]
    exact ⟨rfl, rfl⟩
  · rw [tower, if_neg journal]
    exact ⟨rfl, rfl⟩
  · rw [ladder, SMap.get_nil]
  · rw [reported.writes.only]

end Sys2Proof.Machine
end
